-- ==== Sys2Proof/Word.lean ====
section
/-! DEFINITION. The word types of the VXS-6432 and the sparse map that holds every large array of the state. -/

namespace Sys2Proof

/-- A 64-bit register or descriptor word. -/
abbrev Word := BitVec 64
/-- One byte of memory. -/
abbrev Byte := BitVec 8

/-- A sparse map from numbers to `α`: pairs in strictly rising key order, no pair equal to the default. -/
abbrev SM (α : Type) := List (Nat × α)

/-- The bits `[hi:lo]` of a number, as the manual writes bit ranges (R11). -/
def bits (n hi lo : Nat) : Nat := (n >>> lo) % 2 ^ (hi + 1 - lo)

/-- Bit `i` of a number. -/
def bit (n i : Nat) : Bool := n.testBit i

end Sys2Proof
end

