-- ==== Sys2Proof/Syntax.lean ====
section
/-! DEFINITION. The commands: one constructor of `Instr` for each row of the table of operations and events, with the
operands that the row's rule names, and the plain data types those operands are made of. -/

namespace Sys2Proof

/-! ## What the commands carry -/

/-- A ring of the host interface (R49). -/
inductive QueueId where
  | sq (r : Fin 64)
  | cq (c : Fin 16)
  deriving DecidableEq, Repr

/-- A descriptor held by the node: the one at free-running count `c` of submission ring `r` (R659), or child `k` (R248). -/
inductive DRef where
  | ring (r : Fin 64) (c : Nat)
  | child (k : Nat)
  deriving DecidableEq, Repr

/-- What a poisoned TLP was carrying (R38). -/
inductive PoisonHit where
  | ring (r : Fin 64)
  | stream (d : DRef)
  deriving DecidableEq, Repr

/-- Who writes a register: the host, or a unit of the node (R584), by its UNIT code of R593. -/
inductive WriteSrc where
  | host
  | unit (u : BitVec 8)
  deriving DecidableEq, Repr

/-- Bits [37:0] of a ledger entry: KIND, DIE, POS, CORE, UNIT (R510). -/
abbrev UnitId := BitVec 38

/-- What goes wrong in one check of the matrix engine or an element engine (R138 to R141, R174, R175): the checker by its SOURCE code of R510
(0 checksum column, 1 shadow column, 2 residue, 3 element residue or parity, 4 shadow lane), the matrix core, where the check happens (a k-group
with its row and run of equal shifts, or a pass with its lane), and by how much each value is off: what the engine produced, by logical
column or lane, what the recomputation gave, and what the checker implies. -/
structure Upset where
  by_ : Fin 5
  core : Fin 4
  group : Nat
  row : Nat
  run : Nat
  r : List (Nat × Int)
  n : List (Nat × Int)
  c : Int
  deriving DecidableEq, Repr

/-- Whose image a copy-on-write copy is: a step's, or a checkpoint hold (R468, R490). -/
inductive ImgTag where
  | step (tag : BitVec 64)
  | hold
  deriving DecidableEq, Repr

/-- One burst of a channel as the receiver takes it: two beats, each of 144 data and check bonds and two parity bonds (R289, R297). -/
structure Burst where
  b0 : BitVec 146
  b1 : BitVec 146
  deriving DecidableEq, Repr

/-- A hardware happening inside a command (R501): an upset of a matrix or element engine; a residue check of an update engine (of tile
`at_`), a Spar core or a factor engine whose result, expected residue and recomputation are off by `r`, `c` and `n`; a chunk CRC that does
not fit inside the node; a transfer of a stack whose bursts are `tries`, with the bond that its controller blames; and what the codes of the
memories find: in a sector of DRAM at an address, with the copy that lies there where it is a snapshot slot, or at a scratchpad offset. -/
inductive HwEv where
  | upset (u : Upset)
  | residue (at_ : Nat) (r c n : Int)
  | chunkCrc
  | parity (stack : Fin 32) (tries : List Burst) (bond : Option (Fin 4224))
  | corrected (addr : Nat)
  | uncorrectable (addr : Nat) (copy : Option (ImgTag × Nat))
  | spadCorrected (tile : Fin 32) (off : Nat)
  | spadUncorrectable (tile : Fin 32) (off : Nat)
  deriving DecidableEq, Repr

/-- The next STEP entry of the expected log that the node reads in replay (R460). -/
structure ExpStep where
  tag : BitVec 64
  bidHash : BitVec 64
  digest : BitVec 256
  deriving DecidableEq, Repr

/-- A weight region with its scoreboard entry (R187, R190, R194) and weight digest (R523); COUNT 0 is an undefined region.
`reads` holds the finished reads of the present version by step tag, so that F_w is their sum (R196, R197). -/
structure Region where
  count : Nat
  shard : Bool
  mask : BitVec 32
  hi : Nat
  lo : Nat
  st : Nat
  ver : BitVec 16
  reads : List (Nat × Nat)
  dig : Nat
  deriving DecidableEq, Repr

/-- A collective group (R387 to R393). `members` are the member entries of R388 as written; none is an undefined group. -/
structure Group where
  members : List (BitVec 32)
  mask : BitVec 32
  chunkLog : Nat
  slots : Nat
  dig : BitVec 64
  seq : Nat
  deriving DecidableEq, Repr

/-- The context and workspace contents of a sparse factor engine (R285): pattern, values, factor and pivot marks; `tainted` once another
unit wrote the workspace of the resident structure (R258). -/
structure SolCtx where
  resident : Bool
  nb : Nat
  bsc : Nat
  rowptr : List Nat
  colidx : List Nat
  fill : List (Nat × Nat)
  dig : BitVec 64
  fvalid : Bool
  anorm : BitVec 64
  tau : BitVec 64
  pivtol : BitVec 64
  vals : SM (BitVec 64)
  fac : SM (BitVec 64)
  marks : SM Nat
  tainted : Bool
  deriving DecidableEq, Repr

/-- One generator context of a lane (R211). `derived` is set once the counter has been derived (R214, R215). -/
structure RngCtx where
  ctr : BitVec 128
  widx : Nat
  blk : BitVec 128
  derived : Bool
  deriving DecidableEq, Repr

/-- The committed register state of R465, as one value. -/
structure RegState where
  flags : SM (BitVec 8)
  uf : SM Nat
  spFlags : BitVec 6
  regions : SM Region
  groups : SM Group
  sched : SM (BitVec 128)
  stepCnt : BitVec 64
  sol : SM SolCtx
  key : BitVec 128
  rng : SM RngCtx
  nan : BitVec 256
  lastTag : BitVec 64
  lastDig : BitVec 256
  deriving DecidableEq, Repr

/-- A record that is due for a completion ring (R46, R65). -/
structure Rec where
  ring : Nat
  count : Nat
  tag : BitVec 64
  status : BitVec 16
  result : BitVec 32
  digest : BitVec 64
  cq : Nat
  irq : Bool
  imm : Bool
  deriving DecidableEq, Repr

/-- A firmware image: its 8 KiB manifest and its body (R566). -/
structure FwImage where
  manifest : BitVec 65536
  body : List Byte
  deriving DecidableEq, Repr

/-- What the locker returns of one slot: the commit record, the segment table, the segments, and the register-state record
as node firmware reads segment 0 (R487, R488). -/
structure LkImage where
  record : BitVec 1024
  table : List (Nat × Nat × BitVec 384)
  segs : List (List Byte)
  regs : RegState
  deriving DecidableEq, Repr

/-- The remote request of R362, with its data or operands. -/
structure Request where
  rop : Nat
  size : Nat
  replay : Bool
  fadd : Bool
  src : BitVec 12
  dst : BitVec 12
  job : BitVec 16
  window : BitVec 8
  offset : BitVec 40
  fwindow : BitVec 8
  foffset : BitVec 40
  fvalue : BitVec 64
  seq : Nat
  epoch : BitVec 16
  tag : BitVec 64
  data : List Byte
  op1 : BitVec 64
  op2 : BitVec 64
  deriving DecidableEq, Repr

/-- A response or ACK on VC1 (R362, R364), which reuses the request's header with its ROP, SIZE, REPLAY, place and step tag; an ACK has no `seq` of its own and carries the cumulative count in `cum`. `nans`
lists acknowledged FP atomics whose new value was a NaN, with its cause (R358; PRESUMED, the manual gives no field for it). -/
structure Response where
  isAck : Bool
  rop : Nat
  size : Nat
  replay : Bool
  fadd : Bool
  window : BitVec 8
  offset : BitVec 40
  tag : BitVec 64
  src : BitVec 12
  dst : BitVec 12
  job : BitVec 16
  seq : Nat
  cum : Nat
  epoch : BitVec 16
  status : BitVec 8
  hint : BitVec 16
  data : List Byte
  nans : List (Nat × Nat)
  deriving DecidableEq, Repr

/-- The collective header of R409. -/
structure CollHdr where
  group : BitVec 10
  stage : BitVec 2
  src : BitVec 12
  dst : BitVec 12
  job : BitVec 16
  slot : BitVec 8
  seq : Nat
  chunk : Nat
  part : Nat
  last : Bool
  epoch : BitVec 16
  crc : BitVec 32
  tag : BitVec 64
  gdig : BitVec 64
  pdig : BitVec 64
  deriving DecidableEq, Repr

/-- The trail packet header of R475. -/
structure TrailHdr where
  kind : BitVec 4
  rank : BitVec 12
  src : BitVec 12
  dst : BitVec 12
  job : BitVec 16
  epoch : BitVec 16
  part : Nat
  page : Nat
  tag : BitVec 64
  crc : BitVec 32
  deriving DecidableEq, Repr

/-- A beat packet (R348): beat number, accumulated delay in ns, job ID. -/
structure BeatPkt where
  num : Nat
  delay : Nat
  job : BitVec 16
  hops : Nat
  deriving DecidableEq, Repr

/-- Why the masthead counts a member lost (R473). -/
inductive LossCause where
  | dead | relay | self | drained | resetByMember | digest
  deriving DecidableEq, Repr

/-- A member's digest record of a replica comparison (R526): the comparison's group and step, its mask, and (region, version, digest) for
each selected region. -/
structure DigRec where
  idx : Nat
  group : Nat
  tag : BitVec 64
  mask : BitVec 64
  vals : List (Nat × BitVec 16 × Nat)
  deriving DecidableEq, Repr

/-- What the masthead relays for a crew node, in either direction (R71); `outside` answers a request that the masthead's
outbound windows, which it carries, do not allow (R72, R585), and `windows` tells the crew node those windows (log 46). -/
inductive RelayItem where
  | fetch (idx : Fin 64) (addr len : Nat)
  | fetchData (idx : Fin 64) (data : List Byte)
  | write (idx : Fin 64) (addr len value : Nat)
  | read (idx : Fin 64) (addr len : Nat)
  | readData (idx : Fin 64) (data : List Byte)
  | vector (idx : Fin 64) (v : Nat)
  | doorbell (idx : Fin 64) (off : Nat) (wide : Bool) (value : BitVec 64)
  | regRead (idx : Fin 64) (off : Nat) (wide : Bool)
  | regReadData (idx : Fin 64) (off : Nat) (value : BitVec 64)
  | regWrite (idx : Fin 64) (off : Nat) (wide : Bool) (value : BitVec 64)
  | outside (idx : Fin 64) (addr value : Nat) (wins : List (BitVec 64 × BitVec 64))
  | windows (wins : List (BitVec 64 × BitVec 64))
  deriving DecidableEq, Repr

/-- Fleet control messages of VC7 (R73). -/
inductive FleetMsg where
  | index (n : Nat)
  | fleetMap (ids : List Nat) (part : BitVec 64) (cow : BitVec 16)
  | stepDone (idx rank : Nat) (tag : BitVec 64) (drain : Bool) (fbid bid : BitVec 64)
  | commit (tag : BitVec 64) (marks : List Nat)
  | rollback (tag : BitVec 64) (epoch : BitVec 32)
  | restored (idx : Nat)
  | go
  | lost (node : BitVec 12) (why : LossCause)
  | bind (rank idx : Nat) (epoch : BitVec 32)
  | spareReady (idx : Nat)
  | bid (idx rank : Nat) (bid : BitVec 64)
  | job (id : BitVec 16)
  | jobDone (idx : Nat)
  | furl | wake
  | furled (idx : Nat)
  | relayHold | relayResume
  | ckptDone (idx gen : Nat)
  | ckptAbandon (gen : Nat)
  | stopFetch
  | relay (i : RelayItem)
  deriving DecidableEq, Repr

/-- What travels on the fabric (R333). -/
inductive Payload where
  | req (r : Request)
  | resp (r : Response)
  | coll (kind : BitVec 4) (h : CollHdr) (data : List Byte)
  | beat (b : BeatPkt)
  | portNotice (port : Nat) (up : Bool)
  | trail (h : TrailHdr) (data : List Byte)
  | digest (r : DigRec)
  | fleet (m : FleetMsg)
  deriving DecidableEq, Repr

/-- A packet: virtual channel, target node (none: each listed port's peer), length in bytes, contents. -/
structure Packet where
  vc : Nat
  dst : BitVec 12
  ports : BitVec 16
  len : Nat
  body : Payload
  deriving DecidableEq, Repr

/-- A packet on a link, with the job ID that the sender's fabric die stamps on it (R341). -/
structure Sent where
  pkt : Packet
  job : BitVec 16
  deriving DecidableEq, Repr

/-- A flit (R330): its header fields, its 628 bytes of packet space as a number, its CRC, and the packets whose last byte lies in it. -/
structure Flit where
  seq : Nat
  ack : Nat
  nak : Bool
  cvc : Nat
  ccnt : Nat
  kind : Nat
  space : BitVec 5024
  crc : BitVec 32
  body : List Sent
  deriving DecidableEq, Repr

/-- What a scalar instruction of a tile-core thread does: a write of a general register, a load of 2^n bytes into one, a store of 2^n bytes;
addresses have the form of R145. -/
inductive Scalar where
  | reg (g : Fin 32) (v : BitVec 64)
  | load (g : Fin 32) (addr : BitVec 64) (n : Fin 4)
  | store (addr : BitVec 64) (n : Fin 4) (v : BitVec 64)
  deriving DecidableEq, Repr

/-- One engine instruction of a tile-core thread: its address, its 64-bit word, the word after it (MMAF, R209), what the thread's scalar
instructions did since the thread's last engine instruction, and whether the program halts after this instruction. -/
structure VxtIssue where
  tile : Fin 32
  thread : Fin 16
  pc : BitVec 64
  word : BitVec 64
  ext : BitVec 64
  scalars : List Scalar
  last : Bool
  deriving DecidableEq, Repr

/-- The issuer of a remote operation: a Spar-core thread with the word of R359, or a tile-core thread with that of R360. -/
inductive RIssue where
  | spar (core : Fin 48) (thr : Fin 8) (word : BitVec 32)
  | tile (i : VxtIssue)
  deriving DecidableEq, Repr

/-- A Spar-core hardware thread with the instruction word that it issues. The spec gives no layout of bits [26:0] of a class, so that a
command carries what those bits name as operands, and whether they are a reserved encoding of their class (R223). -/
structure SThr where
  core : Fin 48
  thr : Fin 8
  word : BitVec 32
  reserved : Bool
  deriving DecidableEq, Repr

/-- The integer operations of classes 0x01 and 0x02 (R223). -/
inductive IntOp where
  | add | sub | and | or | xor | sll | srl | sra | rotl | rotr
  | eq | ne | lt | ltu | le | leu
  | min | max | minu | maxu | popcount | clz | bytrev
  | reserved
  deriving DecidableEq, Repr

/-- The operations of class 0x04 (R223, R224). -/
inductive MdOp where
  | mul | mulh | mulhu | div | divu | rem | remu | reserved
  deriving DecidableEq, Repr

/-- The branch conditions of class 0x06 (R223). -/
inductive BrOp where
  | eq | ne | lt | ltu | ge | geu
  | reg
  | reserved
  deriving DecidableEq, Repr

/-- A scalar load or store (R223): direction, width code (bytes are 2 ^ width), sign extension, registers, offset, and whether the L1 completes
it (R220; what a 64 KiB L1 holds depends on a replacement that the spec does not give). -/
structure LsOp where
  store : Bool
  width : Fin 4
  signed : Bool
  d : Fin 32
  base : Fin 32
  off : BitVec 14
  fp : Bool
  hit : Bool
  deriving DecidableEq, Repr

/-- The node atomics of class 0x09 (R223). -/
inductive AtOp where
  | add | min | max | minu | maxu | xchg | cas | reserved
  deriving DecidableEq, Repr

/-- Scalar and vector floating-point operations (R223, R234, R238); a conversion names its two formats by the codes of R118. -/
inductive FpOp where
  | add | sub | mul | fma | div | sqrt | min | max
  | ceq | clt | cle
  | classify
  | cvt (src dst : Fin 8)
  | reserved
  deriving DecidableEq, Repr

/-- Vector operations of R234. -/
inductive VecOp where
  | int (o : IntOp)
  | mul
  | fp (o : FpOp)
  | cmpInt (o : IntOp)
  | cmpFp (o : FpOp)
  | merge
  | redMax | redMin
  | reserved
  deriving DecidableEq, Repr

/-- The three forms of vector memory access (R233). -/
inductive VMode where
  | unit
  | strided (stride : Fin 32)
  | indexed (z : Fin 32)
  deriving DecidableEq, Repr

/-- The thread control registers of R218, R237, R243. -/
inductive CReg where
  | vspan | vri | fpc | fvec | fret | fcode | fdata | fspan | fvri | fstat
  | reserved
  deriving DecidableEq, Repr

/-- Widening and dot-product instructions of R236. -/
inductive WideOp where
  | i8 | i16 | i32 | eq16 | f32 | u8s8
  deriving DecidableEq, Repr

/-- What full training of a port meets (R324): it ends, with the generation that the peer advertises, the width, the link delay in ns and the
eight lanes' equaliser coefficients (R327), or equalisation fails once. -/
inductive TrainEnd where
  | up (peer width : Fin 3) (delay : Nat) (coefs : List Nat)
  | eqFail (peer : Fin 3)
  deriving DecidableEq, Repr

/-- A port that comes up at boot: the generation that its peer advertises, how many generations it stepped down, and the rest as in
`TrainEnd`. -/
structure PortUp where
  port : Fin 16
  peer : Fin 3
  downs : Fin 3
  width : Fin 3
  delay : Nat
  coefs : List Nat
  deriving DecidableEq, Repr

/-- Causes of a PERST-class reset (R528, R650). -/
inductive PerstCause where
  | pin | hotReset | linkDown
  deriving DecidableEq, Repr

/-- What the spare of a taken-over rank has of the rank's rings (R69, R480): the records that had not reached the host, and by ring the count
before which the rank's committed descriptors end. -/
structure Waiting where
  recs : List Rec
  ends : List (Fin 64 × Nat)
  deriving DecidableEq, Repr

/-- A turn of a channel at the switch: whether the injection rate leaves room (R342), and the fcyc for which a packet that lacks credits has
waited since the last turn (R340). -/
structure Turn where
  room : Bool
  waited : Nat
  deriving DecidableEq, Repr

/-- Where a port notice comes from: the port it came in by, its job ID (R341), and the node that sent it (R344). -/
structure NoticeFrom where
  via : Fin 16
  job : BitVec 16
  node : BitVec 12
  deriving DecidableEq, Repr

/-- Sensor readings in °C: the four stack sensors and the junction of each tile, and the other dies (R307, R308, R552). -/
structure Temps where
  stack : List (List Nat)
  tileJ : List Nat
  pdJ : Nat
  fd0J : Nat
  fd1J : Nat
  deriving DecidableEq, Repr

/-- What power-up BIST finds (R517, R518): the unit, or the unit of a checker that missed a forced disagreement. -/
structure BistFail where
  unit : UnitId
  checkerMissed : Bool
  deriving DecidableEq, Repr

/-- What a boot meets outside the firmware: the strap count of R542 (none: open), BIST findings, the locker probe, and
the MRAM copies that pass their CRC, and the ports that come up. -/
structure BootIn where
  strap : Option (Fin 64)
  bist : List BistFail
  lockerOk : Bool
  slotA : Option (BitVec 1024)
  slotB : Option (BitVec 1024)
  mapCopyA : Bool
  mapCopyB : Bool
  ledCopyA : Bool
  ledCopyB : Bool
  upPorts : List PortUp
  deriving DecidableEq, Repr

/-- What comes from the locker: a command completes (R484), or the locker makes a DMA access at a node address (R485), with the bytes of a
write. -/
inductive LkDone where
  | ok
  | dma (write : Bool) (addr : Nat) (data : List Byte)
  | readData (data : List Byte)
  | error (status : Nat)
  deriving DecidableEq, Repr

/-- What ends a Furled state (R554, R558). -/
inductive WakeBy where
  | vc7 | doorbell | setup | packet
  deriving DecidableEq, Repr

/-- What a collective work unit does with one chunk (R408). -/
inductive WorkKind where
  | contribute
  | reduce (src : BitVec 12)
  | forward (dst : BitVec 12)
  | write
  deriving DecidableEq, Repr

/-! ## The commands -/

/-- The commands of the block, in the order of the table. Each constructor's row and rule stand beside it. -/
inductive Instr where
  -- host interface
  | doorbellTail (page : Fin 64) (off : Nat) (wide : Bool) (value : BitVec 64)                 -- R57
  | doorbellHead (page : Fin 64) (off : Nat) (wide : Bool) (value : BitVec 64)                 -- R57
  | descriptorFetch (r : Fin 64) (ds : List (BitVec 512))                             -- R55
  | ringEnable (q : QueueId) (cfg : BitVec 64)                                        -- R49
  | ringDisable (q : QueueId) (cfg : BitVec 64)                                       -- R49
  | poisonedTlpReceived (w : PoisonHit)                                               -- R38
  | pointerRecordWrite (r : Fin 64)                                                   -- R54
  | commitStall (tag : BitVec 64)                                                     -- R41
  | postWaitingRecords (c : Fin 16)                                                   -- R65
  | nop (d : DRef)                                                                    -- R44
  | query (d : DRef)                                                                  -- R622
  | setup (d : DRef) (list : List (BitVec 256))                                       -- R620
  | registerWrite (src : WriteSrc) (off : Nat) (wide : Bool) (value : BitVec 64)               -- R662
  | stepSeal (d : DRef) (exp : Option ExpStep)                                        -- R61
  -- descriptors of the streams
  | tileRun (d : DRef) (halts : BitVec 32)                                            -- R148
  | trainRun (d : DRef) (halts : BitVec 32)                                           -- R194
  | update (d : DRef) (ev : List HwEv)                                                -- R202
  | wregion (d : DRef) (ev : List HwEv)                                               -- R187
  | wsplit (d : DRef) (ev : List HwEv)                                                -- R193
  | wjoin (d : DRef) (ev : List HwEv)                                                 -- R193
  | wvTimeout (d : DRef)                                                              -- R200
  | xconv (d : DRef) (ev : List HwEv)                                                 -- R206
  | xstat (d : DRef) (ev : List HwEv)                                                 -- R208
  | htod (d : DRef) (data : List Byte) (ev : List HwEv)                               -- R45
  | dtoh (d : DRef) (ev : List HwEv)                                                  -- R45
  | sparRun (d : DRef)                                                                -- R246
  | sfStruct (d : DRef) (ev : List HwEv)                                              -- R270
  | sfRefactor (d : DRef) (run : Bool) (ev : List HwEv)                               -- R273
  | sfSolve (d : DRef) (run : Bool) (ev : List HwEv)                                  -- R280
  | sfFree (d : DRef)                                                                 -- R260
  | deadlineMiss (e : Fin 4)                                                          -- R282
  | cdef (d : DRef) (ev : List HwEv)                                                  -- R387
  | coll (d : DRef)                                                                   -- R394
  | schedLoad (d : DRef) (ev : List HwEv)                                             -- R432
  | ckpt (d : DRef)                                                                   -- R489
  | resume (d : DRef) (img : Option LkImage)                                          -- R493
  | drainRank (d : DRef)                                                              -- R498
  | lkread (d : DRef) (dma : Option (List (Nat × List Byte)))                         -- R494
  -- commit and recovery
  | stepDone (tag : BitVec 64)                                                        -- R471
  | stepDoneReceive (idx : Fin 64) (rank : Nat) (tag : BitVec 64) (drain : Bool) (fbid bid : BitVec 64)  -- R472
  | commitApply (tag : BitVec 64) (marks : List Nat)                                  -- R62
  | nodeLost (idx : Fin 64) (why : LossCause) (secured : Bool) (fit : List (Fin 64))                                         -- R473
  | rollback (tag : BitVec 64) (epoch : BitVec 32)                                    -- R479
  | spareBind (rank : Nat) (idx : Fin 64) (epoch : BitVec 32) (source : Fin 2) (pointers cqs : List (Nat × Nat × Nat)) (rings : List (Nat × BitVec 64))  -- R480
  | spareReady (idx : Fin 64) (regs : RegState) (cells : List (Nat × Byte)) (waiting : Waiting)                -- R480
  | go                                                                                -- R479
  | trailPacketReceive (port : Fin 16) (h : TrailHdr) (data : List Byte)                              -- R476
  | secured (port : Fin 16) (h : TrailHdr)                                                            -- R476
  | resend (port : Fin 16) (h : TrailHdr)                                                             -- R476
  | cowImageCopy (tag : ImgTag) (page : Nat) (ev : List HwEv)                         -- R468
  | lockerCompletion (r : LkDone)                                                     -- R484
  | checkpointDone (idx : Fin 64) (gen : Nat) (abandoned : Bool)                                         -- R489
  -- beat
  | beatInEdge (t : Nat)                                                              -- R427
  | fabricBeat (port : Fin 16) (b : BeatPkt) (t residence : Nat)                      -- R349
  | beatApply (t : Nat)                                                               -- R350
  | flywheelBeat (t : Nat)                                                            -- R427
  -- links
  | laneLockLost (p : Fin 16) (lanes : BitVec 8)                                      -- R343
  | flitReceive (p : Fin 16) (t : Nat) (errs : List (Fin 544)) (align : BitVec 20) (f : Flit)  -- R331
  | flitAckTimeout (p : Fin 16)                                                       -- R331
  | packetSend (vc : Fin 8) (turn : Turn)                                             -- R334
  | fastRetrainDone (p : Fin 16)                                                      -- R344
  | fastRetrainFail (p : Fin 16)                                                      -- R347
  | portDownNotice (src : NoticeFrom) (port : Fin 16) (up : Bool)                      -- R344
  | portTrainRequest (d : DRef) (p : Fin 16)                                          -- R328
  | portTrainingDone (p : Fin 16) (r : TrainEnd)                                      -- R324
  | tdeadSuspendEnd (node : BitVec 12)                                                -- R346
  -- remote memory
  | rld (i : RIssue)                                                                  -- R357
  | rst (i : RIssue)                                                                  -- R357
  | rfst (i : RIssue)                                                                 -- R365
  | radd (i : RIssue)                                                                 -- R358
  | rmin (i : RIssue)                                                                 -- R357
  | rmax (i : RIssue)                                                                 -- R357
  | rfadd (i : RIssue)                                                                -- R357
  | rfmin (i : RIssue)                                                                -- R357
  | rfmax (i : RIssue)                                                                -- R357
  | rcas (i : RIssue)                                                                 -- R357
  | rfence (i : RIssue)                                                               -- R368
  | remoteRequestReceive (port : Fin 16) (r : Request)                                -- R356
  | atomicUnitApply (stack : Fin 32) (sector : Nat) (ev : List HwEv)                  -- R371
  | sectorBufferWriteback (stack : Fin 32) (sector : Nat)                             -- R371
  | combinerWindowClose (fd : Fin 2) (addr : Nat)                                     -- R375
  | ack (src : BitVec 12)                                                             -- R364
  | remoteResponseReceive (port : Fin 16) (r : Response)                                              -- R368
  | defer (port : Fin 16) (r : Response)                                                              -- R373
  | deferResend (dst : BitVec 12) (seq : Nat)                                         -- R373
  | tdeadExpiry (dst : BitVec 12) (seq : Nat)                                         -- R378
  -- collectives
  | collGrant (port : Fin 16) (h : CollHdr)                                           -- R405
  | collData (port : Fin 16) (h : CollHdr) (data : List Byte)                         -- R409
  | collMarker (port : Fin 16) (h : CollHdr)                                          -- R417
  | collWorkUnit (tile : Fin 32) (thread : Fin 16) (group seq chunk : Nat) (k : WorkKind) (ev : List HwEv)  -- R408
  | markerSend (tag : BitVec 64)                                                      -- R416
  | collTimeout (d : DRef)                                                            -- R419
  | notOpen (tile : Fin 32) (group chunk : Nat)                                       -- R402
  -- VXT instructions
  | mzero (i : VxtIssue)                                                              -- R146
  | mma (i : VxtIssue) (order : List Nat) (ev : List HwEv)                            -- R146
  | mclose (i : VxtIssue)                                                             -- R133
  | mload (i : VxtIssue) (ev : List HwEv)                                             -- R146
  | mstore (i : VxtIssue)                                                             -- R146
  | mmaf (i : VxtIssue) (order : List Nat) (ev : List HwEv)                           -- R149
  | eprun (i : VxtIssue) (ev : List HwEv)                                             -- R162
  | xfer (i : VxtIssue) (ev : List HwEv)                                              -- R314
  | xferComplete (tile : Fin 32) (thread : Fin 16) (slot : Nat) (ev : List HwEv)      -- R315
  | fence (i : VxtIssue)                                                              -- R185
  -- Spar-core instructions
  | integerRegisterOp (t : SThr) (op : IntOp) (d a b : Fin 32)                        -- R223
  | integerImmediateOp (t : SThr) (op : IntOp) (d a : Fin 32) (imm : BitVec 14)       -- R223
  | immx (t : SThr) (d : Fin 32) (imm : BitVec 16)                                    -- R223
  | multiplyDivide (t : SThr) (op : MdOp) (d a b : Fin 32)                            -- R224
  | branch (t : SThr) (op : BrOp) (a b : Fin 32) (off : BitVec 14)                    -- R223
  | call (t : SThr) (d : Fin 32) (off : BitVec 14)                                    -- R223
  | scalarLoadStore (t : SThr) (op : LsOp) (ev : List HwEv)                           -- R226
  | nodeAtomic (t : SThr) (op : AtOp) (wide : Bool) (d a b c : Fin 32) (ev : List HwEv)  -- R223
  | scalarFloatingPoint (t : SThr) (op : FpOp) (ew : Fin 4) (d a b c : Fin 32) (ev : List HwEv)  -- R238
  | fenceL (t : SThr)                                                                 -- R228
  | fenceN (t : SThr)                                                                 -- R228
  | cwb (t : SThr) (a : Fin 32)                                                       -- R228
  | cinv (t : SThr) (a : Fin 32)                                                      -- R223
  | controlRegisterAccess (t : SThr) (write : Bool) (c : CReg) (r : Fin 32)           -- R223
  | trap (t : SThr) (code : BitVec 16)                                                -- R243
  | fresume (t : SThr)                                                                -- R243
  | halt (t : SThr)                                                                   -- R239
  | yield (t : SThr)                                                                  -- R223
  | dpost (t : SThr) (d a : Fin 32)                                                   -- R248
  | dwait (t : SThr) (d a : Fin 32)                                                   -- R251
  | remoteAccessReturn (t : SThr)                                                     -- R220
  | vspanset (t : SThr) (d a : Fin 32)                                                -- R231
  | vectorLoadStore (t : SThr) (store : Bool) (m : VMode) (ew : Fin 4) (ward : Fin 16) (z base : Fin 32) (ev : List HwEv)  -- R233
  | vectorArithmetic (t : SThr) (op : VecOp) (ew : Fin 4) (ward : Fin 16) (d a b c : Fin 32) (ev : List HwEv)  -- R232
  | vsums (t : SThr) (ew : Fin 4) (ward : Fin 16) (d a : Fin 32)                      -- R235
  | vsumt (t : SThr) (ew : Fin 4) (ward : Fin 16) (d a : Fin 32)                      -- R235
  | vxmul (t : SThr) (op : WideOp) (high : Bool) (ew : Fin 4) (ward : Fin 16) (d a b : Fin 32)  -- R236
  | vxmac (t : SThr) (op : WideOp) (high : Bool) (ew : Fin 4) (ward : Fin 16) (d a b : Fin 32)  -- R236
  | vdot (t : SThr) (op : WideOp) (ew : Fin 4) (ward : Fin 16) (d a b : Fin 32)       -- R236
  -- memory and health
  | patrolScrubRead (stack : Fin 32) (sector : Nat) (tries : List Burst) (bond : Option (Fin 4224)) (copy : Option (ImgTag × Nat))  -- R302
  | d2dParityRetry (link : Fin 26) (dir : Fin 2) (wire : Fin 1056) (second : Nat)     -- R18
  | bankRefresh (stack : Fin 32) (channel : Fin 32) (bank : Fin 32)                   -- R307
  | thermalSensorRead (t : Temps)                                                     -- R308
  -- set-up rows of their own
  | lostPageClear (d : DRef) (list : List (BitVec 256))                               -- R306
  | nanTrapClear (d : DRef) (list : List (BitVec 256))                                -- R108
  | mapImpose (d : DRef) (list : List (BitVec 256))                                   -- R452
  | logHeadUpdate (d : DRef) (list : List (BitVec 256))                               -- R457
  | divergeClear (d : DRef) (list : List (BitVec 256))                                -- R461
  | unitReport (d : DRef) (list : List (BitVec 256))                                  -- R514
  -- fleet
  | fleetEntryWrite (n : Fin 64) (value : BitVec 64)                                  -- R70
  | fleetIndexAssign (n : Fin 64)                                                     -- R70
  | fleetMap (ids : List Nat) (part : BitVec 64) (cow : BitVec 16)                    -- R353
  | relayedHostTraffic (item : RelayItem)                                             -- R71
  | crewWindowRead (off : Nat) (wide : Bool)                                                   -- R75
  | crewWindowWrite (off : Nat) (wide : Bool) (value : BitVec 64)                              -- R636
  | crewReadTimeout (idx : Fin 64)                                                    -- R75
  | relayLost                                                                         -- R76
  | relayReturn                                                                       -- R76
  | relayHold                                                                         -- R539
  | relayResume                                                                       -- R539
  | relayHoldTimeout                                                                  -- R539
  -- reset, power
  | powerOn (vbakKept : Bool)                                                         -- R528
  | vinLow                                                                            -- R559
  | vauxLow (vbakLow : Bool)                                                          -- R647
  | thermtrip                                                                         -- R553
  | perst (c : PerstCause) (released : Bool)                                          -- R528
  | resetN (released : Bool)                                                          -- R532
  | boot (b : BootIn)                                                                 -- R546
  | warmReset (value : BitVec 64)                                                     -- R548
  | watchdogExpiry                                                                    -- R531
  | lock                                                                              -- R535
  | jobCommand (value : BitVec 64)                                                    -- R533
  | jobCommandReceive (src : BitVec 12) (id : BitVec 16)                              -- R533
  | jobResetDone (idx : Fin 64)                                                       -- R533
  | blockResetRequest (id : BitVec 8)                                                 -- R536
  | blockHangDetect (id : BitVec 8)                                                   -- R536
  | blockIsolate (id : BitVec 8) (idle : Bool)                                        -- R537
  | blockResetDone (id : BitVec 8)                                                    -- R538
  | braceEntry                                                                        -- R559
  | braceExit (micros : Nat)                                                          -- R559
  | powerLimiterSample (avg cur : Nat) (lowFor10ms sinceChange : Bool)                -- R551
  | frefLoss                                                                          -- R650
  | furled (d : DRef) (list : List (BitVec 256))                                      -- R555
  | furl                                                                              -- R554
  | wake (by_ : WakeBy)                                                               -- R554
  | d3hot                                                                             -- R556
  | d0                                                                                -- R556
  | digestRecord (r : DigRec)                                                         -- R527
  | marginTestDone (profile : BitVec 8) (fails : List UnitId) (again : List UnitId)   -- R522
  -- telltale
  | fire (value : BitVec 64)                                                          -- R590
  | freeze                                                                            -- R599
  | thaw                                                                              -- R599
  | freezeTimeout                                                                     -- R599
  | flush                                                                             -- R597
  | telltaleFlushDone                                                                 -- R598
  | mclear (value : BitVec 64)                                                        -- R601
  | ttRdcntWrite (src : WriteSrc) (value : BitVec 32)                                 -- R601
  -- security
  | fwWrite (img : FwImage)                                                           -- R571
  | svnCommit                                                                         -- R571
  | revoke                                                                            -- R571
  | attest                                                                            -- R576
  | dbgChallenge                                                                      -- R580
  | dbgResponse                                                                       -- R580
  | dbgNonceExpiry                                                                    -- R580
  | dbgClose                                                                          -- R571
  | lcAdvance                                                                         -- R579
  | rcvLoad (img : FwImage)                                                           -- R573
  | nodeidSet                                                                         -- R574
  | pwunlock (pw : BitVec 256)                                                        -- R581
  | extest                                                                            -- R580
  | getVersion                                                                        -- R575
  | getCapabilities                                                                   -- R575
  | negotiateAlgorithms                                                               -- R575
  | getDigests                                                                        -- R575
  | getCertificate (slot off len : Nat)                                               -- R575
  | challenge (slot : Nat) (nonce : BitVec 256)                                       -- R575
  | getMeasurements (index : Nat)                                                     -- R575
  -- SMBus
  | status                                                                            -- R653
  | vin                                                                               -- R653
  | vaux                                                                              -- R653
  | vbak                                                                              -- R653
  | power                                                                             -- R653
  | tjmax                                                                             -- R653
  | tcasemax                                                                          -- R653
  | reef                                                                              -- R653
  | alertcauseRead                                                                    -- R653
  | alertcauseWrite (v : BitVec 16)                                                   -- R653
  | alertmaskRead                                                                     -- R653
  | alertmaskWrite (v : BitVec 16)                                                    -- R653
  | ident                                                                             -- R653
  | frefReturn                                                                        -- R650
  | struck (furledCrew : List (Fin 64))                                               -- R556
  | bidHashReport (idx : Fin 64) (rank : Nat) (bid : BitVec 64)                       -- R480
  | alertResponseAddress                                                              -- R652
  deriving DecidableEq, Repr

end Sys2Proof
end

