-- ==== Sys2Proof/Machine/Sparse.lean ====
section
/-! DEFINITION. The sparse map that holds every large array of the state, and the byte-order, bit-field and list
helpers that the meanings share. -/

namespace Sys2Proof

/-- Two keys in strictly rising order, as the canonical form of a sparse map has them. -/
abbrev SM.Sorted {α : Type} (m : SM α) : Prop := m.Pairwise (fun a b => a.1 < b.1)

/-- The canonical form: keys strictly rising, and no pair equal to the default of its key. -/
abbrev SM.Canon {α : Type} (dflt : Nat → α) (m : SM α) : Prop :=
  SM.Sorted m ∧ ∀ p ∈ m, p.2 ≠ dflt p.1

/-- The value at a key: the listed one, or the default. -/
def SM.getD {α : Type} (dflt : α) : SM α → Nat → α
  | [], _ => dflt
  | (k, v) :: m, a => if k = a then v else if a < k then dflt else SM.getD dflt m a

/-- Removal of a key. -/
def SM.erase {α : Type} : SM α → Nat → SM α
  | [], _ => []
  | (k, v) :: m, a => if k = a then m else if a < k then (k, v) :: m else (k, v) :: SM.erase m a

/-- Insertion of a pair, replacing the pair of the same key. -/
def SM.insert {α : Type} : SM α → Nat → α → SM α
  | [], a, x => [(a, x)]
  | (k, v) :: m, a, x =>
    if k = a then (a, x) :: m else if a < k then (a, x) :: (k, v) :: m else (k, v) :: SM.insert m a x

/-- A write that keeps the canonical form: writing the default removes the entry. -/
def SM.setD {α : Type} [DecidableEq α] (dflt : α) (m : SM α) (a : Nat) (x : α) : SM α :=
  if x = dflt then m.erase a else m.insert a x

/-- The map with its keys `lo` to `lo + n - 1` given by `f`, in canonical form. -/
def SM.splice {α : Type} [DecidableEq α] (dflt : α) (m : SM α) (lo n : Nat) (f : Nat → α) : SM α :=
  m.filter (fun p => p.1 < lo)
    ++ (List.range n).filterMap (fun i => if f i = dflt then none else some (lo + i, f i))
    ++ m.filter (fun p => lo + n ≤ p.1)

/-- The map without the keys `lo` to `lo + n - 1`. -/
def SM.clear {α : Type} (m : SM α) (lo n : Nat) : SM α := m.filter (fun p => p.1 < lo || decide (lo + n ≤ p.1))

/-! ## Byte order and bit fields (R11: fields are little-endian unless said) -/

/-- The number that bytes spell, the first byte least significant. -/
def leNat : List Byte → Nat
  | [] => 0
  | b :: bs => b.toNat + 256 * leNat bs

/-- The `k` bytes of a number, the least significant first. -/
def leBytes : Nat → Nat → List Byte
  | 0, _ => []
  | k + 1, n => BitVec.ofNat 8 n :: leBytes k (n / 256)

/-- The number that bytes spell, the first byte most significant. -/
def beNat (bs : List Byte) : Nat := bs.foldl (fun n b => 256 * n + b.toNat) 0

/-- The `k` bytes of a number, the most significant first. -/
def beBytes (k n : Nat) : List Byte := (leBytes k n).reverse

/-- `n` with its bits `[lo+w-1:lo]` replaced by those of `v`. -/
def putBits (n lo w v : Nat) : Nat :=
  n - ((n >>> lo) % 2 ^ w) <<< lo + (v % 2 ^ w) <<< lo

/-- The bits `[lo+w-1:lo]` of a number. -/
def getBits (n lo w : Nat) : Nat := (n >>> lo) % 2 ^ w

/-- The numbers below `n` whose bit is set in `m`, rising. -/
def setBits (n m : Nat) : List Nat := (List.range n).filter (fun i => m.testBit i)

/-- The mask of the bits listed. -/
def maskOf (l : List Nat) : Nat := l.foldl (fun m i => m ||| 2 ^ i) 0

/-- The integer a `w`-bit two's-complement field spells. -/
def sext (w n : Nat) : Int := if n % 2 ^ w < 2 ^ (w - 1) then (n % 2 ^ w : Nat) else ((n % 2 ^ w : Nat) : Int) - (2 ^ w : Nat)

/-- An integer as a `w`-bit two's-complement number. -/
def wrapInt (w : Nat) (i : Int) : Nat := (i % ((2 ^ w : Nat) : Int)).toNat

/-- A list cut into pieces of `k` (the last may be shorter), for at most `n` pieces. -/
def chunks {α : Type} (k : Nat) : Nat → List α → List (List α)
  | 0, _ => []
  | n + 1, l => if l.isEmpty then [] else l.take k :: chunks k n (l.drop k)

/-- A saturating count of `w` bits, one higher. -/
def satInc (w n : Nat) : Nat := if n + 1 < 2 ^ w then n + 1 else n

/-- A stable sort by insertion: `le a b` says that `a` may stand before `b`. -/
def insertBy {α : Type} (le : α → α → Bool) (x : α) : List α → List α
  | [] => [x]
  | y :: t => if le x y then x :: y :: t else y :: insertBy le x t
def sortBy {α : Type} (le : α → α → Bool) : List α → List α
  | [] => []
  | x :: t => insertBy le x (sortBy le t)

/-- The first position at which a test holds. -/
def firstIdx {α : Type} (p : α → Bool) (l : List α) : Option Nat :=
  (l.zipIdx.find? (fun x => p x.1)).map (·.2)

/-- The list with the element at `i` replaced through `f`. -/
def updAt {α : Type} (l : List α) (i : Nat) (f : α → α) : List α := l.modify i f

end Sys2Proof
end

