-- ==== Sys2Proof/Machine/Float.lean ====
section
/-! DEFINITION. Exact values, their rounding to FP64, FP32, EQ16 and EQ8, and the IEEE operations (R77 to R94). Every
operation computes an exact number and rounds once. -/

namespace Sys2Proof.Fp

/-- Format codes (R77; the codes of the program fields that name formats are the owning chapters'). -/
inductive Fmt where
  | fp64 | fp32 | eq16 | eq8a | eq8b
  deriving DecidableEq, Repr

/-- A value: not a number (signalling or quiet), an infinity, or `± m × 2^e` (with m = 0 a signed zero). -/
inductive Val where
  | nan (sig : Bool)
  | inf (neg : Bool)
  | fin (neg : Bool) (m : Nat) (e : Int)
  deriving DecidableEq, Repr

/-- The quiet NaN. -/
def Val.qnan : Val := .nan false
/-- Positive zero. -/
def Val.zero : Val := .fin false 0 0

def Val.isNan : Val → Bool
  | .nan _ => true
  | _ => false
def Val.isInf : Val → Bool
  | .inf _ => true
  | _ => false
def Val.isZero : Val → Bool
  | .fin _ 0 _ => true
  | _ => false
def Val.neg : Val → Bool
  | .nan _ => false
  | .inf n => n
  | .fin n _ _ => n
/-- The value with its sign replaced. -/
def Val.withSign (b : Bool) : Val → Val
  | .nan g => .nan g
  | .inf _ => .inf b
  | .fin _ m e => .fin b m e
/-- The negated value. -/
def Val.negate (v : Val) : Val := v.withSign (!v.neg)
/-- The magnitude. -/
def Val.abs (v : Val) : Val := v.withSign false
/-- The value times a power of two, exactly (R99). -/
def Val.scale (k : Int) : Val → Val
  | .fin n m e => .fin n m (e + k)
  | v => v

/-! ## Flags: the bits of TILE_FMTFLAG (R100, R634) -/

def fINVALID : Nat := 0x01
def fDIVZERO : Nat := 0x02
def fOVERFLOW : Nat := 0x04
def fUNDERFLOW : Nat := 0x08
def fINEXACT : Nat := 0x10
def fSATURATE : Nat := 0x20
def fRESERVED : Nat := 0x40
def fNANSEEN : Nat := 0x80

/-- A result with the flags it sets. -/
structure Res where
  v : Val
  fl : Nat
  deriving DecidableEq, Repr

/-! ## Formats -/

/-- Bits of the fraction field. -/
def Fmt.frac : Fmt → Nat
  | .fp64 => 52 | .fp32 => 23 | .eq16 => 7 | .eq8a => 3 | .eq8b => 2
/-- Bits of the exponent field. -/
def Fmt.ebits : Fmt → Nat
  | .fp64 => 11 | .fp32 => 8 | .eq16 => 8 | .eq8a => 4 | .eq8b => 5
def Fmt.bias : Fmt → Nat
  | .fp64 => 1023 | .fp32 => 127 | .eq16 => 127 | .eq8a => 7 | .eq8b => 15
/-- Bits of the whole pattern. -/
def Fmt.width (f : Fmt) : Nat := 1 + f.ebits + f.frac
/-- Infinities and NaNs of IEEE, or the saturating EQ8 formats of R79. -/
def Fmt.ieee : Fmt → Bool
  | .eq8a => false | .eq8b => false | _ => true
/-- The exponent of the smallest normal. -/
def Fmt.emin (f : Fmt) : Int := 1 - (f.bias : Int)
/-- The exponent of the largest finite value's leading bit. -/
def Fmt.emax (f : Fmt) : Int :=
  if f.ieee then (f.bias : Int) else (2 ^ f.ebits : Nat) - 1 - (f.bias : Int)
/-- The exponent of the fixed subnormal spacing. -/
def Fmt.qmin (f : Fmt) : Int := f.emin - f.frac

/-- Reading a pattern (R79 to R81, R88). -/
def decode (f : Fmt) (p : Nat) : Val :=
  let p := p % 2 ^ f.width
  let s := p.testBit (f.width - 1)
  let e := getBits p f.frac f.ebits
  let m := getBits p 0 f.frac
  if f.ieee ∧ e = 2 ^ f.ebits - 1 then
    if m = 0 then .inf s else .nan (!m.testBit (f.frac - 1))
  else if ¬ f.ieee ∧ p = 2 ^ (f.width - 1) then .qnan
  else if e = 0 then .fin s m f.qmin
  else .fin s (2 ^ f.frac + m) ((e : Int) - f.bias - f.frac)

/-- The canonical NaN pattern (R82, R92). -/
def nanPat (f : Fmt) : Nat :=
  if f.ieee then (2 ^ f.ebits - 1) <<< f.frac + 2 ^ (f.frac - 1) else 2 ^ (f.width - 1)

/-- The pattern of a value that the format represents. -/
def encode (f : Fmt) : Val → Nat
  | .nan _ => nanPat f
  | .inf s => (if s then 2 ^ (f.width - 1) else 0) + (if f.ieee then (2 ^ f.ebits - 1) <<< f.frac else 2 ^ (f.width - 1) - 1)
  | .fin s m e =>
    let sg := if s ∧ (f.ieee ∨ m ≠ 0) then 2 ^ (f.width - 1) else 0
    if m = 0 then sg else
      let l := (m.log2 : Int) + e
      if l < f.emin then sg + (if f.qmin ≤ e then m <<< (e - f.qmin).toNat else m >>> (f.qmin - e).toNat)
      else
        let sig := if f.frac ≤ m.log2 then m >>> (m.log2 - f.frac) else m <<< (f.frac - m.log2)
        sg + (l + f.bias).toNat <<< f.frac + (sig - 2 ^ f.frac)

/-! ## Rounding -/

/-- Rounding directions: ties to even, toward zero, down, up, ties away (R90, R109). -/
inductive Rm where
  | rne | rtz | rdn | rup | rna
  deriving DecidableEq, Repr

/-- The integer multiple of `2^q` that `m × 2^e`, or a little more when `st`, rounds to, and whether it is inexact. -/
def roundAt (rm : Rm) (neg : Bool) (m : Nat) (e : Int) (st : Bool) (q : Int) : Nat × Bool :=
  if q ≤ e then (m <<< (e - q).toNat, st) else
    let k := (q - e).toNat
    let n := m >>> k
    let r := m - (n <<< k)
    let h := 2 ^ (k - 1)
    let inx : Bool := decide (r ≠ 0) || st
    let up : Bool := match rm with
      | .rne => decide (h < r) || (decide (r = h) && (st || decide (n % 2 = 1)))
      | .rna => decide (h ≤ r)
      | .rtz => false
      | .rdn => neg && inx
      | .rup => !neg && inx
    (if up then n + 1 else n, inx)

/-- The largest finite value of a format. -/
def maxFin (f : Fmt) (neg : Bool) : Val := .fin neg (2 ^ (f.frac + 1) - 1) (f.emax - f.frac)

/-- Rounding of a finite exact value, with a sticky remainder, once, to a scalar format (R89, R91). -/
def roundTo (f : Fmt) (rm : Rm) (neg : Bool) (m : Nat) (e : Int) (st : Bool) : Res :=
  if m = 0 then ⟨.fin (neg && f.ieee) 0 0, if st then fINEXACT ||| fUNDERFLOW else 0⟩ else
    let l := (m.log2 : Int) + e
    let qn := l - f.frac
    let q := max qn f.qmin
    let (n, inx) := roundAt rm neg m e st q
    let tiny : Bool := decide (l < f.emin) &&
      (let (n', _) := roundAt rm neg m e st qn
       decide ((n' : Int) ≠ 2 ^ (f.frac + 1) ∨ l + 1 < f.emin))
    let ovf : Bool := decide (n ≠ 0) && decide (f.emax < (n.log2 : Int) + q)
    if ovf then
      if f.ieee then
        let toInf := match rm with
          | .rne => true | .rna => true | .rtz => false | .rdn => neg | .rup => !neg
        ⟨if toInf then .inf neg else maxFin f neg, fOVERFLOW ||| fINEXACT⟩
      else ⟨maxFin f neg, fSATURATE ||| fINEXACT⟩
    else if n = 0 then ⟨.fin (neg && f.ieee) 0 0, fINEXACT ||| fUNDERFLOW⟩
    else ⟨.fin neg n q, (if inx then fINEXACT else 0) ||| (if inx && tiny then fUNDERFLOW else 0)⟩

/-- Rounding of any value (R91, R92): a conversion from a wider source. A NaN gives the canonical NaN; a signalling NaN
is an IEEE invalid operation; an infinity saturates in EQ8. -/
def roundVal (f : Fmt) (rm : Rm) : Val → Res
  | .nan g => ⟨.qnan, if g then fINVALID else 0⟩
  | .inf s => if f.ieee then ⟨.inf s, 0⟩ else ⟨maxFin f s, fSATURATE⟩
  | .fin s m e => roundTo f rm s m e false

/-- Stochastic rounding with the 16-bit draw `r` (R93, R94). -/
def roundSr (f : Fmt) (r : Nat) : Val → Res
  | .nan g => roundVal f .rne (.nan g)
  | .inf s => roundVal f .rne (.inf s)
  | .fin s m e =>
    if m = 0 then roundTo f .rne s m e false else
      let q := max ((m.log2 : Int) + e - f.frac) f.qmin
      let (n, inx) := roundAt .rtz s m e false q
      if ¬ inx then roundTo f .rne s m e false
      else if f.emax < (m.log2 : Int) + e ∨ (n = 2 ^ (f.frac + 1) - 1 ∧ q = f.emax - f.frac) then roundTo f .rne s m e false
      else
        let k := (q - e).toNat
        let frac := ((m - (n <<< k)) * 65536) >>> k
        let n' := if 65536 ≤ frac + r then n + 1 else n
        let small : Bool := decide (n' = 0) || decide ((n'.log2 : Int) + q < f.emin)
        ⟨.fin (s && (f.ieee || decide (n' ≠ 0))) n' q, fINEXACT ||| (if small then fUNDERFLOW else 0)⟩

/-! ## Exact arithmetic -/

/-- The signed integer `± m` of a finite value at exponent `e0 ≤ e`. -/
def mant (neg : Bool) (m : Nat) (e e0 : Int) : Int :=
  let a : Int := ((m <<< (e - e0).toNat : Nat) : Int)
  if neg then -a else a

/-- The exact sum of two finite values, as a signed integer and its exponent. -/
def exactAdd (n1 : Bool) (m1 : Nat) (e1 : Int) (n2 : Bool) (m2 : Nat) (e2 : Int) : Int × Int :=
  let e0 := min e1 e2
  (mant n1 m1 e1 e0 + mant n2 m2 e2 e0, e0)

/-- The flags of NaN operands: a signalling one is an invalid operation. -/
def nanRes (vs : List Val) : Res := ⟨.qnan, if vs.any (fun v => v == .nan true) then fINVALID else 0⟩

/-- The result of an invalid operation. -/
def invalidRes : Res := ⟨.qnan, fINVALID⟩

/-- Addition of exact values, rounded once (R88). -/
def add (f : Fmt) (rm : Rm) (a b : Val) : Res :=
  match a, b with
  | .nan _, _ => nanRes [a, b]
  | _, .nan _ => nanRes [a, b]
  | .inf s, .inf t => if s = t then ⟨a, 0⟩ else invalidRes
  | .inf _, _ => ⟨a, 0⟩
  | _, .inf _ => ⟨b, 0⟩
  | .fin n1 m1 e1, .fin n2 m2 e2 =>
    let (i, e) := exactAdd n1 m1 e1 n2 m2 e2
    if i = 0 then ⟨.fin (if m1 = 0 ∧ m2 = 0 ∧ n1 = n2 then n1 else decide (rm = .rdn)) 0 0, 0⟩
    else roundTo f rm (decide (i < 0)) i.natAbs e false

def sub (f : Fmt) (rm : Rm) (a b : Val) : Res := if b.isNan then nanRes [a, b] else add f rm a b.negate

/-- The exact product; none for an invalid product of zero and infinity. -/
def exactMul (a b : Val) : Option Val :=
  match a, b with
  | .nan g, _ => some (.nan g)
  | _, .nan g => some (.nan g)
  | .inf s, .fin t m _ => if m = 0 then none else some (.inf (s != t))
  | .fin t m _, .inf s => if m = 0 then none else some (.inf (s != t))
  | .inf s, .inf t => some (.inf (s != t))
  | .fin s m e, .fin t n k => some (.fin (s != t) (m * n) (e + k))

def mul (f : Fmt) (rm : Rm) (a b : Val) : Res :=
  if a.isNan || b.isNan then nanRes [a, b] else
  match exactMul a b with
  | none => invalidRes
  | some (.fin s 0 _) => ⟨.fin s 0 0, 0⟩
  | some v => roundVal f rm v

/-- `a × b + c`, rounded once. A zero times an infinity is invalid even beside a NaN addend. -/
def fma (f : Fmt) (rm : Rm) (a b c : Val) : Res :=
  if a.isNan || b.isNan then nanRes [a, b, c] else
  match exactMul a b with
  | none => invalidRes
  | some p => if c.isNan then nanRes [c] else add f rm p c

/-- Division, rounded once. -/
def div (f : Fmt) (rm : Rm) (a b : Val) : Res :=
  match a, b with
  | .nan _, _ => nanRes [a, b]
  | _, .nan _ => nanRes [a, b]
  | .inf _, .inf _ => invalidRes
  | .inf s, .fin t _ _ => ⟨.inf (s != t), 0⟩
  | .fin s _ _, .inf t => ⟨.fin (s != t) 0 0, 0⟩
  | .fin s m e, .fin t n k =>
    if n = 0 then (if m = 0 then invalidRes else ⟨.inf (s != t), fDIVZERO⟩)
    else if m = 0 then ⟨.fin (s != t) 0 0, 0⟩
    else
      let sh := 70 + n.log2 + 64 - min m.log2 (n.log2 + 64)
      let q := (m <<< sh) / n
      roundTo f rm (s != t) q (e - k - sh) (decide ((m <<< sh) % n ≠ 0))

/-- The integer square root below `2^k`, built bit by bit from `r`. -/
def isqrtFrom (n : Nat) : Nat → Nat → Nat
  | 0, r => r
  | k + 1, r => isqrtFrom n k (if (r + 2 ^ k) * (r + 2 ^ k) ≤ n then r + 2 ^ k else r)

/-- The integer square root. -/
def isqrt (n : Nat) : Nat := isqrtFrom n (n.log2 / 2 + 1) 0

/-- Square root, rounded once. -/
def sqrt (f : Fmt) (rm : Rm) (a : Val) : Res :=
  match a with
  | .nan _ => nanRes [a]
  | .inf true => invalidRes
  | .inf false => ⟨a, 0⟩
  | .fin s m e =>
    if m = 0 then ⟨.fin s 0 0, 0⟩
    else if s then invalidRes
    else
      let sh : Nat := if (e - 140) % 2 = 0 then 140 else 141
      let n := m <<< sh
      let r := isqrt n
      roundTo f rm false r ((e - sh) / 2) (decide (r * r ≠ n))

/-- Order of two numbers: -1, 0, 1; none when either is a NaN. -/
def cmp (a b : Val) : Option Int :=
  match a, b with
  | .nan _, _ => none
  | _, .nan _ => none
  | .inf s, .inf t => some (if s = t then 0 else if s then -1 else 1)
  | .inf s, _ => some (if s then -1 else 1)
  | _, .inf t => some (if t then 1 else -1)
  | .fin n1 m1 e1, .fin n2 m2 e2 =>
    let (i, _) := exactAdd n1 m1 e1 (!n2) m2 e2
    some i.sign

/-- `|a| < |b|` for finite values. -/
def absLt (a b : Val) : Bool := cmp a.abs b.abs == some (-1)

/-- The greatest integer not above the base-2 logarithm of a finite non-zero magnitude. -/
def ilog2 : Val → Int
  | .fin _ m e => (m.log2 : Int) + e
  | _ => 0

/-- A finite number rounded to an integer. -/
def toInt (rm : Rm) : Val → Int
  | .fin s m e =>
    let (n, _) := roundAt rm s m e false 0
    if s then -(n : Int) else n
  | _ => 0

/-- An integer as a value. -/
def ofInt (i : Int) : Val := .fin (decide (i < 0)) i.natAbs 0

/-- Read, round and write a pattern: a conversion of R97, with its flags. -/
def convert (src dst : Fmt) (rm : Rm) (p : Nat) : Nat × Nat :=
  let r := roundVal dst rm (decode src p)
  (encode dst r.v, r.fl ||| (if (decode src p).isNan then fNANSEEN else 0))

/-- The exact sum of operands, rounded once (R280, R376). -/
def sumOnce (f : Fmt) (l : List Val) : Res :=
  if l.any Val.isNan then nanRes l
  else if l.any (fun v => v == .inf false) ∧ l.any (fun v => v == .inf true) then invalidRes
  else match l.find? Val.isInf with
    | some v => ⟨v, 0⟩
    | none =>
      let t := l.foldl (fun (a : Int × Int) v => match v with
        | .fin n m e => exactAdd (decide (a.1 < 0)) a.1.natAbs a.2 n m e
        | _ => a) ((0, 0) : Int × Int)
      if t.1 = 0 then ⟨.fin (l.all (fun v => v.isZero && v.neg)) 0 0, 0⟩
      else roundTo f .rne (decide (t.1 < 0)) t.1.natAbs t.2 false

end Sys2Proof.Fp
end

