-- ==== Sys2Proof/Machine/Evquel.lean ====
section
/-! DEFINITION. The block formats EB4 and EB8: reading (R83 to R87) and encoding (R95, R96, R109). -/

namespace Sys2Proof.Fp

/-- The two block formats. -/
inductive BFmt where
  | eb4 | eb8
  deriving DecidableEq, Repr

def BFmt.n : BFmt → Nat
  | .eb4 => 32 | .eb8 => 16
def BFmt.bytes : BFmt → Nat
  | .eb4 => 18 | .eb8 => 17
def BFmt.qmax : BFmt → Nat
  | .eb4 => 7 | .eb8 => 127
def BFmt.p : BFmt → Nat
  | .eb4 => 2 | .eb8 => 6

/-- The raw pattern of element `i` of a block. -/
def BFmt.raw (f : BFmt) (b : List Byte) (i : Nat) : Nat :=
  match f with
  | .eb4 => getBits ((b.getD (i / 2) 0).toNat) (4 * (i % 2)) 4
  | .eb8 => (b.getD i 0).toNat

/-- The integer `q` of a raw element pattern; a reserved pattern is 0 (R86). -/
def BFmt.q (f : BFmt) (p : Nat) : Int :=
  match f with
  | .eb4 => if p.testBit 3 then -((p % 8 : Nat) : Int) else (p % 8 : Nat)
  | .eb8 => if p = 0x80 then 0 else sext 8 p

/-- Whether a raw pattern is the reserved one (R86). -/
def BFmt.isRsvd (f : BFmt) (p : Nat) : Bool :=
  match f with
  | .eb4 => p == 8
  | .eb8 => p == 0x80

/-- A decoded block: its zero-block bit, integers, exponents of two and the count of reserved patterns. -/
structure BlockVal where
  zb : Bool
  qs : List Int
  es : List Int
  rsvd : Bool
  deriving DecidableEq, Repr

/-- Reading of a block (R85 to R87). -/
def decodeBlockRaw (f : BFmt) (b : List Byte) : BlockVal :=
  let sc := (b.getD 16 0).toNat
  let shb := if f = .eb4 then (b.getD 17 0).toNat else 0
  if sc.testBit 6 then ⟨true, List.replicate f.n 0, List.replicate f.n 0, false⟩ else
    let raws := (List.range f.n).map (f.raw b)
    ⟨false, raws.map f.q,
      (List.range f.n).map (fun i => (getBits sc 0 6 : Int) - 31 - (if f = .eb4 then (getBits shb (2 * (i / 8)) 2 : Int) else 0)),
      raws.any f.isRsvd⟩

/-- The values of a block's elements and the flags of reading it. -/
def decodeBlock (f : BFmt) (b : List Byte) : List Val × Nat :=
  let r := decodeBlockRaw f b
  (List.zipWith (fun q e => if q = 0 then Val.zero else .fin (decide (q < 0)) q.natAbs e) r.qs r.es,
    if r.rsvd then fRESERVED else 0)

/-- The element rounding of the arithmetic class (R109). -/
def blockRm (f : BFmt) (aclass : Nat) : Rm := if f = .eb4 ∧ aclass = 2 then .rna else .rne

/-- `rnd(|x| / 2^s)` of a finite magnitude. -/
def quot (rm : Rm) (s : Int) : Val → Nat × Bool
  | .fin _ m e => roundAt rm false m e false s
  | _ => (0, false)

/-- `scale_exp` (R95). -/
def scaleExp (rm : Rm) (a : Val) (qmax p : Nat) : Int :=
  let s := ilog2 a - p
  if qmax < (quot rm s a).1 then s + 1 else s

/-- The greatest finite magnitude of a list; zero where there is none. -/
def amaxOf (xs : List Val) : Val :=
  xs.foldl (fun a x => match x with
    | .fin _ m e => if absLt a (.fin false m e) then .fin false m e else a
    | _ => a) Val.zero

/-- What encoding a block gives: its bytes, the flags, the count for TILE_UFCNT, whether a NaN was read, and how many
elements saturated. -/
structure EncRes where
  bytes : List Byte
  fl : Nat
  uf : Nat
  nan : Bool
  satn : Nat
  deriving DecidableEq, Repr

/-- The canonical zero block (R96). -/
def zeroBlock (f : BFmt) : List Byte :=
  List.replicate 16 0#8 ++ [0x40#8] ++ (if f = .eb4 then [0#8] else [])

/-- `encode_block` (R95) in an arithmetic class. -/
def encodeBlock (f : BFmt) (aclass : Nat) (xs0 : List Val) : EncRes :=
  let nan := xs0.any Val.isNan
  let xs := xs0.map (fun x => if x.isNan then Val.zero else x)
  let fl0 := if nan then fINVALID ||| fNANSEEN else 0
  let rm := blockRm f aclass
  let am := amaxOf xs
  if am.isZero && !xs.any Val.isInf then ⟨zeroBlock f, fl0, 0, nan, 0⟩ else
    let s : Int := if am.isZero then 32 else max (-31) (min 32 (scaleExp rm am f.qmax f.p))
    let shs : List Nat := match f with
      | .eb8 => [0]
      | .eb4 => (List.range 4).map (fun g =>
          let gm := amaxOf ((xs.drop (8 * g)).take 8)
          if gm.isZero then 0 else (max 0 (min 3 (s - scaleExp rm gm f.qmax f.p))).toNat)
    let one : Val → Nat → Int × Nat × Nat := fun x i =>
      match x with
      | .inf n => ((if n then -(f.qmax : Int) else f.qmax), fSATURATE, 0)
      | .fin n m e =>
        let (q, inx) := quot rm (s - (shs.getD (i / 8) 0 : Nat)) (.fin n m e)
        if f.qmax < q then ((if n then -(f.qmax : Int) else f.qmax), fSATURATE ||| fINEXACT, 0)
        else
          let u := if m ≠ 0 ∧ q = 0 then 1 else 0
          ((if n then -(q : Int) else q), (if inx then fINEXACT else 0) ||| (if u = 1 then fUNDERFLOW else 0), u)
      | .nan _ => ((0 : Int), 0, 0)
    let rs := xs.zipIdx.map (fun p => one p.1 p.2)
    let fl := rs.foldl (fun a r => a ||| r.2.1) fl0
    let uf := rs.foldl (fun a r => a + r.2.2) 0
    let satn := (rs.filter (fun r => r.2.1.testBit 5)).length
    let sat := satn ≠ 0
    if rs.all (fun r => r.1 == 0) then ⟨zeroBlock f, fl, uf, nan, satn⟩ else
      let sc := BitVec.ofNat 8 ((s + 31).toNat + (if sat then 0x80 else 0))
      let qs := rs.map (·.1)
      match f with
      | .eb8 => ⟨qs.map (fun q => BitVec.ofNat 8 (wrapInt 8 q)) ++ [sc], fl, uf, nan, satn⟩
      | .eb4 =>
        let nib := qs.map (fun q => q.natAbs + (if q < 0 then 8 else 0))
        ⟨(List.range 16).map (fun j => BitVec.ofNat 8 (nib.getD (2 * j) 0 + 16 * nib.getD (2 * j + 1) 0)) ++ [sc,
          BitVec.ofNat 8 (shs.getD 0 0 + 4 * shs.getD 1 0 + 16 * shs.getD 2 0 + 64 * shs.getD 3 0)], fl, uf, nan, satn⟩

end Sys2Proof.Fp
end

