-- ==== Sys2Proof/Machine/Mx.lean ====
section
/-! DEFINITION. The arithmetic of a matrix core: operand formats, layouts and extents (R115 to R124), the fast group
addition (R127), the exact wide sum and its close (R129 to R133), chunks and merges of split K (R135). -/

namespace Sys2Proof.Mx
open Sys2Proof.Fp

/-- The formats of matrix instructions (R115). -/
inductive MFmt where
  | s (f : Fmt)
  | b (f : BFmt)
  deriving DecidableEq, Repr

/-- The format code of R115; code 7 is reserved. -/
def fmtOf : Nat → Option MFmt
  | 0 => some (.s .fp64) | 1 => some (.s .fp32) | 2 => some (.s .eq16) | 3 => some (.s .eq8a)
  | 4 => some (.s .eq8b) | 5 => some (.b .eb8) | 6 => some (.b .eb4) | _ => none

/-- An 8-bit scalar format. -/
def MFmt.is8 : MFmt → Bool
  | .s .eq8a => true | .s .eq8b => true | _ => false

/-- Whether a pair of formats is one of R116. -/
def pairOk (a b : MFmt) : Bool := a == b || (a.is8 && b.is8)

/-- The k-group of a pair (R116). -/
def kGroup : MFmt → Nat
  | .s .fp64 => 1 | .s .fp32 => 1 | .s .eq16 => 4 | .s _ => 32 | .b .eb8 => 16 | .b .eb4 => 32

/-- The accumulator of a chain (R116). -/
inductive Acc where
  | fp32 | fp64 | wide
  deriving DecidableEq, Repr

def accOf (exact : Bool) : MFmt → Acc
  | .s .fp64 => .fp64
  | .s .fp32 => .fp32
  | .s .eq16 => .fp32
  | _ => if exact then .wide else .fp32

/-- The format that an accumulator rounds in. -/
def Acc.fmt : Acc → Fmt
  | .fp64 => .fp64
  | _ => .fp32

/-- Bytes of a scalar element. -/
def eltBytes (f : Fmt) : Nat := f.width / 8

/-- An operand in memory: format, tile-major or not, transposed or not, base and pitch in bytes. -/
structure Opnd where
  fmt : MFmt
  tileMajor : Bool
  trans : Bool
  base : Nat
  pitch : Nat
  deriving DecidableEq, Repr

/-- The byte offset of element (r, c) of the stored scalar matrix (R120). -/
def Opnd.off (o : Opnd) (f : Fmt) (r c : Nat) : Nat :=
  let sz := eltBytes f
  if o.tileMajor then r / 32 * o.pitch + c / 32 * (1024 * sz) + (r % 32 * 32 + c % 32) * sz
  else r * o.pitch + c * sz

/-- One element pattern, read through a byte reader. -/
def readElt (rd : Nat → Byte) (f : Fmt) (a : Nat) : Val :=
  decode f (leNat ((List.range (eltBytes f)).map (fun i => rd (a + i))))

/-- The `k` values of line `i` of an operand: row `i` of A, or column `i` of B (`isB`), with the flags of reading them
(R120 to R123). -/
def Opnd.line (o : Opnd) (rd : Nat → Byte) (isB : Bool) (i k : Nat) : List Val × Nat :=
  match o.fmt with
  | .s f =>
    ((List.range k).map (fun j =>
      let swap := o.trans != isB
      readElt rd f (o.base + (if swap then o.off f j i else o.off f i j))), 0)
  | .b f =>
    let run := o.base + i * o.pitch
    (List.range (k / f.n)).foldl (fun acc b =>
      let r := decodeBlock f ((List.range f.bytes).map (fun t => rd (run + b * f.bytes + t)))
      (acc.1 ++ r.1, acc.2 ||| r.2)) ([], 0)

/-- The address ranges (first byte, bytes) that `n` lines of `k` values occupy. -/
def Opnd.extents (o : Opnd) (isB : Bool) (n k : Nat) : List (Nat × Nat) :=
  match o.fmt with
  | .s f =>
    let swap := o.trans != isB
    let rows := if swap then k else n
    let cols := if swap then n else k
    if o.tileMajor then
      (List.range ((rows + 31) / 32)).map (fun r => (o.base + r * o.pitch, (cols + 31) / 32 * (1024 * eltBytes f)))
    else (List.range rows).map (fun r => (o.base + r * o.pitch, cols * eltBytes f))
  | .b f => (List.range n).map (fun r => (o.base + r * o.pitch, (k / f.n * f.bytes + 31) / 32 * 32))

/-- A value written by a chain, the flags, and why it is a NaN (CAUSE of R106) where it is one. -/
structure MRes where
  v : Val
  fl : Nat
  cause : Option Nat
  deriving DecidableEq, Repr

/-- Why a NaN result arose: an operand NaN (of EQ8: cause 2), or an invalid operation. -/
def causeOf (is8 : Bool) (xs : List Val) : Nat :=
  if xs.any Val.isNan then (if is8 then 2 else if xs.any (· == .nan true) then 0 else 1) else 0

/-- The exact sum of products of finite or infinite values: none where a product or the sum is invalid. -/
def exactDot : List (Val × Val) → Option Val
  | [] => some Val.zero
  | (a, b) :: t =>
    match exactMul a b, exactDot t with
    | some (.inf s), some (.inf u) => if s = u then some (.inf s) else none
    | some (.inf s), some (.fin _ _ _) => some (.inf s)
    | some (.fin _ _ _), some (.inf u) => some (.inf u)
    | some (.fin s m e), some (.fin u n k) =>
      let (i, x) := exactAdd s m e u n k
      some (.fin (decide (i < 0)) i.natAbs x)
    | _, _ => none

/-- `fast_group` (R127). -/
def fastGroup (acc : Acc) (g : Nat) (is8 : Bool) (prev : MRes) (ab : List (Val × Val)) : MRes :=
  let f := acc.fmt
  let ops := ab.flatMap (fun p => [p.1, p.2])
  let keep := fun (c : Nat) => if prev.cause.isSome then prev.cause else some c
  if prev.v.isNan || ops.any Val.isNan then
    ⟨.qnan, prev.fl ||| fNANSEEN ||| (if ops.any (· == .nan true) || (prev.v == .nan true && (g = 1 || !ops.any Val.isNan)) then fINVALID else 0),
      keep (if ops.any Val.isNan then causeOf is8 ops else 1)⟩
  else if g = 1 then
    match ab with
    | (a, b) :: _ =>
      let r := fma f .rne a b prev.v
      ⟨r.v, prev.fl ||| r.fl ||| (if r.v.isNan then fNANSEEN else 0), if r.v.isNan then keep 0 else none⟩
    | [] => prev
  else
    match exactDot ab with
    | none => ⟨.qnan, prev.fl ||| fINVALID ||| fNANSEEN, keep 0⟩
    | some s =>
      let r := add f .rne prev.v (if s.isZero then Val.zero else s)
      ⟨r.v, prev.fl ||| r.fl ||| (if r.v.isNan then fNANSEEN else 0), if r.v.isNan then keep 0 else none⟩

/-- A chain's k-groups in ascending k, from an initial value. -/
def fastDot (acc : Acc) (g : Nat) (is8 : Bool) (init : MRes) (as bs : List Val) : MRes :=
  (chunks g (as.length / g + 1) (as.zip bs)).foldl (fastGroup acc g is8) init

/-- The merge of split-K partials in an order: each addition rounded once (R135). -/
def mergeParts (acc : Acc) (init : MRes) (ps : List MRes) : MRes :=
  ps.foldl (fun a p =>
    let r := add acc.fmt .rne a.v p.v
    ⟨r.v, a.fl ||| p.fl ||| r.fl ||| (if r.v.isNan then fNANSEEN else 0),
      if r.v.isNan then (if a.cause.isSome then a.cause else if p.cause.isSome then p.cause else some 0) else none⟩) init

/-- A wide accumulator element: the integer N of R129, the NaN bit, and the residue that R141 forms from the operands alone. -/
structure WAcc where
  n : Int := 0
  nan : Bool := false
  res : Nat := 0
  deriving DecidableEq, Repr

/-- N reduced modulo 15, which the residue must match (R141). -/
def WAcc.residue (w : WAcc) : Nat := (w.n % 15).toNat

/-- A finite value as a multiple of 2^l. -/
def fixedAt (l : Int) : Val → Int
  | .fin s m e =>
    let a : Int := if l ≤ e then ((m <<< (e - l).toNat : Nat) : Int) else ((m >>> (l - e).toNat : Nat) : Int)
    if s then -a else a
  | _ => 0

/-- A finite value as a multiple of 2^-72. -/
def fixed72 (v : Val) : Int := fixedAt (-72) v

/-- The residue modulo 15 of m × 2^e, from its parts: 2 has order 4 modulo 15. -/
def expRes (neg : Bool) (m : Nat) (e : Int) : Nat :=
  let r := m % 15 * 2 ^ (e % 4).toNat % 15
  if neg then (15 - r) % 15 else r

/-- The residue of a product in units of 2^-72, from the operands alone (R141). -/
def termRes : Val → Val → Nat
  | .fin s m e, .fin t n f => expRes (s != t) (m % 15 * (n % 15)) (e + f + 72)
  | _, _ => 0

/-- The exact addition of a line's products (R132), with the residue of each (R141). -/
def wideDot (w : WAcc) (as bs : List Val) : WAcc :=
  (as.zip bs).foldl (fun w p =>
    if p.1.isNan || p.2.isNan then { w with nan := true }
    else match exactMul p.1 p.2 with
      | some v => { w with n := w.n + fixed72 v, res := (w.res + termRes p.1 p.2) % 15 }
      | none => w) w

/-- The sum of partial wide accumulators. -/
def wideAdd (a b : WAcc) : WAcc := ⟨a.n + b.n, a.nan || b.nan, (a.res + b.res) % 15⟩

/-! ## What the checkers compute (R128, R139 to R141) -/

/-- The integer that the checksum column takes for an element: 48-bit fixed point with LSB 2^-16 for EQ8, the element's integer for block
formats (R139). -/
def checkVal (f : MFmt) (v : Val) : Int :=
  match f, v with
  | .b _, .fin s m _ => if s then -(m : Int) else m
  | .b _, _ => 0
  | .s _, v => fixedAt (-16) v

/-- `c_k`: the sum across the columns of B (R139). -/
def checkCol (cv : Val → Int) (bs : List (List Val)) (k : Nat) : Int := bs.foldl (fun n b => n + cv (b.getD k .zero)) 0

/-- The checksum of one row: the sum over k of A[i][k] × c_k. -/
def checksum (cv : Val → Int) (as : List Val) (bs : List (List Val)) : Int :=
  as.zipIdx.foldl (fun n a => n + cv a.1 * checkCol cv bs a.2) 0

/-- What one active slice gives for the row. -/
def sliceSum (cv : Val → Int) (as b : List Val) : Int := (as.zip b).foldl (fun n p => n + cv p.1 * cv p.2) 0

/-- The significands of an FP32 accumulator and of a group sum aligned and added, and the residue of the sum from the residues of the
two (R128). -/
def alignedSum : Val → Val → Int × Nat
  | .fin s m e, .fin t n f =>
    let x := min e f
    (fixedAt x (.fin s m e) + fixedAt x (.fin t n f), (expRes s m (e - x) + expRes t n (f - x)) % 15)
  | _, _ => (0, 0)

/-- The chain of an element after `n` of its k-groups, from an initial value: what its processing element, or the shadow column, holds
then (R127, R140). -/
def chainAt (acc : Acc) (g : Nat) (is8 : Bool) (init : MRes) (as bs : List Val) (n : Nat) : MRes :=
  fastDot acc g is8 init (as.take (n * g)) (bs.take (n * g))

/-- `close` (R133). -/
def wideClose (f : Fmt) (w : WAcc) : MRes :=
  if w.nan then ⟨.qnan, fNANSEEN, some 2⟩
  else if w.n = 0 then ⟨Val.zero, 0, none⟩
  else
    let r := roundTo f .rne (decide (w.n < 0)) w.n.natAbs (-72) false
    ⟨r.v, r.fl, none⟩

/-- Kc of a split-K MMA (R135): the plan's in exact mode. -/
def splitKc (exact : Bool) (plan k n : Nat) : Nat :=
  if exact then (if plan = 2 then 2048 else 512) else 32 * ((k + 32 * n - 1) / (32 * n))

/-- Exact-mode plans that R136 accepts. -/
def planOk (plan : Nat) : Bool := plan == 1 || plan == 2

/-- The chunks (first k, count) of a split K. -/
def splitChunks (k kc : Nat) : List (Nat × Nat) :=
  if kc = 0 then [] else (List.range ((k + kc - 1) / kc)).map (fun c => (c * kc, min kc (k - c * kc)))

/-- The order in which partials merge: ascending in exact mode; the completion order given, completed by any index it
leaves out, in fast mode. -/
def mergeOrder (exact : Bool) (n : Nat) (order : List Nat) : List Nat :=
  if exact then List.range n
  else
    let o := order.filter (· < n) |>.eraseDups
    o ++ (List.range n).filter (fun c => !o.contains c)

end Sys2Proof.Mx
end

