-- ==== Sys2Proof/Config.lean ====
section
/-! DEFINITION. The free values: what the manual leaves open and no claim may know. Each constant has no body;
a meaning applies it to its operands or to the counter `State.freeCtr`, which it advances. -/

namespace Sys2Proof.Config

/-- A 64-bit value that the manual leaves undefined (a register SPLITK leaves undefined, the X of a missed solve). -/
opaque freeWord : Nat → BitVec 64
/-- A number that the manual leaves open: the row that a solve's trap record names (R281), ITER and the progress of a descriptor that misses
its deadline (R282), and the node pages that the PRPs of a locker command name (R485). -/
opaque freeChoice : Nat → Nat
/-- Fresh 384-bit random words of the security engine (challenge nonces, R580). -/
opaque freeNonce : Nat → BitVec 384
/-- The alias-key signature over a digest in a lifecycle and firmware context (R569, R576): keys are never read. -/
opaque aliasSign : (firmware lifecycle digest : Nat) → BitVec 768
/-- The verdict of an ML-DSA-87 check over a key, a message and a signature (R567). -/
opaque mldsaOk : (key msg sig : Nat) → Bool
/-- The DER bytes of the certificate chain that the node presents (R570), by lifecycle context. -/
opaque certChain : Nat → List (BitVec 8)
/-- The bytes of the register-state record that node firmware alone reads (R487). -/
opaque regRecord : Nat → List (BitVec 8)

/-- The ROP code under which a node atomic of a Spar core enters its digest term, of which the manual gives none (R454). -/
opaque nodeRop : Nat → Nat
/-- The bytes of a packet whose layout the manual does not give: beats, port notices, digest records and fleet messages. -/
opaque packetBytes : Packet → List (BitVec 8)
/-- The byte at a node address inside the workspace of a resident structure, whose layout the manual leaves open (R259). -/
opaque wsByte : (ctr addr : Nat) → BitVec 8

end Sys2Proof.Config
end

