-- ==== Sys2Proof/Machine/RegMap.lean ====
section
/-! DEFINITION. The set-up register map of R613 to R636: every field with its offset, access code, reset class, reset
value, range and write path, as rows of one table, and what the table says of a word. -/

namespace Sys2Proof.Reg

/-- The access codes of R12. -/
inductive Acc where
  | ro | rw | wo | w1c | w1s | rwl
  deriving DecidableEq, Repr

/-- The Reset column: the reset class that returns a field (R12, R13), VBAK (R540), or "—" (R616). -/
inductive Cls where
  | cold | perst | warm | job | vbak | dash
  deriving DecidableEq, Repr

/-- Who writes a field (R617): anyone, a SETUP only, a host-side MMIO write only. -/
inductive Via where
  | any | setup | host
  deriving DecidableEq, Repr

/-- One row of the map: `n` instances of a field, `stride` bytes apart; `cnt` marks a counter shown RW (R615); `span` is
set where the register is wider than this part of it. -/
structure Field where
  off : Nat
  lo : Nat
  w : Nat
  acc : Acc
  cls : Cls
  rst : Nat := 0
  n : Nat := 1
  stride : Nat := 8
  via : Via := .any
  rng : Option (Nat × Nat) := none
  cnt : Bool := false
  deriving DecidableEq, Repr

/-- A field's place: the offset of its 64-bit word, its low bit, its width. -/
structure Fld where
  off : Nat
  lo : Nat
  w : Nat
  deriving DecidableEq, Repr

def glb : List Field := [
  { off := 0x00, lo := 0, w := 64, acc := .ro, cls := .dash },
  { off := 0x08, lo := 0, w := 64, acc := .ro, cls := .dash },
  { off := 0x10, lo := 0, w := 1, acc := .ro, cls := .warm },
  { off := 0x10, lo := 1, w := 1, acc := .ro, cls := .perst },
  { off := 0x10, lo := 2, w := 1, acc := .ro, cls := .perst },
  { off := 0x10, lo := 4, w := 2, acc := .ro, cls := .warm },
  { off := 0x10, lo := 8, w := 8, acc := .ro, cls := .dash },
  { off := 0x10, lo := 16, w := 1, acc := .ro, cls := .warm },
  { off := 0x18, lo := 0, w := 1, acc := .ro, cls := .cold },
  { off := 0x18, lo := 1, w := 1, acc := .ro, cls := .warm },
  { off := 0x18, lo := 16, w := 10, acc := .ro, cls := .cold },
  { off := 0x18, lo := 26, w := 11, acc := .ro, cls := .cold },
  { off := 0x20, lo := 0, w := 32, acc := .ro, cls := .warm, n := 4, stride := 4 },
  { off := 0x30, lo := 0, w := 11, acc := .rw, cls := .perst },
  { off := 0x40, lo := 0, w := 64, acc := .ro, cls := .cold, n := 2 }]

def hif : List Field := [
  { off := 0x10000, lo := 0, w := 1, acc := .rw, cls := .perst, n := 64 },
  { off := 0x10000, lo := 1, w := 1, acc := .rw, cls := .perst, n := 64 },
  { off := 0x10000, lo := 4, w := 4, acc := .rw, cls := .perst, n := 64, rng := some (0, 8) },
  { off := 0x10000, lo := 12, w := 52, acc := .rw, cls := .perst, n := 64 },
  { off := 0x10200, lo := 0, w := 1, acc := .rw, cls := .perst, n := 16 },
  { off := 0x10200, lo := 4, w := 4, acc := .rw, cls := .perst, n := 16, rng := some (0, 8) },
  { off := 0x10200, lo := 12, w := 52, acc := .rw, cls := .perst, n := 16 },
  { off := 0x10400, lo := 0, w := 32, acc := .ro, cls := .perst, n := 64 },
  { off := 0x10400, lo := 32, w := 32, acc := .ro, cls := .perst, n := 64 },
  { off := 0x10600, lo := 12, w := 52, acc := .rw, cls := .perst },
  { off := 0x10608, lo := 0, w := 32, acc := .ro, cls := .perst },
  { off := 0x10610, lo := 0, w := 13, acc := .rw, cls := .perst, rst := 100, rng := some (1, 4096) },
  { off := 0x10618, lo := 0, w := 11, acc := .rw, cls := .perst, rst := 64, rng := some (8, 1024) },
  { off := 0x10620, lo := 0, w := 32, acc := .rw, cls := .perst, cnt := true },
  { off := 0x10628, lo := 0, w := 1, acc := .w1c, cls := .perst },
  { off := 0x10628, lo := 1, w := 1, acc := .w1c, cls := .perst },
  { off := 0x10628, lo := 8, w := 6, acc := .ro, cls := .perst },
  { off := 0x10628, lo := 16, w := 2, acc := .ro, cls := .perst },
  { off := 0x10630, lo := 0, w := 64, acc := .w1c, cls := .perst },
  { off := 0x10800, lo := 0, w := 16, acc := .rw, cls := .perst, n := 64, rst := 0x0000 },
  { off := 0x10800, lo := 16, w := 16, acc := .rw, cls := .perst, n := 64, rst := 0x0001 },
  { off := 0x10800, lo := 32, w := 16, acc := .rw, cls := .perst, n := 64, rst := 0x0003 },
  { off := 0x10800, lo := 48, w := 16, acc := .rw, cls := .perst, n := 64, rst := 0x0005 },
  { off := 0x10A08, lo := 0, w := 12, acc := .rw, cls := .perst, n := 63 },
  { off := 0x10C00, lo := 0, w := 3, acc := .rw, cls := .perst, n := 16, stride := 16, via := .host },
  { off := 0x10C00, lo := 12, w := 52, acc := .rw, cls := .perst, n := 16, stride := 16, via := .host },
  { off := 0x10C08, lo := 12, w := 52, acc := .rw, cls := .perst, n := 16, stride := 16, via := .host }]

def fab : List Field := [
  { off := 0x20000, lo := 0, w := 12, acc := .rw, cls := .perst },
  { off := 0x20008, lo := 0, w := 16, acc := .rw, cls := .perst, via := .host },
  { off := 0x20010, lo := 0, w := 12, acc := .rw, cls := .perst, via := .host },
  { off := 0x20018, lo := 0, w := 2, acc := .rwl, cls := .perst, rng := some (0, 2) },
  { off := 0x20018, lo := 2, w := 2, acc := .rwl, cls := .perst, rng := some (0, 2) },
  { off := 0x20018, lo := 4, w := 2, acc := .rwl, cls := .perst, rng := some (0, 2) },
  { off := 0x20018, lo := 6, w := 2, acc := .rwl, cls := .perst, rng := some (0, 2) },
  { off := 0x20018, lo := 8, w := 2, acc := .rwl, cls := .perst, rng := some (0, 2) },
  { off := 0x20018, lo := 10, w := 2, acc := .rwl, cls := .perst, rng := some (0, 2) },
  { off := 0x20018, lo := 12, w := 2, acc := .rwl, cls := .perst, rng := some (0, 2) },
  { off := 0x20018, lo := 14, w := 2, acc := .rwl, cls := .perst, rng := some (0, 2) },
  { off := 0x20018, lo := 16, w := 2, acc := .rwl, cls := .perst, rng := some (0, 2) },
  { off := 0x20018, lo := 18, w := 2, acc := .rwl, cls := .perst, rng := some (0, 2) },
  { off := 0x20018, lo := 20, w := 2, acc := .rwl, cls := .perst, rng := some (0, 2) },
  { off := 0x20018, lo := 22, w := 2, acc := .rwl, cls := .perst, rng := some (0, 2) },
  { off := 0x20018, lo := 24, w := 2, acc := .rwl, cls := .perst, rng := some (0, 2) },
  { off := 0x20018, lo := 26, w := 2, acc := .rwl, cls := .perst, rng := some (0, 2) },
  { off := 0x20018, lo := 28, w := 2, acc := .rwl, cls := .perst, rng := some (0, 2) },
  { off := 0x20018, lo := 30, w := 2, acc := .rwl, cls := .perst, rng := some (0, 2) },
  { off := 0x20020, lo := 0, w := 8, acc := .rw, cls := .perst, rst := 16, rng := some (1, 255) },
  { off := 0x20020, lo := 8, w := 8, acc := .rw, cls := .perst, rst := 16, rng := some (1, 255) },
  { off := 0x20020, lo := 16, w := 8, acc := .rw, cls := .perst, rst := 16, rng := some (1, 255) },
  { off := 0x20020, lo := 24, w := 8, acc := .rw, cls := .perst, rst := 16, rng := some (1, 255) },
  { off := 0x20020, lo := 32, w := 8, acc := .rw, cls := .perst, rst := 16, rng := some (1, 255) },
  { off := 0x20028, lo := 0, w := 2, acc := .rw, cls := .job, rng := some (0, 2) },
  { off := 0x20028, lo := 16, w := 16, acc := .rw, cls := .job },
  { off := 0x20028, lo := 32, w := 10, acc := .rw, cls := .job, rst := 5, rng := some (1, 1000) },
  { off := 0x20030, lo := 0, w := 1, acc := .rwl, cls := .job, rst := 1 },
  { off := 0x20038, lo := 0, w := 11, acc := .rwl, cls := .job, rst := 64, rng := some (8, 1024) },
  { off := 0x20080, lo := 0, w := 3, acc := .ro, cls := .perst, n := 16 },
  { off := 0x20080, lo := 3, w := 2, acc := .ro, cls := .perst, n := 16 },
  { off := 0x20080, lo := 5, w := 2, acc := .ro, cls := .perst, n := 16 },
  { off := 0x20080, lo := 8, w := 8, acc := .ro, cls := .perst, n := 16 },
  { off := 0x20080, lo := 16, w := 16, acc := .ro, cls := .perst, n := 16 },
  { off := 0x20200, lo := 0, w := 13, acc := .ro, cls := .job, n := 64 },
  { off := 0x20400, lo := 0, w := 64, acc := .ro, cls := .job, n := 64 },
  { off := 0x20600, lo := 0, w := 32, acc := .rw, cls := .job, n := 33, stride := 4, cnt := true },
  { off := 0x21000, lo := 0, w := 32, acc := .rw, cls := .job, n := 21, stride := 4, via := .setup, cnt := true },
  { off := 0x21080, lo := 0, w := 32, acc := .rw, cls := .job, n := 21, stride := 4, via := .setup, cnt := true },
  { off := 0x21100, lo := 0, w := 32, acc := .rw, cls := .job, n := 21, stride := 4, via := .setup, cnt := true },
  { off := 0x21180, lo := 0, w := 32, acc := .rw, cls := .job, n := 21, stride := 4, via := .setup, cnt := true },
  { off := 0x21200, lo := 0, w := 32, acc := .rw, cls := .job, n := 21, stride := 4, via := .setup, cnt := true },
  { off := 0x21280, lo := 0, w := 32, acc := .rw, cls := .job, n := 21, stride := 4, via := .setup, cnt := true },
  { off := 0x21300, lo := 0, w := 32, acc := .rw, cls := .job, n := 21, stride := 4, via := .setup, cnt := true },
  { off := 0x21380, lo := 0, w := 32, acc := .rw, cls := .job, n := 21, stride := 4, via := .setup, cnt := true },
  { off := 0x21400, lo := 0, w := 32, acc := .rw, cls := .job, n := 21, stride := 4, via := .setup, cnt := true },
  { off := 0x21480, lo := 0, w := 32, acc := .rw, cls := .job, n := 21, stride := 4, via := .setup, cnt := true },
  { off := 0x21500, lo := 0, w := 32, acc := .rw, cls := .job, n := 21, stride := 4, via := .setup, cnt := true },
  { off := 0x21580, lo := 0, w := 32, acc := .rw, cls := .job, n := 21, stride := 4, via := .setup, cnt := true },
  { off := 0x21600, lo := 0, w := 32, acc := .rw, cls := .job, n := 21, stride := 4, via := .setup, cnt := true },
  { off := 0x21680, lo := 0, w := 32, acc := .rw, cls := .job, n := 21, stride := 4, via := .setup, cnt := true },
  { off := 0x21700, lo := 0, w := 32, acc := .rw, cls := .job, n := 21, stride := 4, via := .setup, cnt := true },
  { off := 0x21780, lo := 0, w := 32, acc := .rw, cls := .job, n := 21, stride := 4, via := .setup, cnt := true },
  { off := 0x22000, lo := 0, w := 4, acc := .rwl, cls := .job, n := 256, stride := 16 },
  { off := 0x22000, lo := 12, w := 27, acc := .rwl, cls := .job, n := 256, stride := 16 },
  { off := 0x22008, lo := 0, w := 28, acc := .rwl, cls := .job, n := 256, stride := 16, rng := some (1, 0x8000000) },
  { off := 0x24000, lo := 0, w := 16, acc := .rw, cls := .perst, n := 4096, stride := 2, via := .setup }]

def mode : List Field := [
  { off := 0x30000, lo := 0, w := 1, acc := .rw, cls := .job, via := .setup },
  { off := 0x30008, lo := 0, w := 16, acc := .rw, cls := .job, via := .setup },
  { off := 0x30010, lo := 0, w := 1, acc := .rw, cls := .job, rst := 1, via := .setup },
  { off := 0x30010, lo := 1, w := 1, acc := .w1s, cls := .job, via := .setup },
  { off := 0x30018, lo := 0, w := 10, acc := .rw, cls := .job, rst := 20, rng := some (1, 1000) },
  { off := 0x30020, lo := 0, w := 13, acc := .rw, cls := .job, rst := 200, rng := some (1, 4096) },
  { off := 0x30028, lo := 0, w := 7, acc := .rwl, cls := .job, rst := 1, rng := some (1, 64) },
  { off := 0x30030, lo := 0, w := 16, acc := .rwl, cls := .job },
  { off := 0x30038, lo := 0, w := 1, acc := .w1c, cls := .job },
  { off := 0x30040, lo := 0, w := 32, acc := .ro, cls := .dash, n := 8, stride := 4 },
  { off := 0x30060, lo := 0, w := 32, acc := .wo, cls := .job, n := 4, stride := 4, via := .setup },
  { off := 0x30070, lo := 0, w := 32, acc := .rwl, cls := .warm, n := 4, stride := 4, via := .setup },
  { off := 0x30080, lo := 0, w := 64, acc := .ro, cls := .job, n := 4 },
  { off := 0x300A0, lo := 0, w := 32, acc := .ro, cls := .job, n := 8, stride := 4 },
  { off := 0x300C0, lo := 0, w := 2, acc := .rw, cls := .job, via := .setup, rng := some (0, 2) },
  { off := 0x300C0, lo := 2, w := 1, acc := .rw, cls := .job, via := .setup },
  { off := 0x300C0, lo := 3, w := 1, acc := .rw, cls := .job, via := .setup },
  { off := 0x300C0, lo := 4, w := 1, acc := .rw, cls := .job, via := .setup },
  { off := 0x300C8, lo := 12, w := 52, acc := .rw, cls := .job, via := .setup },
  { off := 0x300D0, lo := 0, w := 1, acc := .rw, cls := .job, via := .setup },
  { off := 0x300D0, lo := 4, w := 4, acc := .rw, cls := .job, via := .setup, rng := some (0, 8) },
  { off := 0x300D8, lo := 0, w := 32, acc := .rw, cls := .job, via := .setup },
  { off := 0x300E0, lo := 12, w := 52, acc := .rw, cls := .job, via := .setup },
  { off := 0x300E8, lo := 0, w := 64, acc := .rw, cls := .job, via := .setup },
  { off := 0x300F0, lo := 0, w := 6, acc := .ro, cls := .job },
  { off := 0x300F0, lo := 7, w := 1, acc := .w1c, cls := .job, via := .setup },
  { off := 0x300F8, lo := 0, w := 64, acc := .ro, cls := .job }]

def rst : List Field := [
  { off := 0x40000, lo := 0, w := 8, acc := .wo, cls := .dash },
  { off := 0x40000, lo := 8, w := 1, acc := .w1s, cls := .job },
  { off := 0x40008, lo := 0, w := 1, acc := .ro, cls := .job },
  { off := 0x40008, lo := 1, w := 1, acc := .w1c, cls := .job },
  { off := 0x40008, lo := 2, w := 1, acc := .ro, cls := .cold },
  { off := 0x40008, lo := 3, w := 1, acc := .w1c, cls := .perst },
  { off := 0x40008, lo := 4, w := 1, acc := .w1c, cls := .cold },
  { off := 0x40008, lo := 5, w := 1, acc := .w1c, cls := .perst },
  { off := 0x40008, lo := 6, w := 1, acc := .w1c, cls := .perst },
  { off := 0x40008, lo := 7, w := 1, acc := .w1c, cls := .perst },
  { off := 0x40010, lo := 0, w := 16, acc := .wo, cls := .dash },
  { off := 0x40010, lo := 16, w := 8, acc := .wo, cls := .dash },
  { off := 0x40018, lo := 0, w := 8, acc := .wo, cls := .dash },
  { off := 0x40020, lo := 0, w := 14, acc := .rw, cls := .perst, rst := 1000, rng := some (100, 10000) },
  { off := 0x40028, lo := 0, w := 3, acc := .rw, cls := .perst, rng := some (0, 4) },
  { off := 0x40028, lo := 8, w := 3, acc := .ro, cls := .perst },
  { off := 0x40030, lo := 0, w := 11, acc := .rw, cls := .perst, rst := 1500, rng := some (600, 1500) },
  { off := 0x40038, lo := 0, w := 2, acc := .wo, cls := .dash, via := .setup, rng := some (0, 1) },
  { off := 0x40038, lo := 4, w := 2, acc := .ro, cls := .perst },
  { off := 0x40040, lo := 0, w := 6, acc := .ro, cls := .perst },
  { off := 0x40040, lo := 8, w := 4, acc := .ro, cls := .perst },
  { off := 0x40040, lo := 12, w := 4, acc := .ro, cls := .perst },
  { off := 0x40040, lo := 16, w := 1, acc := .ro, cls := .perst },
  { off := 0x40040, lo := 17, w := 1, acc := .ro, cls := .perst },
  { off := 0x40048, lo := 0, w := 4, acc := .ro, cls := .vbak },
  { off := 0x40048, lo := 4, w := 3, acc := .ro, cls := .vbak },
  { off := 0x40050, lo := 0, w := 64, acc := .ro, cls := .dash },
  { off := 0x40080, lo := 0, w := 32, acc := .rw, cls := .vbak, n := 16, stride := 4, via := .setup, cnt := true }]

def tt : List Field := [
  { off := 0x50000, lo := 0, w := 10, acc := .rw, cls := .perst, via := .host },
  { off := 0x50000, lo := 12, w := 1, acc := .w1s, cls := .perst, via := .host },
  { off := 0x50000, lo := 13, w := 1, acc := .w1s, cls := .perst, via := .host },
  { off := 0x50000, lo := 14, w := 1, acc := .w1s, cls := .perst, via := .host },
  { off := 0x50000, lo := 15, w := 1, acc := .w1s, cls := .perst, via := .host },
  { off := 0x50000, lo := 16, w := 8, acc := .wo, cls := .dash, via := .host },
  { off := 0x50000, lo := 32, w := 32, acc := .rw, cls := .perst, via := .host },
  { off := 0x50008, lo := 0, w := 16, acc := .ro, cls := .cold },
  { off := 0x50008, lo := 16, w := 16, acc := .ro, cls := .cold },
  { off := 0x50008, lo := 32, w := 16, acc := .ro, cls := .cold },
  { off := 0x50008, lo := 48, w := 1, acc := .w1c, cls := .cold },
  { off := 0x50008, lo := 49, w := 1, acc := .ro, cls := .cold },
  { off := 0x50008, lo := 50, w := 1, acc := .ro, cls := .cold },
  { off := 0x50010, lo := 0, w := 32, acc := .ro, cls := .cold },
  { off := 0x50018, lo := 0, w := 32, acc := .rw, cls := .cold, via := .host },
  { off := 0x50020, lo := 0, w := 32, acc := .ro, cls := .cold },
  { off := 0x50028, lo := 0, w := 32, acc := .ro, cls := .dash },
  { off := 0x50030, lo := 0, w := 10, acc := .rw, cls := .perst, rst := 100, rng := some (1, 1000) },
  { off := 0x50038, lo := 0, w := 32, acc := .rw, cls := .perst },
  { off := 0x51000, lo := 0, w := 7, acc := .rw, cls := .perst, rst := 1, n := 1024, stride := 4 },
  { off := 0x51000, lo := 8, w := 8, acc := .rw, cls := .perst, rst := 16, n := 1024, stride := 4 },
  { off := 0x52000, lo := 0, w := 1, acc := .rw, cls := .perst, n := 1024, stride := 4 },
  { off := 0x52000, lo := 2, w := 22, acc := .rw, cls := .perst, n := 1024, stride := 4 },
  { off := 0x58000, lo := 0, w := 64, acc := .ro, cls := .dash, n := 512 }]

def sec : List Field := [
  { off := 0x60000, lo := 0, w := 8, acc := .rw, cls := .perst, via := .host },
  { off := 0x60008, lo := 0, w := 64, acc := .rw, cls := .perst, n := 4, via := .host },
  { off := 0x60028, lo := 0, w := 3, acc := .ro, cls := .perst },
  { off := 0x60030, lo := 0, w := 4, acc := .ro, cls := .warm },
  { off := 0x60030, lo := 4, w := 4, acc := .ro, cls := .warm },
  { off := 0x60038, lo := 0, w := 1, acc := .ro, cls := .warm },
  { off := 0x60038, lo := 1, w := 1, acc := .ro, cls := .cold },
  { off := 0x60038, lo := 4, w := 4, acc := .ro, cls := .cold },
  { off := 0x60038, lo := 16, w := 8, acc := .ro, cls := .dash },
  { off := 0x60038, lo := 24, w := 1, acc := .ro, cls := .warm },
  { off := 0x60040, lo := 0, w := 32, acc := .ro, cls := .cold },
  { off := 0x60048, lo := 0, w := 7, acc := .ro, cls := .dash },
  { off := 0x60048, lo := 8, w := 7, acc := .ro, cls := .warm },
  { off := 0x61000, lo := 0, w := 64, acc := .rw, cls := .perst, n := 512, via := .host }]

def ckp : List Field := [
  { off := 0x70000, lo := 0, w := 12, acc := .rwl, cls := .job, rst := 0 },
  { off := 0x70008, lo := 0, w := 3, acc := .rwl, cls := .job },
  { off := 0x70008, lo := 3, w := 3, acc := .rwl, cls := .job },
  { off := 0x70008, lo := 6, w := 3, acc := .rwl, cls := .job },
  { off := 0x70008, lo := 9, w := 3, acc := .rwl, cls := .job },
  { off := 0x70008, lo := 12, w := 3, acc := .rwl, cls := .job },
  { off := 0x70008, lo := 15, w := 3, acc := .rwl, cls := .job },
  { off := 0x70008, lo := 18, w := 3, acc := .rwl, cls := .job },
  { off := 0x70008, lo := 21, w := 3, acc := .rwl, cls := .job },
  { off := 0x70008, lo := 24, w := 3, acc := .rwl, cls := .job },
  { off := 0x70008, lo := 27, w := 3, acc := .rwl, cls := .job },
  { off := 0x70008, lo := 30, w := 3, acc := .rwl, cls := .job },
  { off := 0x70008, lo := 33, w := 3, acc := .rwl, cls := .job },
  { off := 0x70008, lo := 36, w := 3, acc := .rwl, cls := .job },
  { off := 0x70008, lo := 39, w := 3, acc := .rwl, cls := .job },
  { off := 0x70008, lo := 42, w := 3, acc := .rwl, cls := .job },
  { off := 0x70008, lo := 45, w := 3, acc := .rwl, cls := .job },
  { off := 0x70010, lo := 0, w := 16, acc := .rwl, cls := .job },
  { off := 0x70018, lo := 0, w := 1, acc := .rw, cls := .job, rst := 1 },
  { off := 0x70020, lo := 0, w := 1, acc := .w1c, cls := .job },
  { off := 0x70020, lo := 1, w := 1, acc := .ro, cls := .job },
  { off := 0x70020, lo := 2, w := 1, acc := .w1c, cls := .job },
  { off := 0x70020, lo := 3, w := 1, acc := .w1c, cls := .job },
  { off := 0x70020, lo := 4, w := 1, acc := .w1c, cls := .job },
  { off := 0x70020, lo := 5, w := 1, acc := .w1c, cls := .job },
  { off := 0x70020, lo := 6, w := 1, acc := .w1c, cls := .job },
  { off := 0x70020, lo := 7, w := 1, acc := .ro, cls := .perst },
  { off := 0x70028, lo := 0, w := 64, acc := .ro, cls := .job },
  { off := 0x70030, lo := 0, w := 48, acc := .ro, cls := .job, n := 2 },
  { off := 0x70040, lo := 0, w := 32, acc := .ro, cls := .job },
  { off := 0x70048, lo := 0, w := 32, acc := .rwl, cls := .perst, via := .host },
  { off := 0x70050, lo := 0, w := 64, acc := .rwl, cls := .perst, via := .host },
  { off := 0x70058, lo := 0, w := 64, acc := .rwl, cls := .perst, via := .host },
  { off := 0x70060, lo := 0, w := 64, acc := .ro, cls := .perst, n := 2 },
  { off := 0x70070, lo := 0, w := 4, acc := .ro, cls := .perst }]

def sch : List Field := [
  { off := 0x80000, lo := 0, w := 30, acc := .rwl, cls := .job, rst := 100000, rng := some (10000, 1000000000) },
  { off := 0x80008, lo := 0, w := 64, acc := .rwl, cls := .warm },
  { off := 0x80010, lo := 0, w := 64, acc := .ro, cls := .job },
  { off := 0x80018, lo := 0, w := 16, acc := .rw, cls := .job, rst := 16, rng := some (1, 65535) },
  { off := 0x80020, lo := 0, w := 1, acc := .ro, cls := .job },
  { off := 0x80028, lo := 0, w := 32, acc := .rw, cls := .job, cnt := true },
  { off := 0x80030, lo := 0, w := 32, acc := .rw, cls := .job, cnt := true },
  { off := 0x80038, lo := 0, w := 32, acc := .rw, cls := .job, cnt := true },
  { off := 0x81000, lo := 0, w := 64, acc := .ro, cls := .job, n := 512 }]

def chk : List Field := [
  { off := 0x90000, lo := 0, w := 1, acc := .ro, cls := .dash },
  { off := 0x90000, lo := 1, w := 1, acc := .ro, cls := .dash },
  { off := 0x90000, lo := 2, w := 1, acc := .ro, cls := .job },
  { off := 0x90000, lo := 3, w := 1, acc := .ro, cls := .dash },
  { off := 0x90000, lo := 4, w := 1, acc := .ro, cls := .dash },
  { off := 0x90008, lo := 0, w := 64, acc := .ro, cls := .dash },
  { off := 0x90010, lo := 0, w := 5, acc := .rw, cls := .perst, rst := 4, rng := some (1, 24) },
  { off := 0x90018, lo := 0, w := 7, acc := .ro, cls := .job },
  { off := 0x90018, lo := 8, w := 1, acc := .ro, cls := .job },
  { off := 0x90020, lo := 0, w := 64, acc := .rwl, cls := .job },
  { off := 0x90028, lo := 0, w := 3, acc := .ro, cls := .job },
  { off := 0x90030, lo := 0, w := 38, acc := .wo, cls := .dash, via := .setup },
  { off := 0x90038, lo := 0, w := 7, acc := .ro, cls := .warm },
  { off := 0x90038, lo := 8, w := 7, acc := .ro, cls := .warm },
  { off := 0x90038, lo := 16, w := 1, acc := .ro, cls := .warm },
  { off := 0x90040, lo := 0, w := 8, acc := .ro, cls := .perst },
  { off := 0x90040, lo := 8, w := 2, acc := .ro, cls := .perst },
  { off := 0x90040, lo := 10, w := 1, acc := .ro, cls := .perst },
  { off := 0x90048, lo := 0, w := 32, acc := .rw, cls := .job, cnt := true },
  { off := 0x90048, lo := 32, w := 32, acc := .rw, cls := .job, cnt := true },
  { off := 0x90050, lo := 0, w := 12, acc := .rw, cls := .perst },
  { off := 0x90060, lo := 0, w := 64, acc := .ro, cls := .dash, n := 4 },
  { off := 0x91000, lo := 12, w := 27, acc := .ro, cls := .job, n := 64, stride := 16 },
  { off := 0x91000, lo := 40, w := 3, acc := .ro, cls := .job, n := 64, stride := 16 },
  { off := 0x91000, lo := 47, w := 1, acc := .w1c, cls := .job, n := 64, stride := 16, via := .setup },
  { off := 0x91008, lo := 0, w := 64, acc := .ro, cls := .job, n := 64, stride := 16 }]

/-- The fields of one SOL page (R633), at the page's base. -/
def solPage (b : Nat) : List Field := [
  { off := b, lo := 12, w := 27, acc := .rw, cls := .job },
  { off := b + 0x08, lo := 12, w := 27, acc := .rw, cls := .job },
  { off := b + 0x10, lo := 0, w := 1, acc := .ro, cls := .job },
  { off := b + 0x10, lo := 1, w := 1, acc := .ro, cls := .job },
  { off := b + 0x10, lo := 4, w := 3, acc := .ro, cls := .job },
  { off := b + 0x10, lo := 24, w := 24, acc := .ro, cls := .job },
  { off := b + 0x18, lo := 0, w := 29, acc := .ro, cls := .job },
  { off := b + 0x18, lo := 32, w := 31, acc := .ro, cls := .job },
  { off := b + 0x20, lo := 0, w := 64, acc := .ro, cls := .job, n := 4 },
  { off := b + 0x40, lo := 0, w := 16, acc := .rw, cls := .job, cnt := true },
  { off := b + 0x40, lo := 16, w := 16, acc := .rw, cls := .job, cnt := true },
  { off := b + 0x40, lo := 32, w := 16, acc := .rw, cls := .job, cnt := true }]

/-- The fields of the TILE pages (R634), 32 pages 0x4000 apart. -/
def tile : List Field := [
  { off := 0x100000, lo := 0, w := 8, acc := .w1c, cls := .job, n := 32, stride := 0x4000, via := .setup },
  { off := 0x100008, lo := 0, w := 32, acc := .rw, cls := .job, n := 32, stride := 0x4000, via := .setup, cnt := true },
  { off := 0x100010, lo := 0, w := 3, acc := .rw, cls := .job, n := 32, stride := 0x4000, rng := some (0, 4) },
  { off := 0x100010, lo := 4, w := 3, acc := .ro, cls := .job, n := 32, stride := 0x4000 },
  { off := 0x100010, lo := 8, w := 3, acc := .ro, cls := .job, n := 32, stride := 0x4000 },
  { off := 0x100018, lo := 0, w := 9, acc := .rwl, cls := .job, rst := 64, n := 32, stride := 0x4000, rng := some (0, 256) },
  { off := 0x100020, lo := 0, w := 48, acc := .ro, cls := .dash, n := 32, stride := 0x4000 },
  { off := 0x100040, lo := 0, w := 16, acc := .rw, cls := .job, n := 32, stride := 0x4000, cnt := true },
  { off := 0x100040, lo := 16, w := 16, acc := .rw, cls := .job, n := 32, stride := 0x4000, cnt := true },
  { off := 0x100040, lo := 32, w := 16, acc := .rw, cls := .job, n := 32, stride := 0x4000, cnt := true },
  { off := 0x100048, lo := 0, w := 16, acc := .rw, cls := .job, n := 32, stride := 0x4000, cnt := true },
  { off := 0x100048, lo := 16, w := 16, acc := .rw, cls := .job, n := 32, stride := 0x4000, cnt := true },
  { off := 0x100048, lo := 32, w := 16, acc := .rw, cls := .job, n := 32, stride := 0x4000, cnt := true },
  { off := 0x100050, lo := 0, w := 16, acc := .rw, cls := .job, n := 32, stride := 0x4000, cnt := true },
  { off := 0x100050, lo := 16, w := 16, acc := .rw, cls := .job, n := 32, stride := 0x4000, cnt := true },
  { off := 0x100050, lo := 32, w := 16, acc := .rw, cls := .job, n := 32, stride := 0x4000, cnt := true },
  { off := 0x100058, lo := 0, w := 16, acc := .rw, cls := .job, n := 32, stride := 0x4000, cnt := true },
  { off := 0x100058, lo := 16, w := 16, acc := .rw, cls := .job, n := 32, stride := 0x4000, cnt := true },
  { off := 0x100058, lo := 32, w := 16, acc := .rw, cls := .job, n := 32, stride := 0x4000, cnt := true },
  { off := 0x100060, lo := 0, w := 16, acc := .rw, cls := .job, n := 32, stride := 0x4000, cnt := true },
  { off := 0x100060, lo := 16, w := 16, acc := .rw, cls := .job, n := 32, stride := 0x4000, cnt := true },
  { off := 0x100060, lo := 32, w := 16, acc := .rw, cls := .job, n := 32, stride := 0x4000, cnt := true },
  { off := 0x100068, lo := 0, w := 32, acc := .rw, cls := .job, n := 32, stride := 0x4000, cnt := true },
  { off := 0x100068, lo := 32, w := 32, acc := .rw, cls := .job, n := 32, stride := 0x4000, cnt := true },
  { off := 0x100070, lo := 0, w := 32, acc := .rw, cls := .job, n := 32, stride := 0x4000, cnt := true },
  { off := 0x100070, lo := 32, w := 32, acc := .rw, cls := .job, n := 32, stride := 0x4000, cnt := true },
  { off := 0x100078, lo := 0, w := 32, acc := .rw, cls := .job, n := 32, stride := 0x4000, cnt := true }]

def spar : List Field := [
  { off := 0x200000, lo := 0, w := 1, acc := .rwl, cls := .job, n := 8, stride := 16 },
  { off := 0x200000, lo := 12, w := 27, acc := .rwl, cls := .job, n := 8, stride := 16 },
  { off := 0x200008, lo := 12, w := 27, acc := .rwl, cls := .job, n := 8, stride := 16 },
  { off := 0x200080, lo := 4, w := 6, acc := .w1c, cls := .job, via := .setup },
  { off := 0x200088, lo := 0, w := 9, acc := .ro, cls := .job },
  { off := 0x200088, lo := 16, w := 6, acc := .ro, cls := .warm }]

/-- The rows of the block that an offset lies in (R613). -/
def block (off : Nat) : List Field :=
  if off < 0x10000 then glb
  else if off < 0x20000 then hif
  else if off < 0x30000 then fab
  else if off < 0x40000 then mode
  else if off < 0x50000 then rst
  else if off < 0x60000 then tt
  else if off < 0x70000 then sec
  else if off < 0x80000 then ckp
  else if off < 0x90000 then sch
  else if off < 0xA0000 then chk
  else if off < 0xB0000 then solPage (0xA0000 + (off - 0xA0000) / 0x4000 * 0x4000)
  else if 0x100000 ≤ off ∧ off < 0x180000 then tile
  else if 0x200000 ≤ off ∧ off < 0x210000 then spar
  else []

/-- The bit positions, in the 64-bit word at `woff`, at which instances of a row lie: (low bit, row). -/
def Field.inWord (f : Field) (woff : Nat) : List (Nat × Field) :=
  if f.stride = 0 ∨ woff + 8 ≤ f.off ∨ f.off + f.n * f.stride ≤ woff then [] else
  let first := if woff ≤ f.off then 0 else (woff - f.off) / f.stride
  (List.range 5).filterMap (fun j =>
    let i := first + j
    let p := f.off + i * f.stride
    if i < f.n ∧ woff ≤ p ∧ p < woff + 8 then some (8 * (p - woff) + f.lo, f) else none)

/-- Every field of the word at an 8-byte-aligned offset: its low bit in the word, and its row. -/
def fieldsAt (woff : Nat) : List (Nat × Field) := (block woff).flatMap (·.inWord woff)

/-- The reset value of a word: each field's stated reset, 0 elsewhere. -/
def resetWord (woff : Nat) : BitVec 64 :=
  BitVec.ofNat 64 ((fieldsAt woff).foldl (fun n f => n ||| (f.2.rst <<< f.1)) 0)

/-- The mask of the fields of a word that satisfy `p`. -/
def maskWhere (p : Field → Bool) (woff : Nat) : BitVec 64 :=
  BitVec.ofNat 64 ((fieldsAt woff).foldl (fun n f => if p f.2 then n ||| ((2 ^ f.2.w - 1) <<< f.1) else n) 0)

end Sys2Proof.Reg
end

