-- ==== Sys2Proof/Machine/Rng.lean ====
section
/-! DEFINITION. The generator function of R212, the lane contexts of R211 to R216, `dig_hash` of R454 and the weight
digest's key and sums of R523. -/

namespace Sys2Proof.Rng

def w32 (n : Nat) : Nat := n % 2 ^ 32
/-- Rotation of a 32-bit word to the left. -/
def rotl (n k : Nat) : Nat := w32 (n <<< k) ||| (n >>> (32 - k))

/-- The rotation amounts RA and RB of R212, round by round. -/
def rounds : List (Nat × Nat × Nat) :=
  [(0, 13, 19), (1, 7, 26), (2, 21, 11), (3, 5, 17), (4, 29, 3), (5, 16, 24), (6, 9, 14), (7, 23, 6), (8, 12, 27), (9, 18, 8)]

/-- The key word `k[i]`, with `k[4]` the parity word. -/
def keyWord (key : Nat) (i : Nat) : Nat :=
  let k := fun j => getBits key (32 * j) 32
  if i % 5 = 4 then k 0 ^^^ k 1 ^^^ k 2 ^^^ k 3 ^^^ 0x6C5A93D7 else k (i % 5)

/-- The four words of the generator. -/
abbrev X4 := Nat × Nat × Nat × Nat

/-- Addition of the round key `j` before the even rounds. -/
def inject (key j : Nat) (x : X4) : X4 :=
  (w32 (x.1 + keyWord key j), w32 (x.2.1 + keyWord key (j + 1)), w32 (x.2.2.1 + keyWord key (j + 2)),
    w32 (x.2.2.2 + keyWord key (j + 3) + j))

/-- One round. -/
def round (key : Nat) (x : X4) (r : Nat × Nat × Nat) : X4 :=
  let x := if r.1 % 2 = 0 then inject key (r.1 / 2) x else x
  let x0 := w32 (x.1 + x.2.1)
  let x3 := rotl (x.2.2.2 ^^^ x0) r.2.1
  let x2 := w32 (x.2.2.1 + x3)
  let x1 := rotl (x.2.1 ^^^ x2) r.2.2
  (x1, x2, x3, x0)

/-- `rng_block(ctr, key)` (R212), as the four 32-bit words in one 128-bit number, word 0 lowest. -/
def block (ctr key : Nat) : Nat :=
  let x := rounds.foldl (round key) (getBits ctr 0 32, getBits ctr 32 32, getBits ctr 64 32, getBits ctr 96 32)
  let y0 := w32 (x.1 + keyWord key 0)
  let y1 := w32 (x.2.1 + keyWord key 1)
  let y2 := w32 (x.2.2.1 + keyWord key 2)
  let y3 := w32 (x.2.2.2 + keyWord key 3 + 5)
  y0 ||| (y1 <<< 32) ||| (y2 <<< 64) ||| (y3 <<< 96)

/-- `next_ctr` (R214): the block index wraps in bits [25:0] and carries into bits [127:64]. -/
def nextCtr (c : Nat) : Nat :=
  if getBits c 0 26 + 1 < 2 ^ 26 then c + 1
  else putBits (putBits c 0 26 0) 64 64 (getBits c 64 64 + 1)

/-- The derived counter of R214. -/
def derive (tag ring ord stream tile lane : Nat) : Nat :=
  (getBits tag 0 64 <<< 64) ||| (getBits ring 0 6 <<< 58) ||| (getBits ord 0 14 <<< 44) ||| (getBits stream 0 4 <<< 40)
    ||| (getBits tile 0 5 <<< 35) ||| (getBits lane 0 9 <<< 26)

/-- The lane key (R211): the job key with the logical rank in bits [127:122]. -/
def laneKey (job rank : Nat) : Nat := job ^^^ ((rank % 64) <<< 122)

/-- `draw` (R212): a 32-bit word and the context after it. -/
def draw (key : Nat) (c : RngCtx) : Nat × RngCtx :=
  let blk := if c.widx = 0 then block c.ctr.toNat key else c.blk.toNat
  let w := getBits blk (32 * c.widx) 32
  let i := (c.widx + 1) % 4
  (w, { c with blk := BitVec.ofNat 128 blk, widx := i, ctr := if i = 0 then BitVec.ofNat 128 (nextCtr c.ctr.toNat) else c.ctr })

/-- `dig_hash` (R454): bytes of the unit outside the mask are cleared by the caller. -/
def digHash (kind addr data mask : Nat) : BitVec 64 :=
  BitVec.ofNat 64 (block ((data % 2 ^ 128) ^^^ (addr <<< 64) % 2 ^ 128 ^^^ mask) ((data >>> 128) % 2 ^ 128 ^^^ (kind <<< 124)))

/-- The modulus of R523. -/
def p127 : Nat := 2 ^ 127 - 1

/-- `digest_key(w)` (R523). -/
def digestKey (w job : Nat) : Nat :=
  let k := block (w ||| (0xD16E <<< 112)) job % p127
  if k < 2 then 2 else k

/-- `b ^ n mod p127` by squaring, over the `k` low bits of `n`. -/
def powMod (b n : Nat) : Nat → Nat
  | 0 => 1
  | k + 1 =>
    let h := powMod (b * b % p127) (n / 2) k
    if n % 2 = 1 then h * b % p127 else h

/-- The digest term of master `e` with pattern `m` (R523). -/
def digTerm (key e m : Nat) : Nat := m * powMod key (e + 1) 40 % p127

/-- The change of a digest when master `e` goes from `a` to `b` (R524). -/
def digDelta (key e a b : Nat) : Nat := ((b + p127 - a % p127) % p127) * powMod key (e + 1) 40 % p127

end Sys2Proof.Rng
end

