-- ==== Sys2Proof/Machine/Sha.lean ====
section
/-! DEFINITION. SHA-384 (FIPS 180-4), CRC-32 (polynomial 0x04C1_1DB7) and ECDSA over P-384, which R269, R449, R475,
R487, R510, R567 and R593 name and leave to their standards. -/

namespace Sys2Proof.Sha

def w64 (n : Nat) : Nat := n % 2 ^ 64
def rotr (n k : Nat) : Nat := (n >>> k) ||| w64 (n <<< (64 - k))

/-- The largest `r` with `r ^ k ≤ n`, bit by bit from `r`'s bit `b - 1` down. -/
def rootFrom (k n : Nat) : Nat → Nat → Nat
  | 0, r => r
  | b + 1, r => rootFrom k n b (if (r + 2 ^ b) ^ k ≤ n then r + 2 ^ b else r)

/-- The first 64 bits of the fraction of the `k`-th root of a number below 2 ^ 10. -/
def rootBits (k p : Nat) : Nat := w64 (rootFrom k (p * 2 ^ (64 * k)) 70 0)

/-- The first 80 primes: trial division by 2 to 20 decides below 441. -/
def primes80 : List Nat :=
  (List.range 410).filter (fun n => decide (2 ≤ n) && (List.range 19).all (fun d => decide (n ≤ d + 2) || n % (d + 2) != 0))

/-- The round constants of SHA-512: of the cube roots of the first 80 primes. -/
def kTab : List Nat := primes80.map (rootBits 3)

/-- The initial hash value of SHA-384: of the square roots of the ninth to sixteenth primes. -/
def init384 : List Nat := ((primes80.drop 8).take 8).map (rootBits 2)

/-- The message with its padding. -/
def pad (m : List Byte) : List Byte :=
  let l := m.length
  m ++ [0x80#8] ++ List.replicate ((128 - (l + 17) % 128) % 128) 0#8 ++ beBytes 16 (8 * l)

/-- The next word of the message schedule, from the last sixteen, newest first. -/
def sched (ws : List Nat) : Nat :=
  let w := fun i => ws.getD (i - 1) 0
  let s0 := fun x => rotr x 1 ^^^ rotr x 8 ^^^ (x >>> 7)
  let s1 := fun x => rotr x 19 ^^^ rotr x 61 ^^^ (x >>> 6)
  w64 (s1 (w 2) + w 7 + s0 (w 15) + w 16)

/-- The rounds over the remaining constants: the schedule words to come, the last sixteen, and the working variables. -/
def roundsOf : List Nat → List Nat → List Nat → List Nat → List Nat
  | [], _, _, v => v
  | k :: ks, fut, last, v =>
    let w := match fut with
      | x :: _ => x
      | [] => sched last
    match v with
    | [a, b, c, d, e, f, g, h] =>
      let t1 := h + (rotr e 14 ^^^ rotr e 18 ^^^ rotr e 41) + ((e &&& f) ^^^ ((2 ^ 64 - 1 - e) &&& g)) + k + w
      let t2 := (rotr a 28 ^^^ rotr a 34 ^^^ rotr a 39) + ((a &&& b) ^^^ (a &&& c) ^^^ (b &&& c))
      roundsOf ks fut.tail (w :: last.take 15) [w64 (t1 + t2), a, b, c, w64 (d + t1), e, f, g]
    | v => v

/-- One block of 128 bytes. -/
def block (h : List Nat) (b : List Byte) : List Nat :=
  let ws := (chunks 8 16 b).map beNat
  List.zipWith (fun x y => w64 (x + y)) h (roundsOf kTab ws [] h)

/-- SHA-384, as 48 bytes. -/
def sha384 (m : List Byte) : List Byte :=
  let p := pad m
  let h := (chunks 128 (p.length / 128 + 1) p).foldl block init384
  (h.take 6).flatMap (beBytes 8)

/-- The digest as a number whose byte 0 is least significant (as a field of a little-endian record). -/
def sha384le (m : List Byte) : Nat := leNat (sha384 m)

/-- One byte of the reflected CRC-32: eight shifts. -/
def crcByte (c : Nat) : Nat → Nat
  | 0 => c
  | k + 1 => crcByte (if c % 2 = 1 then (c / 2) ^^^ 0xEDB88320 else c / 2) k

/-- CRC-32 with polynomial 0x04C1_1DB7. PRESUMED: the reflected form with preset and final inversion of IEEE 802.3. -/
def crc32 (m : List Byte) : Nat :=
  (m.foldl (fun c b => crcByte (c ^^^ b.toNat) 8) 0xFFFFFFFF) ^^^ 0xFFFFFFFF

/-! ## ECDSA over P-384 (FIPS 186-5) -/

def pP : Nat := 2 ^ 384 - 2 ^ 128 - 2 ^ 96 + 2 ^ 32 - 1
def pN : Nat := 0xffffffffffffffffffffffffffffffffffffffffffffffffc7634d81f4372ddf581a0db248b0a77aecec196accc52973
def pB : Nat := 0xb3312fa7e23ee7e4988e056be3f82d19181d9c6efe8141120314088f5013875ac656398d8a2ed19d2a85c8edd3ec2aef
def pGx : Nat := 0xaa87ca22be8b05378eb1c71ef320ad746e1d3b628ba79b9859f741e082542a385502f25dbf55296c3a545e3872760ab7
def pGy : Nat := 0x3617de4a96262c6f5d9e98bf9292dc29f8f41dbd289a147ce9da3113b5f0b8c00a60b1ce1d7e819d7a431d7c90ea0e5f

/-- `b ^ n mod m` over the `k` low bits of `n`. -/
def powm (m b n : Nat) : Nat → Nat
  | 0 => 1
  | k + 1 =>
    let h := powm m (b * b % m) (n / 2) k
    if n % 2 = 1 then h * b % m else h

/-- The inverse modulo a prime. -/
def inv (m a : Nat) : Nat := powm m (a % m) (m - 2) 384

/-- Subtraction modulo the field prime. -/
def fsub (a b : Nat) : Nat := (a + pP - b % pP) % pP

/-- A point as the fractions x / z² and y / z³; z = 0 is the point at infinity. -/
structure Pt where
  x : Nat
  y : Nat
  z : Nat
  deriving DecidableEq, Repr

def Pt.zero : Pt := ⟨1, 1, 0⟩

/-- Twice a point, on the curve with a = -3. -/
def Pt.dbl (p : Pt) : Pt :=
  let zz := p.z * p.z % pP
  let yy := p.y * p.y % pP
  let b := p.x * yy % pP
  let a := 3 * (fsub p.x zz * (p.x + zz) % pP) % pP
  let x := fsub (a * a % pP) (8 * b)
  ⟨x, fsub (a * fsub (4 * b) x % pP) (8 * (yy * yy)), 2 * p.y * p.z % pP⟩

/-- The sum of two points. -/
def Pt.add (p q : Pt) : Pt :=
  if p.z = 0 then q
  else if q.z = 0 then p
  else
    let pz := p.z * p.z % pP
    let qz := q.z * q.z % pP
    let u := p.x * qz % pP
    let s := p.y * (qz * q.z % pP) % pP
    let h := fsub (q.x * pz % pP) u
    let r := fsub (q.y * (pz * p.z % pP) % pP) s
    if h = 0 then (if r = 0 then p.dbl else Pt.zero)
    else
      let hh := h * h % pP
      let hhh := hh * h % pP
      let v := u * hh % pP
      let x := fsub (fsub (r * r % pP) hhh) (2 * v)
      ⟨x, fsub (r * fsub v x % pP) (s * hhh), h * (p.z * q.z % pP) % pP⟩

/-- `m` times `p` and `n` times `q`, over the `k` low bits of `m` and `n`; `pq` is their sum. -/
def Pt.mul2 (p q pq : Pt) : Nat → Nat → Nat → Pt
  | 0, _, _ => Pt.zero
  | k + 1, m, n =>
    let h := (Pt.mul2 p q pq k (m / 2) (n / 2)).dbl
    if m % 2 = 1 then (if n % 2 = 1 then h.add pq else h.add p)
    else if n % 2 = 1 then h.add q else h

/-- ECDSA verification of a 384-bit digest `e` under the key (qx, qy). -/
def ecdsaOk (qx qy e r s : Nat) : Bool :=
  decide (0 < r) && decide (r < pN) && decide (0 < s) && decide (s < pN) && decide (qx < pP) && decide (qy < pP)
    && decide ((qy * qy) % pP = (qx * qx * qx + (pP - 3) * qx + pB) % pP) &&
  (let w := inv pN s
   let g : Pt := ⟨pGx, pGy, 1⟩
   let q : Pt := ⟨qx, qy, 1⟩
   let p := Pt.mul2 g q (g.add q) 384 (e * w % pN) (r * w % pN)
   decide (p.z ≠ 0) && decide (p.x * inv pP (p.z * p.z) % pP % pN = r))

end Sys2Proof.Sha
end

