-- ==== Sys2Proof/Machine/State.lean ====
section
/-! DEFINITION. The state of one VXS-6432 node as plain data, the reasons a step can stop, and the state after reset. -/

namespace Sys2Proof.Machine

/-- Why the machine stops with a fault. -/
inductive Fault where
  /-- Raised by `boot`: CFGSEL code 15 in MANUFACTURE is factory test, which R543 names and no rule describes. Safe: the
  model stops where the part goes on. -/
  | factoryTest
  deriving DecidableEq, Repr

/-- Why a command is refused. -/
inductive Refusal where
  /-- Raised by an arm of `exec` that has no meaning yet. Safe. -/
  | notModelled (mnemonic : String)
  /-- Raised by a command that reports the end of something the node is not doing (a training that does not run, an
  answer to a request never sent) or names a descriptor the node does not hold: no such event exists in this state, and
  the manual gives it no effect. Safe. -/
  | notPending
  deriving DecidableEq, Repr

/-! ## Host interface (chapter 02) -/

/-- A submission ring's counts (R50) and its halted and disabling conditions (R49, R51); its settings are HIF_SQCFG. -/
structure SqRing where
  tail : BitVec 32 := 0
  head : BitVec 32 := 0
  retire : BitVec 32 := 0
  halted : Bool := false
  disabling : Bool := false
  deriving DecidableEq, Repr

/-- A completion ring's count of records written and its head (R49, R56). -/
structure CqRing where
  written : BitVec 32 := 0
  head : BitVec 32 := 0
  deriving DecidableEq, Repr

/-- Where a fetched descriptor stands. -/
inductive DSt where
  | waiting | running | finished
  deriving DecidableEq, Repr

/-- A descriptor held by the node (R55): its 64 bytes, ORD (R214), the step it belongs to (0: none), whether it counts
toward the seal (R61), its fences resolved to (ring, count) (R659), its state and outcome, the tiles or threads whose
program still runs, whether its step has committed and its record was posted, the tiles on which a program that has begun has still to
start (R182), and by tile the words that each lane has drawn for it (R215; none: no draw yet). -/
structure InDesc where
  ref : DRef
  raw : BitVec 512
  ord : Nat
  step : BitVec 64
  counts : Bool
  fences : List (Nat × Nat)
  st : DSt
  status : BitVec 16
  result : BitVec 32
  left : Nat
  committed : Bool
  posted : Bool
  todo : Nat := 0
  drew : SM (Option Nat) := []
  deriving DecidableEq, Repr

/-- What the node sends out, in order (R63): posted host writes, host reads made for a crew node, MSI-X messages (vector, address and data of its table entry), AER non-fatal error messages, flits of a port, commands to
the locker, bytes on SMBus and through DOE, and messages on JTAG-visible and sideband lines. -/
inductive Out where
  | hostWrite (addr : Nat) (bytes : List Byte)
  | hostRead (addr len : Nat)
  | msix (v : Nat) (addr data : Nat)
  | errNonFatal
  | flit (port : Nat) (f : Flit)
  | locker (op : Nat) (lba blocks : Nat) (fua : Bool) (data : List Byte)
  | lockerDma (addr : Nat) (accepted : Bool)
  | smbus (bytes : List Byte)
  | doe (bytes : List Byte)
  | crew (idx off : Nat) (value : BitVec 64)
  | readData (value : BitVec 64)
  deriving DecidableEq, Repr


/-- A transition of committed register state that a step makes (R465). Each enters the committed copy at its step's
commit; the ones marked late enter the live copy only then. -/
inductive Trans where
  | flags (tile : Nat) (f : BitVec 8)
  | uf (tile n : Nat)
  | spFlags (f : BitVec 6)
  | regionDef (w : Nat) (r : Region)
  | regionRead (w tag : Nat) (ver : BitVec 16)
  | regionUpd (w : Nat) (ver : BitVec 16)
  | regionDig (w d : Nat)
  | groupDef (g : Nat) (x : Group)
  | groupSeq (g : Nat)
  | sched (i : Nat) (e : BitVec 128)
  | sol (e : Nat) (c : SolCtx)
  | solTaint (e : Nat)
  | rng (k : Nat) (c : RngCtx)
  deriving DecidableEq, Repr

/-- One partial digest contribution of a descriptor and unit, for DETAIL entries (R462). -/
structure Partial where
  ring : Nat
  ord : Nat
  unit : Nat
  wdig : BitVec 64
  sdig : BitVec 64
  deriving DecidableEq, Repr

/-- An uncommitted step of the node (R60, R61): the count of its first seal, descriptors finished, digest sums (R456),
fleet traffic of its remote and collective work, and what the commit carries. -/
structure Step where
  tag : BitVec 64
  sealCnt : Option Nat := none
  finished : Nat := 0
  failed : Bool := false
  wdig : BitVec 64 := 0
  idig : BitVec 64 := 0
  sdig : BitVec 64 := 0
  updated : List Nat := []
  parts : List Partial := []
  nDesc : Nat := 0
  setups : List (Nat × Nat × BitVec 512) := []
  htod : Nat := 0
  pages : List Nat := []
  sentTo : List (BitVec 12) := []
  recvFrom : List (BitVec 12) := []
  marksSent : Bool := false
  doneSent : Bool := false
  checked : Bool := false
  stalled : Bool := false
  diverge : BitVec 6 := 0
  expTag : BitVec 64 := 0
  expDig : BitVec 256 := 0
  expBid : BitVec 64 := 0
  ckpts : List (DRef × Nat) := []
  drains : List Nat := []
  resume : Option LkImage := none
  /-- NaN events of this step after the first of the record (MORE of R106). -/
  nanMore : Nat := 0
  deriving DecidableEq, Repr

/-- A copy-on-write image (R468) or checkpoint hold (R490) of a 4 KiB page: the page's node address, its bytes by offset
(0 where unlisted), the stack whose slot it takes, and the ranges of the page whose bytes were open (`wsOpen`). -/
structure Image where
  tag : ImgTag
  page : Nat
  stack : Nat
  bytes : SM Byte
  free : List (Nat × Nat) := []
  deriving DecidableEq, Repr

/-! ## Tiles (chapters 04 to 06, 09) -/

/-- The chain of a tile register (R112, R131). -/
inductive Chain where
  | closed | cleared | loaded | fp32 | fp64 | wide (wa k : Nat)
  deriving DecidableEq, Repr

/-- A tile register's chain state: `pair` is set while the even register stands for a pair (R113). -/
structure ChainSt where
  c : Chain := .closed
  pair : Bool := false
  deriving DecidableEq, Repr

/-- A wide accumulator element (R114): its integer, its NaN bit, and the residue modulo 15 that its residue unit has formed (R141). -/
structure WElt where
  n : Int
  nan : Bool
  res : Nat
  deriving DecidableEq, Repr

/-- A transfer in flight (R315): source, destination (R145 words) and length. -/
structure Xfer where
  src : BitVec 64
  dst : BitVec 64
  len : Nat
  deriving DecidableEq, Repr

/-- A tile-core thread (R180): its general registers, the descriptor whose program it runs, whether the program has halted or
been stopped while transfers are in flight, and its transfers by slot (R315). -/
structure VThread where
  g : SM (BitVec 64) := []
  run : Option DRef := none
  pc : BitVec 64 := 0
  xfers : SM (Option Xfer) := []
  halted : Bool := false
  deriving DecidableEq, Repr

/-- A stream stopped by NaN watch (R105): unit, stream and thread, with the step of the trap (0 once it is committed). -/
structure Stopped where
  unit : Nat
  stream : Nat
  thread : Nat
  step : BitVec 64
  deriving DecidableEq, Repr

/-! ## Telltale recorder (chapter 19) -/

/-- A telltale record (R593); its CRC is computed when it is read. -/
structure TRec where
  code : Nat
  cls : Nat
  held : Bool
  unit : Nat
  rep : Nat
  dropped : Nat
  seq : BitVec 64
  beat : BitVec 64
  nsb : Nat
  arg : BitVec 32
  steptag : BitVec 64
  lifestep : BitVec 64
  lastbeat : BitVec 64
  snap : List (BitVec 32)
  deriving DecidableEq, Repr

/-- A NOISE code's rate window (R595): its start, the records written in it and the suppressed count. -/
structure NoiseWin where
  start : Nat := 0
  count : Nat := 0
  open_ : Bool := false
  dropped : Nat := 0
  deriving DecidableEq, Repr

/-- The recorder: the ring's records, newest last, at most 2,048 (R596); the freeze queue (R599); the SEQ numbers marked
for rewriting (R594); pending merges while frozen; the flush in progress with its target count; the rate windows; the MRAM
store, newest last, at most 32,768 (R597), and the next SEQ, both kept in MRAM. Its counts are registers. -/
structure Telltale where
  ring : List TRec := []
  queue : List TRec := []
  marked : List (BitVec 64) := []
  pendMerge : Nat := 0
  flush : Option (BitVec 32) := none
  noise : SM NoiseWin := []
  store : List TRec := []
  seq : BitVec 64 := 0
  deriving DecidableEq, Repr

/-! ## Unit ledger and maps (chapters 01, 16) -/

/-- A ledger entry (R510), with the recent happenings that the rules of R511 count: kind 0 an event, 1 an uncorrectable
storage record, 2 a correction or retry, 3 a margin failure, each at its lifetime step. -/
structure LedEnt where
  unit : UnitId
  source : BitVec 4
  cls : Nat
  role : Bool
  mapped : Bool
  events : Nat
  mprof : BitVec 8
  mres : Nat
  first : BitVec 64
  last : BitVec 64
  tag : BitVec 64
  hist : List (Nat × BitVec 64)
  deriving DecidableEq, Repr

/-! ## The part, its fuses and MRAM (chapters 01, 16, 18) -/

/-- What the package holds for good (fuses, the SPI NOR, the provisioning area) and what MRAM holds beside the telltale
store: the image slots, with a bit for one whose writing was cut short (R572), the two copies of the DeviceID certificate (none: a copy that fails), the device secret's fuse row (all ones once scrapped), the field map, the ledger
and the lifecycle rows. -/
structure Part where
  step : Nat
  grade : Nat
  romver : BitVec 32
  serial : BitVec 64
  uds : BitVec 256
  fuseMap : List (BitVec 128)
  mramMap : List (BitVec 128)
  rootHash : List (BitVec 384)
  revoked : BitVec 4
  mlHash : BitVec 384
  sigPol : Nat
  svn : Nat
  dbgHash : BitVec 384
  pwHash : BitVec 384
  lcRow0 : BitVec 8
  lcRow1 : BitVec 8
  imgA : Option FwImage
  imgB : Option FwImage
  imgCut : BitVec 2
  certA : Option (List Byte)
  certB : Option (List Byte)
  nodeIdA : Option (BitVec 12)
  nodeIdB : Option (BitVec 12)
  ledger : List LedEnt
  deriving DecidableEq, Repr

/-! ## Ports (chapter 10) -/

/-- Port states, in the coding of FAB_PSTAT (R625). -/
inductive PState where
  | disabled | standby | training | up | down
  deriving DecidableEq, Repr

/-- One shroud port: its state, generation, width, failed lanes and delay (FAB_PSTAT); equalisations failed at the present generation
(R324) and the stored equaliser coefficients of each lane (R327); the link layer's sequence numbers and its retry buffer with how often
each flit was replayed (R331, R343); the credits it holds toward its partner for each virtual channel (R334); packets received and not yet
moved on, credits to return by channel, and whether an acknowledgement or NAK is due (R331, R334); what each weighted channel sent while
others waited (R334); the times of uncorrectable codewords (R343); the coefficients that a running fast retrain started from; whether the
port is in standby because the node is Furled (R351). -/
structure Port where
  st : PState := .disabled
  gen : Nat := 0
  width : Nat := 0
  fail : BitVec 8 := 0
  delay : Nat := 0
  eqFails : Nat := 0
  coefs : List Nat := []
  txSeq : Nat := 0
  rxSeq : Nat := 0
  retry : List (Flit × Nat) := []
  credits : SM Nat := []
  rx : List Packet := []
  due : SM Nat := []
  ackDue : Bool := false
  nakDue : Bool := false
  served : SM Nat := []
  uncor : List Nat := []
  fast : Option (List Nat) := none
  furled : Bool := false
  deriving DecidableEq, Repr

/-! ## Remote memory (chapter 11) -/

/-- Who issued a remote operation: a Spar-core thread or a tile-core thread, with the descriptor it works for. -/
inductive Issuer where
  | spar (core thr : Nat)
  | tile (tile thread : Nat)
  deriving DecidableEq, Repr

/-- An operation in flight at its source (R363, R381): its request, who issued it, where its result goes (a register, a
vector register, or a local address), its remote address, whether its timer is suspended (R346), whether its thread waits for
it (R361), whether it was deferred and not sent again (R373), and the word and PC of its instruction. -/
structure ROp where
  req : Request
  by_ : Issuer
  desc : DRef
  vec : Bool
  local_ : Option (BitVec 64)
  reg : Nat
  rem : BitVec 64
  suspended : Bool
  waits : Bool
  deferred : Bool
  instr : Nat
  pc : Nat
  deriving DecidableEq, Repr

/-- A dead or failed write that its thread has not yet been told of (R378): the thread, cause and remote address. -/
structure DeadOp where
  by_ : Issuer
  desc : DRef
  cause : Nat
  rem : BitVec 64
  deriving DecidableEq, Repr

/-- What a target keeps for a source (R363): C, the SEQs applied above it, the C last acknowledged, and the FP atomics whose
NaN the next ACK reports (SEQ, cause). -/
structure SrcRec where
  c : Nat := 0
  above : List Nat := []
  acked : Nat := 0
  nans : List (Nat × Nat) := []
  deriving DecidableEq, Repr

/-- An operation waiting at the atomic unit of a stack (R371 to R373): its translated address, the address of an RFST's flag
word, the requests it answers (more than one after a merge), whether one of them was deferred before, the sectors of its data not yet
applied, and what a load has read, by sector. -/
structure TOp where
  stack : Nat
  addr : Nat
  faddr : Nat
  req : Request
  merged : List Request
  deferred : Bool
  left : List Nat
  read : List (Nat × List Byte)
  deriving DecidableEq, Repr

/-- A combiner entry (R375): its fabric die, the translated address and the operations merged so far. -/
structure CombEnt where
  fd : Nat
  addr : Nat
  req : Request
  merged : List Request
  deriving DecidableEq, Repr

/-- The remote-memory state: next SEQ per target, operations in flight and dead, what the target side keeps per source,
waiting and buffered sectors, deferred sequences (source, sector, SEQ) in order of first deferral, the combiner, and the
round-robin position of each sector. -/
structure Remote where
  seq : SM Nat := []
  ops : List ROp := []
  dead : List DeadOp := []
  src : SM SrcRec := []
  wait : List TOp := []
  bufs : List (Nat × Nat) := []
  defers : List (Nat × Nat × Nat) := []
  comb : List CombEnt := []
  rr : SM Nat := []
  deriving DecidableEq, Repr

/-! ## Collectives (chapter 12) -/

/-- One chunk of an open operation on this node: the tiles whose handoffs it has taken (R400), how many contributions of the
node were consumed, the node's own terms of an exact sum by tile, the staging slot of the value held, the accumulating value,
terms arrived and not yet reduced, in arrival order (rank, stage, slot, bytes), the sums that homes have begun (by stage: terms added, slot,
value; R410), (rank, stage) of the terms reduced, whether the node's partial
has left or become the final value here, the final value, whether the result was written, the ranks it was forwarded to, and
whether nothing of the chunk is left to do here. Data is in the partial format. -/
structure Chunk where
  taken : List Nat := []
  owns : Nat := 0
  own : List (Nat × List Byte) := []
  slot : Option Nat := none
  acc : Option (List Byte) := none
  terms : List (Nat × Nat × Nat × List Byte) := []
  sums : SM (Nat × Nat × List Byte) := []
  got : List (Nat × Nat) := []
  up : Bool := false
  final : Option (List Byte) := none
  written : Bool := false
  sent : List Nat := []
  fin : Bool := false
  deriving DecidableEq, Repr

/-- An open operation (R397): its descriptor and the descriptor's words, (group, s), its step, the node's rank, the members as
listed and as resolved (R390), the group's tile mask, chunk size and slots, the digests, the mode and plan it opened in,
whether a NaN was written under NaN watch, its chunks (a chunk that is not listed is untouched), the lowest chunk that is
not finished, and the grants given and not yet used (rank, chunk, stage, slot). -/
structure CollOp where
  desc : DRef
  raw : BitVec 512
  group : Nat
  seq : Nat
  step : BitVec 64
  rank : Nat
  ents : List (BitVec 32)
  nodes : List (BitVec 12)
  mask : Nat
  chunkLog : Nat
  slots : Nat
  gdig : BitVec 64
  pdig : BitVec 64
  exact : Bool
  plan : Nat
  trap : Bool
  chunks : SM Chunk
  base : Nat
  given : List (Nat × Nat × Nat × Nat)
  deriving DecidableEq, Repr

/-- A handoff that the collective has not consumed (R400, R402), with the register that it keeps busy until its element program has run
(R150, R407): the program as it was copied at issue (R158), header and words, with its vectors and what its engine's checkers will find;
`op` is the sequence number of the operation it matched; `ran` and `data` say that its output is in the reservation. -/
structure Handoff where
  tile : Nat
  thread : Nat
  core : Nat
  tr : Nat
  pair : Bool
  desc : DRef
  group : Nat
  chunk : Nat
  step : BitVec 64
  head : Nat
  ops : List Nat
  gv : Nat
  ev : List HwEv
  ran : Bool
  data : List Byte
  op : Option Nat
  deriving DecidableEq, Repr

/-- A grant held from another member (R405). -/
structure Grant where
  group : Nat
  seq : Nat
  chunk : Nat
  stage : Nat
  src : BitVec 12
  slot : Nat
  gdig : BitVec 64
  pdig : BitVec 64
  deriving DecidableEq, Repr

/-- An operation that closed with COLL_MISMATCH: its digests, and the nodes that were told of them (R397). -/
structure Mism where
  group : Nat
  seq : Nat
  step : BitVec 64
  gdig : BitVec 64
  pdig : BitVec 64
  told : List (BitVec 12)
  deriving DecidableEq, Repr

/-- A part of a chunk received and not yet complete (R409). -/
structure RxPart where
  group : Nat
  seq : Nat
  chunk : Nat
  src : BitVec 12
  stage : Nat
  part : Nat
  last : Bool
  data : List Byte
  deriving DecidableEq, Repr

/-- The collective state: open operations oldest first, COLLs that wait to open, handoffs not yet consumed, parts received,
grants held (R405), markers received (step, node), and operations that closed with COLL_MISMATCH. -/
structure Coll where
  ops : List CollOp := []
  queue : List DRef := []
  hands : List Handoff := []
  rx : List RxPart := []
  grants : List Grant := []
  markers : List (BitVec 64 × BitVec 12) := []
  mism : List Mism := []
  deriving DecidableEq, Repr

/-! ## Spar cores (chapter 07) -/

/-- What a Spar-core thread waits for: nothing, the answer to a fabric operation, or the return of another access
that its L1 does not complete (R220). -/
inductive SWait where
  | none_ | remote | access
  deriving DecidableEq, Repr

/-- A hardware thread of a Spar core (R218): its registers, fault registers and program counter, the descriptor it runs,
its thread index in that SPAR_RUN, and the handles of its children. -/
structure SparThr where
  run : Option DRef := none
  halted : Bool := false
  tidx : Nat := 0
  pc : BitVec 64 := 0
  i : SM (BitVec 64) := []
  f : SM (BitVec 64) := []
  z : SM (BitVec 4096) := []
  w : SM (BitVec 512) := []
  vspan : Nat := 512
  vri : Nat := 0
  fpc : BitVec 64 := 0
  fvec : BitVec 64 := 0
  fret : BitVec 64 := 0
  fcode : Nat := 0
  fdata : BitVec 64 := 0
  fspan : Nat := 0
  fvri : Nat := 0
  inh : Bool := false
  wait : SWait := .none_
  deriving DecidableEq, Repr

/-- A child descriptor's handle (R248 to R251): the child's number, the handle 0 to 63 by which the thread that owns it names
it, the parent, and its outcome. -/
structure Handle where
  num : Nat
  idx : Nat
  owner : Nat
  parent : DRef
  result : Option (BitVec 16 × BitVec 32)
  deriving DecidableEq, Repr

/-- A line of the caches with bytes not yet in node memory: its dirty bytes by offset, and the threads that wrote them. -/
structure CLine where
  bytes : SM Byte := []
  writers : List Nat := []
  deriving DecidableEq, Repr

/-! ## Factor engines (chapter 08) -/

/-- A factor engine's running descriptor with the beat count at its start and its DLBEATS. -/
structure Engine where
  run : Option DRef := none
  start : BitVec 64 := 0
  deadline : Nat := 0
  deriving DecidableEq, Repr

/-! ## Reset and power (chapter 17) -/

/-- A block under BLOCK reset (R537): its ID and whether it is isolated. -/
structure Blk where
  id : Nat
  isolated : Bool
  deriving DecidableEq, Repr

/-- Reset and power conditions that no register shows: PERST_N and RESET_N low, a boot or WARM restart under way and whether
it is WARM or COLD, the cause counts that boot step 1 owes (index, class), whether the locker module is usable (R486),
the masthead's node ID as the last fleet map gave it, the rows of R308 and R552 that tiles are in (stack n at n, junction n at
32 + n), the count of field map entries that the last boot applied, VIN or VAUX below their levels, blocks under reset, the relay hold, a READY that waits for Brace to end (R561), the
power limiter's level, the processor die's junction level, THERMTRIP_N, whether FREF has stopped, a D3hot entry under way,
whether VAUX is below its level, and the power limiter's last 1 ms average. -/
structure Power where
  perstLow : Bool := false
  resetLow : Bool := false
  booting : Bool := true
  warm : Bool := false
  supplyLow : Bool := false
  vbakLost : Bool := false
  blks : List Blk := []
  relayHold : Bool := false
  readyDue : Bool := false
  limiter : Nat := 0
  pdLevel : Nat := 0
  fdHot : BitVec 2 := 0
  thermtrip : Bool := false
  frefLost : Bool := false
  d3 : Bool := false
  d3Held : Bool := false
  /-- A JOB reset is in progress on this node (R533, R562). -/
  jobBusy : Bool := false
  /-- The JOB reset of the fleet is not complete yet (R533). -/
  jobRequested : Bool := false
  causes : List (Nat × Nat) := []
  cold : Bool := true
  lockerOk : Bool := true
  mast : Nat := 0
  levels : SM Nat := []
  mapApplied : Nat := 0
  /-- The map is damaged (R24, R29): the node refuses job assignment. -/
  mapDamaged : Bool := false
  /-- READY is clear since a D3hot to D0 transition: BAR0 reads outside GLB and RST return all-ones (R557). -/
  d0Wait : Bool := false
  vauxOff : Bool := false
  avgW : Option Nat := none
  deriving DecidableEq, Repr

/-! ## Recovery (chapter 15) -/

/-- A trail that this node owes a buddy (R474): its step, the buddy ordinal, the pages and the record still to be secured,
and whether it is a full trail (R481). -/
structure Trail where
  tag : BitVec 64
  buddy : Nat
  bytes : Nat
  full : Bool
  deriving DecidableEq, Repr

/-- A trail that this node receives (R476): owner rank and step, parts held (page, part, bytes), pages that failed their CRC
and wait for a resend, whether the record has come, and the last trail of that rank secured here. -/
structure TrailRx where
  rank : Nat
  tag : BitVec 64
  parts : List (Nat × Nat × List Byte)
  bad : List Nat
  regs : Bool
  secured : Bool
  deriving DecidableEq, Repr

/-- A locker checkpoint being written (R489): generation, class, slot, the step it holds with its step count and digest; the
locker's present command (1 zero record, 2 data unit, 3 segment table, 4 first Flush, 5 commit record, 6 last Flush), the next
page in segment order, the bytes written so far by offset in the slot, the pages on the locker, the page of the present unit
(none: the register-state record), retries of the present command, whether DIGEST agreement is still awaited (R438), whether
writing is paused (R495), whether the next command waits for one of the two, the register state held, and the node pages that the PRPs of the
outstanding command name (R485). -/
structure CkptRun where
  gen : Nat
  cls : Nat
  slot : Nat
  tag : BitVec 64
  stepCnt : BitVec 64
  sdig : BitVec 256
  phase : Nat
  seq : Nat
  data : SM Byte
  written : List Nat
  cur : Option Nat
  retries : Nat
  needDig : Bool
  paused : Bool
  held : Bool
  regs : RegState
  prps : List Nat := []
  deriving DecidableEq, Repr

/-- The masthead's duties (R70, R472, R480, R489, R533): step-dones held (index, rank, tag, drain mark), BID hashes reported
by spares (by index) and by ranks, the rank of each index, ranks marked to drain and ranks lost, spares bound to ranks (rank,
index), the conditions of R482 and R483, AFTERTAKE's checkpoint due, whether a fleet checkpoint is unfinished and its
done-reports, those of a JOB reset and of FURL, the commit being broadcast, the marks of the last commit broadcast, and targets that the
masthead itself found dead (R379). -/
structure Mast where
  dones : List (Nat × Nat × BitVec 64 × Bool) := []
  bids : SM (BitVec 64) := []
  rankBid : SM (BitVec 64) := []
  ranks : SM Nat := []
  drains : List Nat := []
  lostRanks : List Nat := []
  bound : List (Nat × Nat) := []
  unsecured : Bool := false
  noSpare : Bool := false
  aftertake : Bool := false
  ckptOpen : Bool := false
  ckptDone : List Nat := []
  jobDone : List Nat := []
  furled : List Nat := []
  committing : Option (BitVec 64) := none
  marks : List Nat := []
  deadSeen : List (BitVec 12) := []
  deriving DecidableEq, Repr

/-- Recovery conditions of the node: it waits for GO, it has reported itself lost (R306), its relay is lost (R76), a
takeover binds it as a spare, mirror pages marked stale (R304), buddies under rebuild, the masthead's partition values
(R467) and outbound windows (R72) as told, crew-window reads not yet answered (index, offset; R75), the last commit was a drain of this node, pages that wait for a buddy's copy
(R303), the classes of the checkpoints deferred (R438), the digest comparisons under way by group and step and the records held for those and
for steps still to commit here (R526), the BID hash that a spare last reported (R480). -/
structure Recov where
  waitGo : Bool := false
  selfLost : Bool := false
  relayLost : Bool := false
  haltFetch : Bool := false
  takenOver : Bool := false
  stale : List Nat := []
  rebuild : List Nat := []
  secured : SM (BitVec 64) := []
  mastPart : Option (BitVec 64 × BitVec 16) := none
  mastWins : Option (List (BitVec 64 × BitVec 64)) := none
  cwReads : List (Nat × Nat) := []
  drained : Bool := false
  needPages : List Nat := []
  deferCkpt : List Nat := []
  digGroups : List (Nat × BitVec 64) := []
  digRecs : List DigRec := []
  bidSent : Option (BitVec 64) := none
  deriving DecidableEq, Repr

/-! ## Security (chapter 18) -/

/-- The security engine: the open challenge record (R580), whether a reset ended one (R587), the scope that a signed response
has authorised (0 none), whether debug is open, the running image, whether the WARM reset under way opens debug (R583), how far
SPDM has negotiated and its transcript, bounded controls already reported (R584), and the mailbox command that runs (0 none). -/
structure Sec where
  challenge : Option (BitVec 1024) := none
  endedByReset : Bool := false
  auth : Nat := 0
  debug : Bool := false
  running : Option FwImage := none
  sealPend : Bool := false
  spdmVer : Bool := false
  spdmCaps : Bool := false
  spdmAlg : Bool := false
  transcript : List Byte := []
  boundSeen : List Nat := []
  pending : Nat := 0
  deriving DecidableEq, Repr

/-! ## The whole node -/

/-- The state of one node. `regs` is the home of every register field that is not a view, by 64-bit word number (offset
divided by 8), beside its reset word; `msix` is the MSI-X table by 64-bit word and `pba` its pending bits (R40); `heldVecs` holds vectors raised while the relay is lost (R76); `aerPoison` is AER's
Poisoned TLP Received bit (R38); `hostRate` is the highest host link rate in GT/s, 0 with the lanes off (R36, R543); `latch` holds the latched high halves of R614, by the offset of the low half; `closes` counts the chains that each matrix core has closed since the last JOB reset (R140), `passes` those
of each element engine (R175); `wsOpen` lists the ranges (first, end) of node
memory that a freed workspace left with open contents (R259). -/
structure State where
  pending : List Instr := []
  freeCtr : Nat := 0
  now : Nat := 0
  part : Part
  mapView : List (BitVec 128) := []
  regs : SM (BitVec 64) := []
  latch : List (Nat × BitVec 32) := []
  msix : SM (BitVec 64) := []
  pba : List Nat := []
  heldVecs : List Nat := []
  aerPoison : Bool := false
  hostRate : Nat := 0
  mem : List Host.Cell := []
  spad : List Host.Cell := []
  out : List Out := []
  sq : SM SqRing := []
  cq : SM CqRing := []
  descs : List InDesc := []
  recs : List Rec := []
  steps : List Step := []
  lastSeal : SM Nat := []
  stalledTags : List (BitVec 64) := []
  comm : RegState
  live : RegState
  trans : List (BitVec 64 × Trans) := []
  nanStep : BitVec 64 := 0
  stopped : List Stopped := []
  images : List Image := []
  vthr : SM VThread := []
  tr : SM (BitVec 32) := []
  wa : SM WElt := []
  chain : SM ChainSt := []
  closes : SM Nat := []
  passes : SM Nat := []
  spar : SM SparThr := []
  cline : SM CLine := []
  handles : List Handle := []
  nextHandle : Nat := 0
  nextChild : Nat := 0
  eng : SM Engine := []
  wsOpen : List (Nat × Nat) := []
  beatLast : Nat := 0
  flywheel : Nat := 0
  beatWait : List BeatPkt := []
  beatTaken : Nat := 0
  due : List Nat := []
  expDone : Bool := false
  logWr : Nat := 0
  logQ : List (BitVec 1024) := []
  setups : List (BitVec 64 × Nat × Nat × BitVec 512) := []
  ports : SM Port := []
  portQ : List Packet := []
  remote : Remote := {}
  coll : Coll := {}
  trails : List Trail := []
  trailRx : List TrailRx := []
  ckpt : Option CkptRun := none
  mh : Mast := {}
  rec_ : Recov := {}
  parity : SM (List Nat) := []
  temps : Temps := ⟨[], [], 0, 0, 0⟩
  tt : Telltale := {}
  pw : Power := {}
  sec : Sec := {}
  alertCause : BitVec 16 := 0
  alertMask : BitVec 16 := 0x1F
  smbAddr : Nat := 0x5F
  deriving DecidableEq, Repr

/-! ## Reset -/

/-- The committed register state after a JOB or broader reset (R563). -/
def RegState.reset : RegState :=
  ⟨[], [], 0, [], [], [], 0, [], 0, [], 0, 0, 0⟩

/-- The firmware image in SPI NOR slot A: a manifest that passes R568 under the root key of `Part.factory`, and an empty
body. DESIGN CHOICE: the manual gives no contents of the SPI NOR. -/
def FwImage.factory : FwImage where
  manifest := BitVec.ofNat 65536 0xdfffcc37e848f5a2678df701d556c363dfa92d0e572628895aed4d450bc5eb5c53b9fab4088f3bb888508b0925ebbd693dd5f79dbcc724dc47347fb693ab15a75a53bbdeef2662d9804c856e70a97975f305fb3c269cea66a182facb6f4d684e35bd06ef8e5319953291d0e2cb77c62a1cc4f32de14bae05699b77570c2b40d9a82334df92e42603f08293b4b8e74d1dbe96593130c6bb020821de4d34fdf1439155b2206565436b8a28a9adbbe49db98c5cc2c253f98bd3038f60cc37a2474e000000000000000000000000000000000000000000000000000000000000000000000000000000000000000000000000000000000000010c5bb99848f1d21ad5fb656fe7bfde4e27dae1f663bfc70c4c4307be1411b7fd216ae3b1b17e32d94c3896ac51a760b038000000000000000100000000000000010001000156584d46
  body := []

/-- The part of the model: stepping C0, grade -24, in FIELD, with full class, no map entry, and one root key. DESIGN CHOICE:
the manual fixes none of these values. -/
def Part.factory : Part where
  step := 2
  grade := 24
  romver := 1
  serial := 1
  uds := 1
  fuseMap := []
  mramMap := []
  rootHash := [BitVec.ofNat 384 0xe9f9ab7ac62f3152e784565c80bd77b6c5847401a5629ca2fa7506d4d2f32564ff5737f95d804f079a281641ad707ff6, 0, 0, 0]
  revoked := 0
  mlHash := 0
  sigPol := 0
  svn := 0
  dbgHash := 0
  pwHash := 0
  lcRow0 := 0x07
  lcRow1 := 0x07
  imgA := some FwImage.factory
  imgB := none
  imgCut := 0
  certA := some []
  certB := some []
  nodeIdA := none
  nodeIdB := none
  ledger := []

/-- The machine right after a COLD reset, with its supplies valid and before the boot of R546. -/
def State.reset : State where
  part := Part.factory
  comm := RegState.reset
  live := RegState.reset
  pw := { causes := [(0, 0)] }

end Sys2Proof.Machine
end

