-- ==== Sys2Proof/Machine/Regs.lean ====
section
/-! DEFINITION. Reading registers: the stored words, the fields the meanings use by name, the map class and bit identity,
and the views that BAR0 computes (R613 to R636). -/

namespace Sys2Proof.Machine
open Sys2Proof.Reg

/-! ## Stored words -/

/-- The stored word at an 8-byte-aligned offset. -/
def State.word (s : State) (off : Nat) : BitVec 64 := SM.getD (resetWord (off / 8 * 8)) s.regs (off / 8)

/-- The state with a stored word replaced; a word equal to its reset word is not listed. -/
def State.setWord (s : State) (off : Nat) (v : BitVec 64) : State :=
  { s with regs := SM.setD (resetWord (off / 8 * 8)) s.regs (off / 8) v }

/-- A stored field. -/
def State.fld (s : State) (f : Fld) : Nat := getBits (s.word f.off).toNat f.lo f.w

/-- The state with a stored field replaced. -/
def State.setFld (s : State) (f : Fld) (v : Nat) : State :=
  s.setWord f.off (BitVec.ofNat 64 (putBits (s.word f.off).toNat f.lo f.w v))

/-- A stored bit. -/
def State.flag (s : State) (f : Fld) : Bool := s.fld f ≠ 0

/-- A field one higher, saturating. -/
def State.incFld (s : State) (f : Fld) : State := s.setFld f (satInc f.w (s.fld f))

/-- A field higher by `n`, saturating. -/
def State.addFld (s : State) (f : Fld) (n : Nat) : State := s.setFld f (min (s.fld f + n) (2 ^ f.w - 1))

/-! ## Fields by name -/

def fREADY : Fld := ⟨0x10, 0, 1⟩
def fRECOVERY : Fld := ⟨0x10, 1, 1⟩
def fNOFW : Fld := ⟨0x10, 2, 1⟩
def fIMAGE : Fld := ⟨0x10, 4, 2⟩
def fMAPBAD : Fld := ⟨0x18, 0, 1⟩
def fDEGRADED : Fld := ⟨0x18, 1, 1⟩
def fMAPSEL : Fld := ⟨0x30, 0, 11⟩
def fSqCfg (r : Nat) : Nat := 0x10000 + 8 * r
def fCqCfg (c : Nat) : Nat := 0x10200 + 8 * c
def fPTRBASE : Fld := ⟨0x10600, 12, 52⟩
def fEPOCH : Fld := ⟨0x10608, 0, 32⟩
def fCSTALL : Fld := ⟨0x10610, 0, 13⟩
def fRLYTO : Fld := ⟨0x10618, 0, 11⟩
def fDBDROP : Fld := ⟨0x10620, 0, 32⟩
def fOVER : Fld := ⟨0x10628, 0, 1⟩
def fLEFTOUT : Fld := ⟨0x10628, 1, 1⟩
def fINDEX : Fld := ⟨0x10628, 8, 6⟩
def fROLE : Fld := ⟨0x10628, 16, 2⟩
def fFleet (n : Nat) : Fld := ⟨0x10A00 + 8 * n, 0, 12⟩
def fNODEID : Fld := ⟨0x20000, 0, 12⟩
def fJOBSTAMP : Fld := ⟨0x20008, 0, 16⟩
def fBEATROLE : Fld := ⟨0x20028, 0, 2⟩
def fBEATMASK : Fld := ⟨0x20028, 16, 16⟩
def fDBEAT : Fld := ⟨0x20028, 32, 10⟩
def fCOMB : Fld := ⟨0x20030, 0, 1⟩
def fTDEAD : Fld := ⟨0x20038, 0, 11⟩
def fMAXGEN (p : Nat) : Fld := ⟨0x20018, 2 * p, 2⟩
def fFleetMap (n : Nat) : Fld := ⟨0x20200 + 8 * n, 0, 13⟩
def fDead (n : Nat) : Fld := ⟨0x20400 + n / 64 * 8, n % 64, 1⟩
def fRmcnt (k : Nat) : Fld := ⟨0x20600 + k / 2 * 8, k % 2 * 32, 32⟩
def fPcnt (p k : Nat) : Fld := ⟨0x21000 + 0x80 * p + k / 2 * 8, k % 2 * 32, 32⟩
def fRoute (g : Nat) : Fld := ⟨0x24000 + g / 4 * 8, g % 4 * 16, 16⟩
def fEXACT : Fld := ⟨0x30000, 0, 1⟩
def fPLAN : Fld := ⟨0x30008, 0, 16⟩
def fNANWATCH : Fld := ⟨0x30010, 0, 1⟩
def fFLEETSZ : Fld := ⟨0x30028, 0, 7⟩
def fSPREAD : Fld := ⟨0x30030, 0, 16⟩
def fSPLIT : Fld := ⟨0x30038, 0, 1⟩
def fRMODE : Fld := ⟨0x300C0, 0, 2⟩
def fLEVEL : Fld := ⟨0x300C0, 2, 1⟩
def fDETAIL : Fld := ⟨0x300C0, 3, 1⟩
def fHALT : Fld := ⟨0x300C0, 4, 1⟩
def fLOGBASE : Fld := ⟨0x300C8, 12, 52⟩
def fLOGEN : Fld := ⟨0x300D0, 0, 1⟩
def fLOGSIZE : Fld := ⟨0x300D0, 4, 4⟩
def fLOGHEAD : Fld := ⟨0x300D8, 0, 32⟩
def fEXPBASE : Fld := ⟨0x300E0, 12, 52⟩
def fDETTAG : Fld := ⟨0x300E8, 0, 64⟩
def fDIVCAUSE : Fld := ⟨0x300F0, 0, 6⟩
def fDIVLATCH : Fld := ⟨0x300F0, 7, 1⟩
def fDIVTAG : Fld := ⟨0x300F8, 0, 64⟩
def fJOBLOCK : Fld := ⟨0x40008, 0, 1⟩
def fLOCKWR : Fld := ⟨0x40008, 1, 1⟩
def fBRACE : Fld := ⟨0x40008, 2, 1⟩
def fJOBDONE : Fld := ⟨0x40008, 3, 1⟩
def fVBAKLOST : Fld := ⟨0x40008, 4, 1⟩
def fDROPPED : Fld := ⟨0x40008, 5, 1⟩
def fBLKWR : Fld := ⟨0x40008, 6, 1⟩
def fBADWR : Fld := ⟨0x40008, 7, 1⟩
def fCAP : Fld := ⟨0x40028, 0, 3⟩
def fPLIMIT : Fld := ⟨0x40030, 0, 11⟩
def fPWRSTATE : Fld := ⟨0x40038, 4, 2⟩
def fSTRCOUNT : Fld := ⟨0x40040, 0, 6⟩
def fSTRCODE : Fld := ⟨0x40040, 8, 4⟩
def fSTRRAW : Fld := ⟨0x40040, 12, 4⟩
def fSTROPEN : Fld := ⟨0x40040, 16, 1⟩
def fSTRBAD : Fld := ⟨0x40040, 17, 1⟩
def fLASTIDX : Fld := ⟨0x40048, 0, 4⟩
def fLASTCLS : Fld := ⟨0x40048, 4, 3⟩
def fCause (n : Nat) : Fld := ⟨0x40080 + n / 2 * 8, n % 2 * 32, 32⟩
def fFCODE : Fld := ⟨0x50000, 0, 10⟩
def fFARG : Fld := ⟨0x50000, 32, 32⟩
def fOVERRUN : Fld := ⟨0x50008, 0, 16⟩
def fUNFLUSHED : Fld := ⟨0x50008, 16, 16⟩
def fFRZLOST : Fld := ⟨0x50008, 32, 16⟩
def fBADRD : Fld := ⟨0x50008, 48, 1⟩
def fFROZEN : Fld := ⟨0x50008, 49, 1⟩
def fFLUSHING : Fld := ⟨0x50008, 50, 1⟩
def fWRCNT : Fld := ⟨0x50010, 0, 32⟩
def fRDCNT : Fld := ⟨0x50018, 0, 32⟩
def fFLCNT : Fld := ⟨0x50020, 0, 32⟩
def fMWRCNT : Fld := ⟨0x50028, 0, 32⟩
def fTrigEn (c : Nat) : Fld := ⟨0x51000 + c / 2 * 8, c % 2 * 32, 1⟩
def fTrigList (c : Nat) : Fld := ⟨0x51000 + c / 2 * 8, c % 2 * 32 + 1, 6⟩
def fTrigRate (c : Nat) : Fld := ⟨0x51000 + c / 2 * 8, c % 2 * 32 + 8, 8⟩
def fMBSTAT : Fld := ⟨0x60028, 0, 3⟩
def fIMGA : Fld := ⟨0x60030, 0, 4⟩
def fIMGB : Fld := ⟨0x60030, 4, 4⟩
def fNOCERT : Fld := ⟨0x60038, 0, 1⟩
def fDBGLOCK : Fld := ⟨0x60038, 1, 1⟩
def fFAILS : Fld := ⟨0x60038, 4, 4⟩
def fBNDCNT : Fld := ⟨0x60040, 0, 32⟩
def fRANK : Fld := ⟨0x70000, 0, 12⟩
def fPART (g : Nat) : Fld := ⟨0x70008, 3 * g, 3⟩
def fCOWMASK : Fld := ⟨0x70010, 0, 16⟩
def fAFTERTAKE : Fld := ⟨0x70018, 0, 1⟩
def fSNAPFULL : Fld := ⟨0x70020, 0, 1⟩
def fREBUILD : Fld := ⟨0x70020, 1, 1⟩
def fUNSECURED : Fld := ⟨0x70020, 2, 1⟩
def fNOSPARE : Fld := ⟨0x70020, 3, 1⟩
def fBIDDIFF : Fld := ⟨0x70020, 4, 1⟩
def fLOCKERR : Fld := ⟨0x70020, 5, 1⟩
def fABANDON : Fld := ⟨0x70020, 6, 1⟩
def fNOLOCKER : Fld := ⟨0x70020, 7, 1⟩
def fGEN : Fld := ⟨0x70028, 0, 64⟩
def fTRAILHOLD : Fld := ⟨0x70040, 0, 32⟩
def fLKNSID : Fld := ⟨0x70048, 0, 32⟩
def fLKBASE : Fld := ⟨0x70050, 0, 64⟩
def fLKCOUNT : Fld := ⟨0x70058, 0, 64⟩
def fLKGEN (slot : Nat) : Fld := ⟨0x70060 + 8 * slot, 0, 64⟩
def fLKVALID (slot : Nat) : Fld := ⟨0x70070, slot, 1⟩
def fLKCOMPACT (slot : Nat) : Fld := ⟨0x70070, 2 + slot, 1⟩
def fBEATPER : Fld := ⟨0x80000, 0, 30⟩
def fBEATCNT : Fld := ⟨0x80008, 0, 64⟩
def fHOLD : Fld := ⟨0x80018, 0, 16⟩
def fBEATLOST : Fld := ⟨0x80020, 0, 1⟩
def fGLITCH : Fld := ⟨0x80028, 0, 32⟩
def fSKIP : Fld := ⟨0x80030, 0, 32⟩
def fLATE : Fld := ⟨0x80038, 0, 32⟩
def fFLAGGED : Fld := ⟨0x90000, 0, 1⟩
def fSUSPECT : Fld := ⟨0x90000, 1, 1⟩
def fDRAINED : Fld := ⟨0x90000, 2, 1⟩
def fLEDGERFULL : Fld := ⟨0x90000, 3, 1⟩
def fREPLACE : Fld := ⟨0x90000, 4, 1⟩
def fLIFESTEP : Fld := ⟨0x90008, 0, 64⟩
def fLOSTFULL : Fld := ⟨0x90018, 8, 1⟩
def fLOSTCOUNT : Fld := ⟨0x90018, 0, 7⟩
def fDIGMASK : Fld := ⟨0x90020, 0, 64⟩
def fDIGSTAT : Fld := ⟨0x90028, 0, 3⟩
def fBISTREP : Fld := ⟨0x90038, 0, 7⟩
def fBISTRET : Fld := ⟨0x90038, 8, 7⟩
def fBISTDONE : Fld := ⟨0x90038, 16, 1⟩
def fMPROF : Fld := ⟨0x90040, 0, 8⟩
def fMRES : Fld := ⟨0x90040, 8, 2⟩
def fMRUN : Fld := ⟨0x90040, 10, 1⟩
def fCOLLCRC : Fld := ⟨0x90048, 0, 32⟩
def fCOLLEPOCH : Fld := ⟨0x90048, 32, 32⟩
def fLEDSEL : Fld := ⟨0x90050, 0, 12⟩
def fLostPage (i : Nat) : Fld := ⟨0x91000 + 16 * i, 12, 27⟩
def fLostKind (i : Nat) : Fld := ⟨0x91000 + 16 * i, 40, 3⟩
def fLostValid (i : Nat) : Fld := ⟨0x91000 + 16 * i, 47, 1⟩
def fLostTag (i : Nat) : Fld := ⟨0x91008 + 16 * i, 0, 64⟩
def fWSBASE (e : Nat) : Fld := ⟨0xA0000 + 0x4000 * e, 12, 27⟩
def fWSLEN (e : Nat) : Fld := ⟨0xA0008 + 0x4000 * e, 12, 27⟩
def fSolCnt (e k : Nat) : Fld := ⟨0xA0040 + 0x4000 * e, 16 * k, 16⟩
def tilePage (t : Nat) : Nat := 0x100000 + 0x4000 * t
def fREQ (t : Nat) : Fld := ⟨tilePage t + 0x10, 0, 3⟩
def fFLOOR (t : Nat) : Fld := ⟨tilePage t + 0x10, 4, 3⟩
def fSRES (t : Nat) : Fld := ⟨tilePage t + 0x18, 0, 9⟩
def fMxChk (t c k : Nat) : Fld := ⟨tilePage t + 0x40 + 8 * c, 16 * k, 16⟩
def fEeChk (t k : Nat) : Fld := ⟨tilePage t + 0x60, 16 * k, 16⟩
def fPARFAIL (t : Nat) : Fld := ⟨tilePage t + 0x68, 0, 32⟩
def fPARRETRY (t : Nat) : Fld := ⟨tilePage t + 0x68, 32, 32⟩
def fDRAMCOR (t : Nat) : Fld := ⟨tilePage t + 0x70, 0, 32⟩
def fSPADCOR (t : Nat) : Fld := ⟨tilePage t + 0x70, 32, 32⟩
def fUNCORR (t : Nat) : Fld := ⟨tilePage t + 0x78, 0, 32⟩
def fBoundEn (i : Nat) : Fld := ⟨0x200000 + 16 * i, 0, 1⟩
def fBoundBase (i : Nat) : Fld := ⟨0x200000 + 16 * i, 12, 27⟩
def fBoundLimit (i : Nat) : Fld := ⟨0x200008 + 16 * i, 12, 27⟩

/-! ## Identity, map class and bit identity -/

/-- The lifecycle code: the lower of the two fuse rows (R577). -/
def State.lc (s : State) : Nat := min s.part.lcRow0.toNat s.part.lcRow1.toNat

/-- The part's arithmetic class (R9). -/
def State.aclass (s : State) : Nat := s.part.step + 1

/-- Fields of a map entry (R23). -/
def meKind (e : BitVec 128) : Nat := getBits e.toNat 0 8
def meDie (e : BitVec 128) : Nat := getBits e.toNat 8 3
def mePos (e : BitVec 128) : Nat := getBits e.toNat 11 3
def meUnit (e : BitVec 128) : Nat := getBits e.toNat 18 20
def meSpare (e : BitVec 128) : Nat := getBits e.toNat 38 20

/-- The merged disabled-unit map, fuse entries first (R26). -/
def Part.map (p : Part) : List (BitVec 128) := p.fuseMap ++ p.mramMap

/-- KIND values of R23; any other marks the map damaged (R24). -/
def kindOk (k : Nat) : Bool := (1 ≤ k && k ≤ 7) || k == 0x10 || k == 0x11 || k == 0x13

/-- The physical Spar cores that a map leaves usable, ascending (R28). -/
def sparUsable (m : List (BitVec 128)) : List Nat :=
  (List.range 52).filter (fun c => !m.any (fun e => meKind e == 6 && meUnit e == c))

/-- The logical number of a physical core: SC00 to SC47 go to the usable cores in ascending order (R28). -/
def sparLogical (m : List (BitVec 128)) (c : Nat) : Option Nat := ((sparUsable m).take 48).idxOf? c

/-- The indices in `l` that no entry of a kind and place uses as a spare or names as failed: the free spares. -/
def freeUnits (m : List (BitVec 128)) (k : Nat) (at_ : BitVec 128 → Bool) (l : List Nat) : List Nat :=
  l.filter (fun x => !m.any (fun e => meKind e == k && at_ e && (meSpare e == x || meUnit e == x)))

/-- The free jury slices of a matrix core, ascending (R19, R20). -/
def freeSlices (m : List (BitVec 128)) (die pos core : Nat) : List Nat :=
  freeUnits m 1 (fun e => meDie e == die && mePos e == pos && getBits e.toNat 16 2 == core) [64, 65, 66, 67]

/-- The free jury lanes of an element engine, ascending (R19). -/
def freeLanes (m : List (BitVec 128)) (die pos : Nat) : List Nat :=
  freeUnits m 2 (fun e => meDie e == die && mePos e == pos) ((List.range 16).map (· + 512))

/-- The class that a map leaves (R30, R31). -/
def classOf (m : List (BitVec 128)) : BitVec 128 :=
  let gone := fun (k n : Nat) => m.any (fun e => meKind e == k && meUnit e == n)
  BitVec.ofNat 128
    (maskOf ((List.range 32).filter (fun n => !gone 0x10 n))
      ||| maskOf ((List.range 4).filter (fun n => !gone 0x11 n)) <<< 32
      ||| (2 ^ min 48 (sparUsable m).length - 1) <<< 36
      ||| maskOf ((List.range 16).filter (fun n => !gone 0x13 n)) <<< 84)

/-- The map in force: the fuse entries and the field entries that the last boot applied (R26, R27). -/
def State.mapNow (s : State) : List (BitVec 128) := s.part.fuseMap ++ s.part.mramMap.take s.pw.mapApplied

/-- The node's own class, as published at the last boot. -/
def State.ownClass (s : State) : BitVec 128 := (s.word 0x28 ++ s.word 0x20 : BitVec 128)

/-- The imposed class of MODE_IMPOSE; all zeros is none. -/
def State.impose (s : State) : BitVec 128 := (s.word 0x30078 ++ s.word 0x30070 : BitVec 128)

/-- Whether a class is imposed. -/
def State.imposed (s : State) : Bool := s.impose ≠ 0

/-- The class in force (R34). -/
def State.cls (s : State) : BitVec 128 := if s.imposed then s.impose else s.ownClass

def State.tileOn (s : State) (t : Nat) : Bool := s.cls.getLsbD t
def State.engOn (s : State) (e : Nat) : Bool := s.cls.getLsbD (32 + e)
def State.coreOn (s : State) (c : Nat) : Bool := s.cls.getLsbD (36 + c)
def State.portOn (s : State) (p : Nat) : Bool := s.cls.getLsbD (84 + p)

/-- Fields of a firmware manifest (R566). -/
def FwImage.fwlevel (i : FwImage) : Nat := getBits i.manifest.toNat 48 16
def FwImage.svn (i : FwImage) : Nat := getBits i.manifest.toNat 64 32

/-- The bit-identity descriptor (R447). -/
def State.bid (s : State) : BitVec 256 :=
  BitVec.ofNat 256 (1 ||| s.aclass <<< 8 ||| s.fld fEXACT <<< 12 ||| (if s.imposed then 1 else 0) <<< 13
    ||| ((s.sec.running.map FwImage.fwlevel).getD 0) <<< 16
    ||| (if s.fld fEXACT = 1 then s.fld fPLAN else 0) <<< 32 ||| s.fld fFLEETSZ <<< 48 ||| s.cls.toNat <<< 128)

/-- The BID hash (R449), and with `fleet` the fleet BID hash of R446. -/
def State.bidHash (s : State) (fleet : Bool := false) : BitVec 64 :=
  let b := putBits s.bid.toNat 13 1 0
  let b := if fleet then b % 2 ^ 128 else b
  BitVec.ofNat 64 (leNat ((Sha.sha384 (leBytes 32 b)).take 8))

/-! ## Conditions that several chapters ask for -/

/-- Role codes of HIF_FLEETSTAT: 0 standalone, 1 masthead, 2 crew. -/
def State.role (s : State) : Nat := s.fld fROLE
def State.isCrew (s : State) : Bool := s.role = 2
def State.isMast (s : State) : Bool := s.role = 1
/-- A standalone node, or a masthead: the node that decides commits. -/
def State.decides (s : State) : Bool := s.role ≠ 2
/-- Whether the node holds a rank (R464). -/
def State.holdsRank (s : State) : Bool := s.fld fRANK ≠ 0xFFF
/-- Exact mode. -/
def State.exact (s : State) : Bool := s.flag fEXACT
/-- The fleet size class of the CFGSEL code (R543). -/
def State.largeClass (s : State) : Bool := s.fld fSTRCODE ∈ [8, 9, 10, 11]
/-- A step is uncommitted on the node. -/
def State.stepOpen (s : State) : Bool := !s.steps.isEmpty
/-- The oldest uncommitted tag, or the last committed one (R593). -/
def State.stepTag (s : State) : BitVec 64 := (s.steps.head?.map (·.tag)).getD s.comm.lastTag
/-- The kind of a group of node memory (R317). -/
def State.groupKind (s : State) (g : Nat) : Nat := s.fld (fPART (g % 16))
/-- The group of a node address (R291). -/
def groupOf (a : Nat) : Nat := getBits a 30 4
/-- The groups of a kind, rising. -/
def State.groupsOf (s : State) (k : Nat) : List Nat := (List.range 16).filter (fun g => s.groupKind g = k)
/-- The fleet size MODE_FLEETSZ. -/
def State.fleetSize (s : State) : Nat := s.fld fFLEETSZ
/-- The buddy count of a fleet size (R466). -/
def buddyCount (n : Nat) : Nat := if n ≤ 1 then 0 else if n ≤ 16 then 1 else 2
/-- The rank of buddy `i` of rank `r` in a fleet of `n` (R466). -/
def buddyRank (n r i : Nat) : Nat := if n = 0 then 0 else if i = 0 then (r + 1) % n else (r + (n + 1) / 2) % n
/-- The reef cap in force (R550). -/
def State.capInForce (s : State) : Nat :=
  max (max (s.fld fCAP) s.pw.limiter) (max (if s.flag fBRACE then 3 else 0) s.pw.pdLevel)
/-- The level a tile runs at (R309). -/
def State.tileLevel (s : State) (t : Nat) : Nat := max (s.fld (fREQ t)) (max s.capInForce (s.fld (fFLOOR t)))
/-- A tile at reef level 4 issues nothing more; under a cap of 4 the Spar cores and factor engines do not either (R7, R118). -/
def State.reefStop (s : State) (t : Nat) : Bool := decide (4 ≤ s.tileLevel t)
def State.capStop (s : State) : Bool := decide (4 ≤ s.capInForce)
/-- Where a sector lies: its stack, channel, bank and row, and the byte within the row (R292). -/
structure DramAt where
  stack : Nat
  ch : Nat
  bank : Nat
  row : Nat
  col : Nat
  deriving DecidableEq, Repr

/-- The stack that holds an address, and the address within it (R292). -/
def State.stackLocal (s : State) (a : Nat) : Nat × Nat :=
  if (s.fld fSPREAD).testBit (groupOf a) then
    let r := (getBits a 34 5) <<< 30 ||| getBits a 0 30
    let f := getBits r 18 5 ^^^ getBits r 23 5 ^^^ getBits r 28 5 ^^^ getBits r 33 2
    (getBits r 13 5 ^^^ f, groupOf a <<< 30 ||| getBits r 18 17 <<< 13 ||| getBits r 0 13)
  else (getBits a 34 5, getBits a 0 34)

def State.stackOf (s : State) (a : Nat) : Nat := (s.stackLocal a).1

/-- Channel, bank, row and byte of a stack-local address (R292). -/
def dramAt (stack l : Nat) : DramAt :=
  ⟨stack, getBits l 8 5 ^^^ getBits l 13 5 ^^^ getBits l 18 5 ^^^ getBits l 23 5 ^^^ getBits l 28 5 ^^^ getBits l 33 1,
    getBits l 13 5 ^^^ getBits l 23 5, getBits l 20 14, getBits l 18 2 <<< 8 ||| getBits l 0 8⟩

/-- map_address (R292). -/
def State.mapAddress (s : State) (a : Nat) : DramAt := dramAt (s.stackLocal a).1 (s.stackLocal a).2

/-- The bank of a tile's scratchpad that holds an offset, and the row of 32 bytes in it (R310). -/
def spadBank (o : Nat) : Nat := getBits o 5 6 ^^^ getBits o 11 6
def spadRow (o : Nat) : Nat := o / 2048

/-! ## Views -/

/-- The 32 bytes of a ledger entry (R510). -/
def LedEnt.raw (e : LedEnt) : Nat :=
  e.unit.toNat ||| e.source.toNat <<< 38 ||| e.cls <<< 42 ||| (if e.role then 1 else 0) <<< 44
    ||| (if e.mapped then 1 else 0) <<< 45 ||| e.events <<< 46 ||| e.mprof.toNat <<< 54 ||| e.mres <<< 62
    ||| e.first.toNat <<< 64 ||| e.last.toNat <<< 128 ||| e.tag.toNat <<< 192

/-- A telltale record as bytes, with its CRC (R593). -/
def TRec.bytes (r : TRec) : List Byte :=
  let h := r.code ||| r.cls <<< 10 ||| min 16 r.snap.length <<< 12 ||| (if r.held then 1 else 0) <<< 17
    ||| r.unit <<< 24 ||| r.rep <<< 32 ||| r.dropped <<< 48
  let hd := leBytes 8 h ++ leBytes 8 r.seq.toNat ++ leBytes 8 r.beat.toNat ++ leBytes 4 r.nsb ++ leBytes 4 r.arg.toNat
    ++ leBytes 8 r.steptag.toNat ++ leBytes 8 r.lifestep.toNat ++ leBytes 8 r.lastbeat.toNat ++ leBytes 4 0
  let sn := (List.range 16).flatMap (fun i => leBytes 4 (r.snap.getD i 0).toNat)
  hd ++ leBytes 4 (Sha.crc32 (hd ++ sn)) ++ sn

/-- The record at a free-running count of the ring or the store; none outside the written counts. -/
def State.ttRec (s : State) (mram : Bool) (n : Nat) : Option TRec :=
  let l := if mram then s.tt.store else s.tt.ring
  let w := if mram then s.fld fMWRCNT else s.fld fWRCNT
  let back := (w + 2 ^ 32 - n % 2 ^ 32) % 2 ^ 32
  if back = 0 ∨ l.length < back then none else l[l.length - back]?

/-- The word of TT_WIN at a byte offset of the window (R601's window). -/
def State.ttWin (s : State) (o : Nat) : BitVec 64 :=
  let sel := (s.word 0x50038).toNat
  match s.ttRec (sel.testBit 31) (sel % 2 ^ 31 + o / 128) with
  | some r => BitVec.ofNat 64 (leNat ((r.bytes.drop (o % 128)).take 8))
  | none => 0

/-- A port's status word FAB_PSTATn. -/
def Port.pstat (p : Port) : BitVec 64 :=
  let st := match p.st with
    | .disabled => 0 | .standby => 1 | .training => 2 | .up => 3 | .down => 4
  BitVec.ofNat 64 (st ||| p.gen <<< 3 ||| p.width <<< 5 ||| p.fail.toNat <<< 8 ||| (p.delay % 65536) <<< 16)

def State.port (s : State) (p : Nat) : Port := SM.getD {} s.ports p
def State.setPort (s : State) (p : Nat) (x : Port) : State := { s with ports := SM.setD {} s.ports p x }

/-- An engine's context words SOL_CTX0 to 5 (R633). -/
def solCtxWord (c : Option SolCtx) (k : Nat) : BitVec 64 :=
  match c with
  | none => 0
  | some c =>
    match k with
    | 0 => BitVec.ofNat 64 ((if c.resident then 1 else 0) ||| (if c.fvalid then 2 else 0) ||| c.bsc <<< 4 ||| c.nb <<< 24)
    | 1 => BitVec.ofNat 64 (c.colidx.length ||| c.fill.length <<< 32)
    | 2 => c.anorm
    | 3 => c.tau
    | 4 => c.dig
    | _ => c.pivtol

def emptySol : SolCtx := ⟨false, 0, 0, [], [], [], 0, false, 0, 0, 0, [], [], [], false⟩

/-- A word of the MSI-X table (R40): address, then data with the vector control's Mask bit 32. PRESUMED (log 35): PCI Express gives the
entry's layout and resets the Mask bit to 1. -/
def msixReset (k : Nat) : BitVec 64 := if k % 2 = 1 then BitVec.ofNat 64 (2 ^ 32) else 0
def State.msixWord (s : State) (k : Nat) : BitVec 64 := SM.getD (msixReset k) s.msix k
/-- A vector whose entry is masked. -/
def State.masked (s : State) (v : Nat) : Bool := (s.msixWord (2 * v + 1)).getLsbD 32

/-- Configuration requests are answered with Request Retry Status until boot step 7 (R36, R546). -/
def State.configRetry (s : State) : Bool := s.pw.booting && !s.pw.warm

/-- BAR0 reads outside GLB and RST return all-ones: in a WARM reset (R548), and after D3hot until READY (R557). -/
def State.shutRead (s : State) (o : Nat) : Bool :=
  ((s.pw.booting && s.pw.warm) || s.pw.d0Wait) && !(decide (o < 0x10000) || (decide (0x40000 ≤ o) && decide (o < 0x50000)))

/-- The word that a read of an 8-byte-aligned offset returns: a view where the map has one, otherwise the stored word
without its write-only fields. Reserved offsets read 0 (R613), and no read has a side effect (R615). -/
def State.regRead (s : State) (o : Nat) : BitVec 64 :=
  let raw := s.word o &&& ~~~ maskWhere (fun f => f.acc = .wo) o
  if o = 0x00 then BitVec.ofNat 64 (0x6432 ||| s.part.step <<< 16 ||| s.aclass <<< 20 ||| s.part.grade <<< 24 ||| s.part.romver.toNat <<< 32)
  else if o = 0x08 then s.part.serial
  else if o = 0x10 then raw ||| BitVec.ofNat 64 (s.lc <<< 8 ||| (if s.sec.debug && s.lc == 7 then 1 else 0) <<< 16)
  else if o = 0x40 ∨ o = 0x48 then
    BitVec.ofNat 64 (((s.mapView.getD (s.fld fMAPSEL) 0).toNat >>> (8 * (o - 0x40))) % 2 ^ 64)
  else if 0x10400 ≤ o ∧ o < 0x10600 then
    let q := SM.getD {} s.sq ((o - 0x10400) / 8)
    (q.retire ++ q.head : BitVec 64)
  else if 0x14000 ≤ o ∧ o < 0x1C000 then s.msixWord ((o - 0x14000) / 8)
  else if 0x1F000 ≤ o ∧ o < 0x1F100 then
    BitVec.ofNat 64 (maskOf ((List.range 64).filter (fun b => s.pba.contains ((o - 0x1F000) * 8 + b))))
  else if 0x20080 ≤ o ∧ o < 0x20100 then (s.port ((o - 0x20080) / 8)).pstat
  else if 0x30040 ≤ o ∧ o < 0x30060 then BitVec.ofNat 64 (s.bid.toNat >>> (8 * (o - 0x30040)))
  else if 0x30080 ≤ o ∧ o < 0x300A0 then BitVec.ofNat 64 (s.comm.nan.toNat >>> (8 * (o - 0x30080)))
  else if 0x300A0 ≤ o ∧ o < 0x300C0 then BitVec.ofNat 64 (s.comm.lastDig.toNat >>> (8 * (o - 0x300A0)))
  else if o = 0x40000 then BitVec.ofNat 64 (s.fld fJOBLOCK <<< 8)
  else if o = 0x40028 then BitVec.ofNat 64 (s.fld fCAP ||| s.capInForce <<< 8)
  else if o = 0x40050 then Config.freeWord s.freeCtr
  else if o = 0x50000 then BitVec.ofNat 64 (s.fld fFCODE ||| s.fld fFARG <<< 32)
  else if 0x58000 ≤ o ∧ o < 0x59000 then s.ttWin (o - 0x58000)
  else if o = 0x60038 then raw ||| BitVec.ofNat 64 (s.lc <<< 16 ||| (if s.sec.debug then 1 else 0) <<< 24)
  else if o = 0x60048 then BitVec.ofNat 64 (s.part.svn ||| ((s.sec.running.map FwImage.svn).getD 0) % 128 <<< 8)
  else if o = 0x70030 ∨ o = 0x70038 then
    BitVec.ofNat 64 ((s.trails.filter (fun t => t.buddy = (o - 0x70030) / 8)).foldl (fun n t => n + t.bytes) 0)
  else if o = 0x80010 then s.comm.stepCnt
  else if 0x81000 ≤ o ∧ o < 0x82000 then
    BitVec.ofNat 64 ((SM.getD 0 s.comm.sched ((o - 0x81000) / 16)).toNat >>> (8 * (o % 16)))
  else if 0x90060 ≤ o ∧ o < 0x90080 then
    match s.part.ledger[s.fld fLEDSEL]? with
    | some e => BitVec.ofNat 64 (e.raw >>> (8 * (o - 0x90060)))
    | none => 0
  else if 0xA0000 ≤ o ∧ o < 0xB0000 ∧ 0x10 ≤ o % 0x4000 ∧ o % 0x4000 < 0x40 then
    solCtxWord (some (SM.getD emptySol s.comm.sol ((o - 0xA0000) / 0x4000))) ((o % 0x4000 - 0x10) / 8)
  else if 0x100000 ≤ o ∧ o < 0x180000 ∧ o % 0x4000 = 0 then (SM.getD 0 s.comm.flags ((o - 0x100000) / 0x4000)).setWidth 64
  else if 0x100000 ≤ o ∧ o < 0x180000 ∧ o % 0x4000 = 8 then BitVec.ofNat 64 (SM.getD 0 s.comm.uf ((o - 0x100000) / 0x4000))
  else if 0x100000 ≤ o ∧ o < 0x180000 ∧ o % 0x4000 = 0x10 then
    raw ||| BitVec.ofNat 64 (s.tileLevel ((o - 0x100000) / 0x4000) <<< 8)
  else if 0x100000 ≤ o ∧ o < 0x180000 ∧ o % 0x4000 = 0x20 then
    let t := (o - 0x100000) / 0x4000
    let sens := (s.temps.stack.getD t [])
    BitVec.ofNat 64 (leNat ((List.range 4).map (fun k => BitVec.ofNat 8 (sens.getD k 0)))
      ||| (sens.foldl max 0) % 256 <<< 32 ||| (s.temps.tileJ.getD t 0) % 256 <<< 40)
  else if o = 0x200080 then BitVec.ofNat 64 (s.comm.spFlags.toNat <<< 4)
  else if o = 0x200088 then
    BitVec.ofNat 64 ((s.spar.filter (fun x => x.2.run.isSome)).length
      ||| ((List.range 48).filter s.coreOn).length <<< 16)
  else raw

end Sys2Proof.Machine
end

