-- ==== Sys2Proof/Machine/Ops.lean ====
section
/-! DEFINITION. The named operations that the meanings share: what the node sends, the telltale recorder, FAULT_N and the
unit ledger, node memory and scratchpads, descriptors and their records, digests, and failed checks. -/

namespace Sys2Proof.Machine

abbrev Res := Host.Outcome State Fault Refusal

/-! ## Sending -/

def State.emit (s : State) (o : Out) : State := { s with out := s.out ++ [o] }
def State.send (s : State) (p : Packet) : State := { s with portQ := s.portQ ++ [p] }

/-- The global node ID at a fleet index, as FAB_FLEETMAP gives it; a member knows its masthead also while the map is empty. -/
def State.nodeAt (s : State) (idx : Nat) : BitVec 12 :=
  let m := s.fld (fFleetMap idx)
  BitVec.ofNat 12 (if idx = 0 ∧ m = 0 then s.pw.mast else m)

/-- Sends a fleet message on VC7 (R73). DEDUCED (log 43): losses, BID hashes, bindings and the reports that a spare is ready, a node
furled, or a JOB reset, checkpoint or restoration done travel there too, as fleet control between masthead and members. -/
def State.fleetTo (s : State) (idx : Nat) (m : FleetMsg) : State :=
  s.send ⟨7, s.nodeAt idx, 0xFFFF, 32, .fleet m⟩

/-- The crew indices that HIF_FLEET lists in a masthead (R70). -/
def State.crew (s : State) : List Nat := if s.isMast then (List.range 64).filter (fun n => 0 < n && s.fld (fFleet n) ≠ 0) else []

/-- Sends a fleet message to every crew node listed in HIF_FLEET1 to 63, by global node ID. -/
def State.broadcast (s : State) (m : FleetMsg) : State :=
  s.crew.foldl (fun s n => s.send ⟨7, BitVec.ofNat 12 (s.fld (fFleet n)), 0xFFFF, 32, .fleet m⟩) s

/-- The node's own fleet index. -/
def State.myIdx (s : State) : Nat := s.fld fINDEX

/-- A message to the crew node at an index of HIF_FLEET (R71). -/
def State.toCrew (s : State) (n : Nat) (i : RelayItem) : State :=
  s.send ⟨7, BitVec.ofNat 12 (s.fld (fFleet n)), 0xFFFF, 32, .fleet (.relay i)⟩

/-- The endpoint sends the MSI-X message of a vector, or leaves it pending while its entry is masked (R40). -/
def State.sendMsix (s : State) (v : Nat) : State :=
  if s.masked v then { s with pba := if s.pba.contains v then s.pba else v :: s.pba }
  else s.emit (.msix v (s.msixWord (2 * v)).toNat ((s.msixWord (2 * v + 1)).toNat % 2 ^ 32))

/-- The pending vectors whose entries are unmasked now are sent. -/
def State.sendPending (s : State) : State :=
  (s.pba.filter (fun v => !s.masked v)).foldr (fun v s => State.sendMsix { s with pba := s.pba.erase v } v) s

/-- Raises a vector of the node's own index (R40); a crew node's goes through the relay (R71), and waits while that is lost (R76). -/
def State.vector (s : State) (v : Nat) : State :=
  if s.isCrew then
    if s.rec_.relayLost then { s with heldVecs := s.heldVecs ++ [v] }
    else s.fleetTo 0 (.relay (.vector (Fin.ofNat 64 s.myIdx) v))
  else s.sendMsix (s.myIdx * 32 + v)

/-- A posted host write (R63), relayed on a crew node. -/
def State.hostWrite (s : State) (addr : Nat) (bs : List Byte) : State :=
  if s.isCrew then s.fleetTo 0 (.relay (.write (Fin.ofNat 64 s.myIdx) addr bs.length (leNat bs)))
  else s.emit (.hostWrite addr bs)

/-- The node's outbound windows: the two words of each (Table: outbound window). -/
def State.windows (s : State) : List (BitVec 64 × BitVec 64) :=
  (List.range 16).map (fun i => (s.word (0x10C00 + 16 * i), s.word (0x10C08 + 16 * i)))

/-- Whether a host access lies in an enabled outbound window that allows it (R585). The masthead's windows bound a crew node's
requests (R72): the masthead tells them to its crew (log 46), and checks each relayed request itself. -/
def State.winOk (s : State) (wr : Bool) (addr len : Nat) : Bool :=
  let inWin := fun (w : BitVec 64 × BitVec 64) =>
    let a := w.1.toNat
    a.testBit 0 && a.testBit (if wr then 2 else 1) && decide (a >>> 12 ≤ addr >>> 12)
      && decide ((addr + (len - 1)) >>> 12 ≤ w.2.toNat >>> 12)
  if s.isCrew then (s.rec_.mastWins.getD []).any inWin else s.windows.any inWin

/-- The relay hold is in force on this node: at the masthead while its relay logic is under BLOCK reset (R539). -/
def State.held (s : State) : Bool := s.pw.relayHold || s.pw.blks.any (fun b => b.id = 0x40)

/-! ## Telltale recorder (R588 to R601) -/

/-- The record class of a trigger code (R589). -/
def codeClass (code : Nat) : Nat := if code < 0x100 then 0 else if code < 0x200 then 1 else 2

/-- The block of R618 that an offset belongs to is under BLOCK reset. -/
def State.blkOff (s : State) (o : Nat) : Bool :=
  s.pw.blks.any (fun b =>
    (decide (b.id < 0x20) && decide (tilePage b.id ≤ o) && decide (o < tilePage b.id + 0x4000))
    || (decide (0x20 ≤ b.id) && decide (b.id < 0x24) && decide (0xA0000 + 0x4000 * (b.id - 0x20) ≤ o)
        && decide (o < 0xA4000 + 0x4000 * (b.id - 0x20)))
    || (decide (0x30 ≤ b.id) && decide (b.id < 0x40) && decide (0x21000 + 0x80 * (b.id - 0x30) ≤ o)
        && decide (o < 0x21080 + 0x80 * (b.id - 0x30)))
    || (b.id == 0x41 && decide (0x70048 ≤ o) && decide (o < 0x70060)))

/-- One 32-bit snapshot read (R592). -/
def State.snapRead (s : State) (off : Nat) : BitVec 32 :=
  if s.pw.booting ∧ s.pw.warm ∧ 0x10000 ≤ off ∧ ¬ (0x40000 ≤ off ∧ off < 0x50000) then 0xFFFFFFFF
  else if s.blkOff off then 0xFFFFFFFF
  else
    let w := s.regRead (off / 8 * 8)
    if off % 8 = 4 then w.extractLsb' 32 32 else w.extractLsb' 0 32

/-- The snapshot words of a code's list (R591, R592). -/
def State.snapshot (s : State) (code : Nat) : List (BitVec 32) :=
  let l := s.fld (fTrigList code)
  (List.range 16).filterMap (fun k =>
    let w := getBits (s.word (0x52000 + 64 * l + k / 2 * 8)).toNat (k % 2 * 32) 32
    if w.testBit 0 then some (s.snapRead (getBits w 2 22 * 4)) else none)

/-- A new record with the next SEQ (R593). -/
def State.newRec (s : State) (code cls unit arg : Nat) (held : Bool) (dropped : Nat) : TRec × State :=
  let b := s.word 0x80008
  (⟨code, cls, held, unit, 0, dropped, s.tt.seq, b, min (s.now - s.beatLast) (2 ^ 32 - 1), BitVec.ofNat 32 arg,
    s.stepTag, s.word 0x90008, b, s.snapshot code⟩,
   { s with tt := { s.tt with seq := s.tt.seq + 1 } })

/-- The record enters the ring (R596). -/
def State.pushRec (s : State) (r : TRec) : State :=
  let w := s.fld fWRCNT
  let rd := s.fld fRDCNT
  let full := (w + 2 ^ 32 - rd) % 2 ^ 32 = 2048
  let lostFl := full && decide ((w + 2 ^ 32 - s.fld fFLCNT) % 2 ^ 32 = 2048)
  let s := if full then (s.setFld fRDCNT (rd + 1)).incFld fOVERRUN else s
  let s := if lostFl then (s.setFld fFLCNT (rd + 1)).incFld fUNFLUSHED else s
  let s := s.setFld fWRCNT (w + 1)
  let ring := s.tt.ring ++ [r]
  let s := { s with tt := { s.tt with ring := ring.drop (ring.length - 2048) } }
  if r.cls = 0 then s.vector 20 else s

/-- Starts a flush unless one runs (R597, R598). -/
def State.startFlush (s : State) : State :=
  if s.tt.flush.isSome then s
  else { s with tt := { s.tt with flush := some (BitVec.ofNat 32 (s.fld fWRCNT)) } }.setFld fFLUSHING 1

/-- A trigger fires; `manual` for FIRE and SNAPSHOT, which write a STATE record whatever the code (R590). -/
def State.fire (s : State) (code unit arg : Nat) (manual : Bool := false) : State :=
  let cls := if manual then 2 else codeClass code
  let frozen := s.flag fFROZEN
  if code ≥ 0x100 ∧ ¬ s.flag (fTrigEn code) then s
  else if cls = 0 then
    match s.tt.ring.getLast? with
    | some n =>
      if n.cls = 0 ∧ n.code = code ∧ n.unit = unit ∧ n.arg = BitVec.ofNat 32 arg then
        if frozen then { s with tt := { s.tt with pendMerge := s.tt.pendMerge + 1 } }
        else
          let n' := { n with rep := satInc 16 n.rep, lastbeat := s.word 0x80008 }
          { s with tt := { s.tt with ring := s.tt.ring.dropLast ++ [n'],
                                     marked := if n.seq ∈ s.tt.marked then s.tt.marked else s.tt.marked ++ [n.seq] } }
      else fresh s frozen
    | none => fresh s frozen
  else if cls = 1 then
    let w := SM.getD {} s.tt.noise code
    let w := if w.open_ ∧ s.now < w.start + 1000000000 then w else { start := s.now, count := 0, open_ := true, dropped := w.dropped }
    if frozen ∨ s.fld (fTrigRate code) ≤ w.count then
      { s with tt := { s.tt with noise := SM.setD {} s.tt.noise code { w with dropped := satInc 16 w.dropped } } }
    else
      let (r, s) := s.newRec code 1 unit arg false w.dropped
      { s with tt := { s.tt with noise := SM.setD {} s.tt.noise code { w with count := w.count + 1, dropped := 0 } } }.pushRec r
  else if frozen then held s
  else
    let (r, s) := s.newRec code 2 unit arg false 0
    s.pushRec r
where
  /-- A record that waits in the freeze queue (R599). -/
  held (s : State) : State :=
    if s.tt.queue.length < 32 then
      let (r, s) := s.newRec code (if manual then 2 else codeClass code) unit arg true 0
      { s with tt := { s.tt with queue := s.tt.queue ++ [r] } }
    else s.incFld fFRZLOST
  /-- A new FAULT record, which starts a flush (R597). -/
  fresh (s : State) (frozen : Bool) : State :=
    if frozen then (held s).startFlush
    else
      let (r, s) := s.newRec code 0 unit arg false 0
      (s.pushRec r).startFlush

/-! ## FAULT_N (R515, R651, R653) -/

/-- FAULT_N is asserted. -/
def State.faultN (s : State) : Bool :=
  s.flag fFLAGGED || s.flag fMAPBAD || s.flag fDEGRADED || s.flag fLOSTFULL || s.flag fREPLACE || s.flag fSTROPEN
    || s.flag fSTRBAD || s.flag fNOFW || s.flag fNOCERT

/-- Sets bits of ALERTCAUSE (R653). -/
def State.alert (s : State) (m : BitVec 16) : State := { s with alertCause := s.alertCause ||| m }

/-- After a change from `old`: an assertion of FAULT_N raises vector 21 (R40) and ALERTCAUSE bit 0. -/
def State.faultEdge (s old : State) : State :=
  if s.faultN ∧ ¬ old.faultN then (s.vector 21).alert 1 else s

/-- Sets a bit that holds FAULT_N. -/
def State.setFault (s : State) (f : Reg.Fld) : State := (s.setFld f 1).faultEdge s

/-! ## Unit ledger (R502 to R516) -/

def uKind (u : UnitId) : Nat := getBits u.toNat 0 8
def uDie (u : UnitId) : Nat := getBits u.toNat 8 3
def uPos (u : UnitId) : Nat := getBits u.toNat 11 3
def uCore (u : UnitId) : Nat := getBits u.toNat 16 2
def uIdx (u : UnitId) : Nat := getBits u.toNat 18 20

/-- The UNIT code of R593 for a ledger unit, where `m` is the map in force: a Spar core goes by its logical number (R28), and a
core that holds none by the node. PRESUMED for links: the processor die. -/
def unitCode (m : List (BitVec 128)) (u : UnitId) : Nat :=
  if uKind u = 6 then ((sparLogical m (uIdx u)).map (0x40 + ·)).getD 0xF0
  else if uKind u = 0x23 then 0x80 + uIdx u % 4
  else if uKind u = 0x24 then 0xA0 + uIdx u % 16
  else if uKind u = 7 then 0xC0
  else if 1 ≤ uDie u ∧ uDie u ≤ 4 then 8 * (uDie u - 1) + uPos u
  else 0xF0

/-- Entries the ledger area holds: two copies of 128 KiB, each with a CRC-32 (R510). -/
def ledgerCap : Nat := 4095

/-- The map entry that a failed unit gets, from the entries written so far (R19 to R23, R25, R28, Table: ledger unit kinds): ORIGIN 2
with the last committed tag for the unit ledger, ORIGIN 1 with tag 0 for BIST. A spare that fails itself is no longer free. A
jury slice or lane is taken only if that leaves one free slice or four free lanes; otherwise the tile is retired (R21, R22), as it is
by BIST for a bond, bank or row with no free spare (R518). DESIGN CHOICE (log 38): the lowest-numbered free spare of the group is
taken, where R28 gives the order for Spar cores only; the two spare banks of a channel are 32 and 33; data bond b belongs to channel
b / 128 and spare bond 4,096 + 4 c + i to channel c; outside BIST a bond, bank, row or wire with no free spare keeps SPARE 0xF_FFFF. -/
def repairEntry (m : List (BitVec 128)) (u : UnitId) (origin : Nat) (tag : BitVec 64) : BitVec 128 :=
  let mk := fun (k die pos core unit spare : Nat) =>
    BitVec.ofNat 128 (k ||| die <<< 8 ||| pos <<< 11 ||| origin <<< 14 ||| core <<< 16 ||| unit <<< 18 ||| spare <<< 38 ||| tag.toNat <<< 64)
  let retire := mk 0x10 (uDie u) (uPos u) 0 (8 * (uDie u - 1) + uPos u) 0xFFFFF
  let here := fun (e : BitVec 128) => meDie e == uDie u && mePos e == uPos u
  let other := fun (l : List Nat) => l.filter (· != uIdx u)
  let plain := fun (k : Nat) (l : List Nat) => match other l with
    | x :: _ => mk k (uDie u) (uPos u) 0 (uIdx u) x
    | [] => if origin = 1 then retire else mk k (uDie u) (uPos u) 0 (uIdx u) 0xFFFFF
  match uKind u with
  | 1 => match other (freeSlices m (uDie u) (uPos u) (uCore u)) with
    | x :: _ :: _ => mk 1 (uDie u) (uPos u) (uCore u) (uIdx u) x
    | _ => retire
  | 2 =>
    let l := other (freeLanes m (uDie u) (uPos u))
    if 4 < l.length then mk 2 (uDie u) (uPos u) 0 (uIdx u) (l.headD 0xFFFFF) else retire
  | 3 =>
    let ch := if uIdx u < 4096 then uIdx u / 128 else (uIdx u - 4096) / 4
    plain 3 (freeUnits m 3 here ((List.range 4).map (· + 4096 + 4 * ch)))
  | 4 => plain 4 (freeUnits m 4 here ((List.range 2).map (· + uIdx u / 64 * 64 + 32)))
  | 5 => plain 5 (freeUnits m 5 here ((List.range 4).map (· + uIdx u / 12292 * 12292 + 12288)))
  | 6 => mk 6 0 0 0 (uIdx u) ((other ((sparUsable m).drop 48)).headD 0xFFFFF)
  | 7 =>
    let b := uIdx u / 1056 * 1056
    let l := if uIdx u / 2112 < 24 then (List.range 32).map (· + b + 1024) else (List.range 16).map (· + b + 512)
    mk 7 0 0 0 (uIdx u) ((other (freeUnits m 7 (fun _ => true) l)).headD 0xFFFFF)
  | 0x23 => mk 0x11 (uDie u) 0 0 (uIdx u % 4) 0xFFFFF
  | 0x24 => mk 0x13 (uDie u) 0 0 (uIdx u % 16) 0xFFFFF
  | _ => retire

/-- Appends a field map entry; a full area sets MAPBAD (R29). -/
def State.addMap (s : State) (e : BitVec 128) : State :=
  if s.part.mramMap.length < 1024 then
    let s' := { s with part := { s.part with mramMap := s.part.mramMap ++ [e] } }
    if classOf s'.part.map = classOf s.part.map then s' else s'.setFld fREPLACE 1
  else
    let s' := if s.flag fMAPBAD then s else (s.setFld fMAPBAD 1).fire 0x004 0xF0 1
    s'.setFld fREPLACE 1

/-- A new ledger entry; a full ledger discards the oldest transient entry whose LAST lies more than 10^6 steps back, or takes none (R513). -/
def State.ledgerAdd (s : State) (e : LedEnt) : State :=
  let l := s.part.ledger
  let cand := l.filter (fun x => x.cls == 1 && decide (x.last.toNat + 1000000 < (s.word 0x90008).toNat))
  if l.length < ledgerCap then { s with part := { s.part with ledger := l ++ [e] } }
  else match cand.find? (fun x => cand.all (fun y => decide (x.last.toNat ≤ y.last.toNat))) with
    | some x => { s with part := { s.part with ledger := l.filter (fun y => y.unit ≠ x.unit) ++ [e] } }
    | none => (s.setFld fLEDGERFULL 1).setFld fREPLACE 1

/-- What the ledger makes of a happening (R502, R511): 0 an event, 1 an uncorrectable storage record, 2 a correction or retry, 3 a margin
failure. -/
def State.ledgerTake (s : State) (kind src : Nat) (u : UnitId) (role : Bool) : State :=
  let life := s.word 0x90008
  let l := s.part.ledger
  let tag := if s.stepOpen then s.stepTag else 0
  let recent := fun (h : Nat × BitVec 64) => decide (life.toNat ≤ h.2.toNat + 1000000)
  match l.find? (fun e => e.unit = u) with
  | some e =>
    if kind = 0 ∧ tag ≠ 0 ∧ e.tag = tag ∧ e.hist.any (fun h => h.1 == 0 && h.2 == life) then s
    else
      let n := fun k => (e.hist.filter (fun h => h.1 == k && recent h)).length
      let perm := e.cls = 2 ∨ (kind = 3 ∧ e.hist.any (fun h => h.1 == 0 || h.1 == 3)) ∨ (kind = 0 ∧ 1 ≤ n 0)
        ∨ (kind = 1 ∧ 1 ≤ n 1) ∨ (kind = 2 ∧ 16 ≤ n 2)
      let e' := { e with source := BitVec.ofNat 4 src, role := role, events := min 255 (e.events + 1), last := life, tag := tag,
                         cls := if perm then 2 else if e.cls = 1 ∧ kind = 2 then 1 else 0,
                         mapped := e.mapped || perm, hist := e.hist.filter (fun h => recent h || h.1 == 0 || h.1 == 3) ++ [(kind, life)] }
      let s' := { s with part := { s.part with ledger := l.map (fun x => if x.unit = u then e' else x) } }
      if perm ∧ ¬ e.mapped then s'.addMap (repairEntry s.part.map u 2 s.comm.lastTag) else s'
  | none => s.ledgerAdd ⟨u, BitVec.ofNat 4 src, 0, role, false, 1, 0, 0, life, life, tag, [(kind, life)]⟩

/-- The ledger takes a happening; what it sets may assert FAULT_N (R515). -/
def State.ledger (s : State) (kind src : Nat) (u : UnitId) (role : Bool) : State := (s.ledgerTake kind src u role).faultEdge s

/-- An event names units (R503 to R505): the ledger takes it, the units are suspect and the node is flagged, which raises
vector 21 once: with FAULT_N, or alone where FAULT_N stood already. -/
def State.event (s : State) (src : Nat) (us : List (UnitId × Bool)) : State :=
  let s := us.foldl (fun s u => s.ledger 0 src u.1 u.2) s
  match us with
  | [] => s
  | (u, _) :: _ =>
    let late := s.faultN && !s.flag fFLAGGED
    let s := (s.setFld fSUSPECT 1).setFault fFLAGGED
    let s := s.fire 0x003 (unitCode s.mapNow u) (uKind u ||| uIdx u <<< 8)
    if late then s.vector 21 else s

/-! ## Node memory (R291 to R321) -/

/-- Why an access does not complete. -/
inductive MErr where
  | range | area | lost | snapFull | wait | blkRst
  deriving DecidableEq, Repr

/-- The cause code of an access error, where `area` stands for the snapshot and mirror groups (R319): tiles and engines
report RANGE with their own code. -/
def MErr.cause (rangeCode areaCode : Nat) : MErr → Nat
  | .range => rangeCode | .area => areaCode | .lost => 0x0901 | .snapFull => 0x0F01 | .wait => 0 | .blkRst => 0x1101

/-- Addresses of node memory (R291). -/
def memSize : Nat := 2 ^ 39

/-- Whether an address lies in the workspace of a resident structure (R258). -/
def State.inWorkspace (s : State) (a : Nat) : Bool :=
  s.live.sol.any (fun p => p.2.resident && decide (s.fld (fWSBASE p.1) * 4096 ≤ a)
    && decide (a < (s.fld (fWSBASE p.1) + s.fld (fWSLEN p.1)) * 4096))

/-- One byte of node memory. -/
def State.rdByte (s : State) (a : Nat) : Byte :=
  if s.inWorkspace a ∨ s.wsOpen.any (fun r => decide (r.1 ≤ a) && decide (a < r.2)) then Config.wsByte s.freeCtr a else SM.getD 0 s.mem a

/-- Bytes of node memory, lowest address first. -/
def State.rdBytes (s : State) (a n : Nat) : List Byte := (List.range n).map (fun i => s.rdByte (a + i))

/-- Bytes into node memory, lowest address first, in canonical form. -/
def memWrite (m : List Host.Cell) : Nat → List Byte → List Host.Cell
  | _, [] => m
  | a, b :: bs => memWrite (SM.setD 0 m a b) (a + 1) bs

/-- The canonical form of a memory: addresses strictly rising, no byte equal to the 0 that an unlisted address reads as. -/
abbrev Memory.wf (m : List Host.Cell) : Prop := SM.Canon (fun _ => (0 : Byte)) m

/-- The groups that the job's units may reach (R319): working and protected. -/
def State.allowed (s : State) (a : Nat) : Bool := s.groupKind (groupOf a) ≤ 1

/-- The 4 KiB pages of a range. -/
def pagesOf (a n : Nat) : List Nat :=
  if n = 0 then [] else (List.range ((a + n - 1) / 4096 - a / 4096 + 1)).map (· + a / 4096)

/-- A page listed in CHK_LOSTLOG (R305). -/
def State.isLost (s : State) (page : Nat) : Bool :=
  (List.range 64).any (fun i => s.flag (fLostValid i) && s.fld (fLostPage i) == page)

/-- A block that its isolation wrapper has closed: at the request in a small fleet class, at isolation in a large one (R537). -/
def State.blkClosed (s : State) (id : Nat) : Bool := s.pw.blks.any (fun b => decide (b.id = id) && (b.isolated || !s.largeClass))

/-- What becomes of an access to a stack whose tile is closed (R537, R564): it is completed with an error in a small fleet class,
and waits in a large one. -/
def State.blkCheck (s : State) (a n : Nat) : Option MErr :=
  if s.pw.blks ≠ [] ∧ (pagesOf a n).any (fun p => s.blkClosed (s.stackOf (p * 4096))) then
    some (if s.largeClass then .wait else .blkRst)
  else none

/-- The access check of a read (R305, R319). -/
def State.rdCheck (s : State) (a n : Nat) : Option MErr :=
  if memSize < a + n then some .range
  else if (pagesOf a n).any (fun p => !s.allowed (p * 4096)) then some .area
  else if (pagesOf a n).any s.isLost then some .lost
  else s.blkCheck a n

/-- The access check of a write: a write of whole sectors to a lost page completes (R305). -/
def State.wrCheck (s : State) (a n : Nat) : Option MErr :=
  if memSize < a + n then some .range
  else if (pagesOf a n).any (fun p => !s.allowed (p * 4096)) then some .area
  else if (a % 32 ≠ 0 ∧ s.isLost (a / 4096)) ∨ ((a + n) % 32 ≠ 0 ∧ s.isLost ((a + n - 1) / 4096)) then some .lost
  else s.blkCheck a n

/-- Bytes of a checked read. -/
def State.read (s : State) (a n : Nat) : Except MErr (List Byte) :=
  match s.rdCheck a n with
  | some e => .error e
  | none => .ok (s.rdBytes a n)

/-! ### Copy-on-write (R468 to R470, R490) -/

/-- A covered page (R468). -/
def State.covered (s : State) (page : Nat) : Bool :=
  let g := groupOf (page * 4096)
  s.groupKind g == 1 || (s.groupKind g == 0 && (s.fld fCOWMASK).testBit g)

/-- Free image slots on a stack (R469). -/
def State.slotFree (s : State) (stack : Nat) : Bool :=
  (s.images.filter (fun i => i.stack = stack)).length < (s.groupsOf 2).length * 262144

/-- The bytes of a page, by offset, without zeros. -/
def State.pageBytes (s : State) (page : Nat) : SM Byte :=
  (s.mem.filter (fun c => c.1 / 4096 = page)).map (fun c => (c.1 % 4096, c.2))

/-- What is left of ranges of open bytes once `[lo, hi)` is written. -/
def cutRanges (lo hi : Nat) (l : List (Nat × Nat)) : List (Nat × Nat) :=
  l.flatMap (fun r => [(r.1, min r.2 lo), (max r.1 hi, r.2)].filter (fun x => decide (x.1 < x.2)))

/-- The open bytes of a page, as ranges. -/
def State.pageOpen (s : State) (page : Nat) : List (Nat × Nat) :=
  (s.wsOpen.map (fun r => (max r.1 (page * 4096), min r.2 (page * 4096 + 4096)))).filter (fun r => decide (r.1 < r.2))

/-- Abandons the checkpoint being written here, with its holds (R470, R490). -/
def State.dropCkpt (s : State) : State :=
  { s with ckpt := none, images := s.images.filter (fun i => i.tag ≠ .hold) }

/-- Abandons the checkpoint fleet-wide (R495). -/
def State.endCkpt (s : State) : State :=
  match s.ckpt with
  | some c =>
    let s := s.dropCkpt
    let s : State := { s with mh := { s.mh with ckptDone := [], ckptOpen := false } }
    if s.isCrew then s.fleetTo 0 (.ckptAbandon c.gen) else s.broadcast (.ckptAbandon c.gen)
  | none => s

/-- Abandons the checkpoint fleet-wide for a reason that CKP_STAT shows (R495). -/
def State.abandonCkpt (s : State) (bit : Reg.Fld) : State := (s.setFld bit 1).endCkpt

/-- The node takes an image with a tag, if it can (R468, R470). -/
def State.takeImage (s : State) (tag : ImgTag) (page : Nat) : Except MErr State :=
  let stack := s.stackOf (page * 4096)
  let put := fun (s : State) => { s with images := s.images ++ [⟨tag, page, stack, s.pageBytes page, s.pageOpen page⟩] }
  if s.slotFree stack then .ok (put s)
  else
    let s := if s.ckpt.isSome then s.abandonCkpt fABANDON else s
    if s.slotFree stack then .ok (put s)
    else match tag with
      | .hold => .ok s
      | .step t => if s.steps.any (fun x => x.tag < t) then .error .wait else .error .snapFull

/-- What must hold before a write of a step lands on a page (R468, R490). -/
def State.cowPage (s : State) (tag : BitVec 64) (page : Nat) : Except MErr State :=
  let holdDue : Bool := match s.ckpt with
    | some c => s.groupKind (groupOf (page * 4096)) == 1 && !c.written.contains page
        && !s.images.any (fun i => i.tag == .hold && i.page == page)
    | none => false
  let r := if holdDue then s.takeImage .hold page else .ok s
  match r with
  | .error e => .error e
  | .ok s =>
    if tag = 0 ∨ ¬ s.covered page ∨ s.images.any (fun i => i.tag == .step tag && i.page == page) then .ok s
    else s.takeImage (.step tag) page

/-! ### Digest terms (R453 to R456) -/

/-- Who performs a write: step, ring and ORD of its descriptor, UNIT of R106, and the digest kind (0 WDIG; 3 an HTOD, in WDIG and
IDIG; 1 an atomic, whose term is hashed at its issue). -/
structure Writer where
  tag : BitVec 64
  ring : Nat := 0
  ord : Nat := 0
  unit : Nat := 0xF0
  kind : Nat := 0
  deriving DecidableEq, Repr

/-- The sum of the terms of one write: one for each sector touched (R454). -/
def sectorTerms (kind a : Nat) (bs : List Byte) : BitVec 64 :=
  if bs.isEmpty then 0 else
  let first := a / 32
  (List.range ((a + bs.length - 1) / 32 - first + 1)).foldl (fun sum k =>
    let base := (first + k) * 32
    let cells := (List.range 32).map (fun i => if a ≤ base + i then bs[base + i - a]? else none)
    let data := leNat (cells.map (·.getD 0))
    let mask := maskOf ((List.range 32).filter (fun i => (cells.getD i none).isSome))
    sum + Rng.digHash kind base data mask) 0

def State.step? (s : State) (tag : BitVec 64) : Option Step := s.steps.find? (fun x => x.tag = tag)

/-- Changes the record of an uncommitted step. -/
def State.updStep (s : State) (tag : BitVec 64) (f : Step → Step) : State :=
  { s with steps := s.steps.map (fun x => if x.tag = tag then f x else x) }

/-- Traffic of a step that has no descriptor here yet opens the step's record (R383, R456). -/
def State.joinStep (s : State) (tag : BitVec 64) : State :=
  if tag.toNat ≤ s.comm.lastTag.toNat ∨ s.steps.any (fun x => x.tag = tag) then s
  else { s with steps := s.steps.filter (fun y => decide (y.tag.toNat < tag.toNat)) ++ [{ tag := tag }]
           ++ s.steps.filter (fun y => !decide (y.tag.toNat < tag.toNat)) }

/-- Adds to a step's partial of a descriptor and unit (R462). -/
def addPart (l : List Partial) (ring ord unit : Nat) (w d : BitVec 64) : List Partial :=
  if l.any (fun p => p.ring = ring ∧ p.ord = ord ∧ p.unit = unit) then
    l.map (fun p => if p.ring = ring ∧ p.ord = ord ∧ p.unit = unit then { p with wdig := p.wdig + w, sdig := p.sdig + d } else p)
  else l ++ [⟨ring, ord, unit, w, d⟩]

/-- Adds a WDIG term (kind 0 or 1) to a step. -/
def State.addTerm (s : State) (w : Writer) (h : BitVec 64) : State :=
  s.updStep w.tag (fun x => { x with wdig := x.wdig + h, parts := addPart x.parts w.ring w.ord w.unit h 0 })

/-- Adds an IDIG term (kind 3) to a step. -/
def State.addInput (s : State) (tag : BitVec 64) (h : BitVec 64) : State := s.updStep tag (fun x => { x with idig := x.idig + h })

/-- Adds an SDIG term to a step. -/
def State.addSdig (s : State) (tag : BitVec 64) (ring ord unit : Nat) (h : BitVec 64) : State :=
  s.updStep tag (fun x => { x with sdig := x.sdig + h, parts := addPart x.parts ring ord unit 0 h })

/-! ### Committed register state (R465) -/

/-- Applies a transition to a copy of the register state. -/
def applyTr (c : RegState) : Trans → RegState
  | .flags t f => { c with flags := SM.setD 0 c.flags t (SM.getD 0 c.flags t ||| f) }
  | .uf t n => { c with uf := SM.setD 0 c.uf t (min (SM.getD 0 c.uf t + n) (2 ^ 32 - 1)) }
  | .spFlags f => { c with spFlags := c.spFlags ||| f }
  | .regionDef w r => { c with regions := SM.setD emptyRegion c.regions w r }
  | .regionRead w v ver => { c with regions := upd c.regions w (fun r => if r.ver ≠ ver then r else
      { r with reads := if r.reads.any (fun x => x.1 = v) then r.reads.map (fun x => if x.1 = v then (x.1, x.2 + 1) else x) else r.reads ++ [(v, 1)] }) }
  | .regionUpd w v => { c with regions := upd c.regions w (fun r => { r with ver := v, reads := [] }) }
  | .regionDig w d => { c with regions := upd c.regions w (fun r => { r with dig := (r.dig + d) % Rng.p127 }) }
  | .groupDef g x => { c with groups := SM.setD emptyGroup c.groups g x }
  | .groupSeq g => { c with groups := SM.setD emptyGroup c.groups g (let x := SM.getD emptyGroup c.groups g; { x with seq := x.seq + 1 }) }
  | .sched i e => { c with sched := SM.setD 0 c.sched i e }
  | .sol e x => { c with sol := SM.setD emptySol c.sol e x }
  | .solTaint e => { c with sol := SM.setD emptySol c.sol e { SM.getD emptySol c.sol e with tainted := true } }
  | .rng k x => { c with rng := SM.setD ⟨0, 0, 0, false⟩ c.rng k x }
where
  emptyRegion : Region := ⟨0, false, 0, 0, 0, 0, 0, [], 0⟩
  emptyGroup : Group := ⟨[], 0, 0, 0, 0, 0⟩
  upd (m : SM Region) (w : Nat) (f : Region → Region) : SM Region := SM.setD emptyRegion m w (f (SM.getD emptyRegion m w))

/-- Transitions that wait for their step's commit before the live copy shows them: group definitions and the schedule. -/
def Trans.late : Trans → Bool
  | .groupDef _ _ => true | .sched _ _ => true | _ => false

/-- A transition of a step's work; work outside a step acts on both copies. -/
def State.trs (s : State) (tag : BitVec 64) (t : Trans) : State :=
  if tag = 0 then { s with comm := applyTr s.comm t, live := applyTr s.live t }
  else { s with live := if t.late then s.live else applyTr s.live t, trans := s.trans ++ [(tag, t)] }

/-! ### Writes -/

/-- Bytes land in node memory: the pages join the step's trail, an engine whose workspace is hit is tainted (R258), and the
caches lose the sectors written (R227). -/
def State.landed (s : State) (tag : BitVec 64) (a : Nat) (bs : List Byte) : State :=
  let s := if bs.isEmpty then s else s.live.sol.foldl (fun (s : State) p =>
    if p.2.resident && decide (s.fld (fWSBASE p.1) * 4096 < a + bs.length)
        && decide (a < (s.fld (fWSBASE p.1) + s.fld (fWSLEN p.1)) * 4096) && !s.trans.contains (tag, .solTaint p.1) then
      s.trs tag (.solTaint p.1) else s) s
  let lo := a / 32 * 32
  let hi := (a + bs.length + 31) / 32 * 32
  { s with mem := memWrite s.mem a bs, wsOpen := cutRanges a (a + bs.length) s.wsOpen,
           cline := s.cline.filterMap (fun (p : Nat × CLine) =>
             let l := p.2.bytes.filter (fun (b : Nat × Byte) => decide (p.1 * 128 + b.1 < lo) || decide (hi ≤ p.1 * 128 + b.1))
             if l.isEmpty then none else some (p.1, { p.2 with bytes := l })) }.updStep tag (fun x =>
    { x with pages := ((pagesOf a bs.length).filter (fun p => s.groupKind (groupOf (p * 4096)) == 1 && !x.pages.contains p)) ++ x.pages })

/-- A write of a step to node memory: the check, the images, the digest term, the bytes. -/
def State.write (s : State) (w : Writer) (a : Nat) (bs : List Byte) : Except MErr State :=
  match s.wrCheck a bs.length with
  | some e => .error e
  | none =>
    match (pagesOf a bs.length).foldl (fun r p => match r with
        | .ok s => s.cowPage w.tag p
        | .error e => .error e) (.ok s : Except MErr State) with
    | .error .snapFull => .error .snapFull
    | .error e => .error e
    | .ok s =>
      let s := if w.kind = 1 then s else s.addTerm w (sectorTerms 0 a bs)
      let s := if w.kind = 3 then s.addInput w.tag (sectorTerms 3 a bs) else s
      .ok (s.landed w.tag a bs)

/-- Writes the lines that `p` selects back to node memory (R228), as work of a step. -/
def State.flushLines (s : State) (tag : BitVec 64) (p : Nat × CLine → Bool) : State :=
  (s.cline.filter p).foldl (fun s l =>
    let s : State := { s with cline := s.cline.filter (fun (x : Nat × CLine) => x.1 ≠ l.1) }
    l.2.bytes.foldl (fun s b =>
      let a := l.1 * 128 + b.1
      (match s.cowPage tag (a / 4096) with
        | .ok s => s
        | .error _ => s).landed tag a [b.2]) s) s

/-- For want of an image slot the checkpoint being written is abandoned (R470). -/
def State.giveSlots (s : State) : State := if s.ckpt.isSome then s.abandonCkpt fABANDON else s

/-- A write that fails for want of an image slot sets CKP_STAT.SNAPFULL (R470). -/
def State.noteErr (s : State) : MErr → State
  | .snapFull => s.giveSlots.setFld fSNAPFULL 1
  | _ => s

/-- Several writes of one descriptor, stopping at the first that does not complete. -/
def State.writes (s : State) (w : Writer) : List (Nat × List Byte) → Except MErr State
  | [] => .ok s
  | (a, bs) :: l => match s.write w a bs with
    | .ok s => s.writes w l
    | .error e => .error e

/-! ### Scratchpads (R310, R312, R316) -/

def spadSize : Nat := 0x1800000
/-- The first byte of a tile's staging area. -/
def State.stageBase (s : State) (t : Nat) : Nat := spadSize - s.fld (fSRES t) * 65536
def spadKey (t o : Nat) : Nat := t * 2 ^ 25 + o
def State.spadRead (s : State) (t o n : Nat) : List Byte := (List.range n).map (fun i => SM.getD 0 s.spad (spadKey t (o + i)))
def State.spadWrite (s : State) (t o : Nat) (bs : List Byte) : State := { s with spad := memWrite s.spad (spadKey t o) bs }

/-! ## Descriptors (R42, R46) -/

def dOp (d : BitVec 512) : Nat := getBits d.toNat 0 12
def dStream (d : BitVec 512) : Nat := getBits d.toNat 12 4
def dFlags (d : BitVec 512) : Nat := getBits d.toNat 16 16
def dIrq (d : BitVec 512) : Bool := d.toNat.testBit 16
def dSerial (d : BitVec 512) : Bool := d.toNat.testBit 17
def dQuiet (d : BitVec 512) : Bool := d.toNat.testBit 18
def dCring (d : BitVec 512) : Nat := getBits d.toNat 24 4
def dMask (d : BitVec 512) : Nat := getBits d.toNat 32 32
def dTag (d : BitVec 512) : BitVec 64 := BitVec.ofNat 64 (getBits d.toNat 64 64)
def dProg (d : BitVec 512) : Nat := getBits d.toNat 128 64
def dArg (d : BitVec 512) (k : Nat) : Nat := getBits d.toNat (192 + 64 * k) 64
def dFence (d : BitVec 512) (k : Nat) : Nat := getBits d.toNat (448 + 32 * k) 32

def State.desc? (s : State) (r : DRef) : Option InDesc := s.descs.find? (fun x => x.ref = r)
def State.updDesc (s : State) (r : DRef) (f : InDesc → InDesc) : State :=
  { s with descs := s.descs.map (fun x => if x.ref = r then f x else x) }

/-- The ring and count of a descriptor on a ring; children have none. -/
def ringNo : DRef → Nat
  | .ring r _ => r.val
  | .child _ => 0
/-- A descriptor of ring `r`. -/
def onRing (r : Nat) : DRef → Bool
  | .ring x _ => x.val == r
  | .child _ => false
def refCount : DRef → Nat
  | .ring _ c => c
  | .child k => k

/-- Whether ring `r` is an immediate ring (R50). -/
def State.isImm (s : State) (r : Nat) : Bool := (s.word (fSqCfg r)).getLsbD 1

/-- The parent of a child descriptor, itself for one on a ring (R249). -/
def State.root (s : State) (r : DRef) : DRef :=
  match r with
  | .ring _ _ => r
  | .child k => ((s.handles.find? (fun h => h.num = k)).map (·.parent)).getD r

/-- The writer that a descriptor's work is (R456); a child's terms belong to its parent. -/
def State.writer (s : State) (r : DRef) (unit : Nat) (kind : Nat := 0) : Writer :=
  match s.desc? (s.root r) with
  | some d => ⟨d.step, ringNo d.ref, d.ord, unit, kind⟩
  | none => ⟨0, 0, 0, unit, kind⟩

/-- A record as its 32 bytes spell a number (R46). -/
def recNat (ring fleet count : Nat) (tag : BitVec 64) (status : BitVec 16) (result : BitVec 32) (digest : BitVec 64)
    (phase epoch : Nat) : Nat :=
  status.toNat ||| ring <<< 16 ||| fleet <<< 22 ||| phase <<< 31 ||| (count % 65536) <<< 32 ||| tag.toNat <<< 64
    ||| digest.toNat <<< 128 ||| result.toNat <<< 192 ||| epoch <<< 224

def State.ring (s : State) (r : Nat) : SqRing := SM.getD {} s.sq r
def State.setRing (s : State) (r : Nat) (q : SqRing) : State := { s with sq := SM.setD {} s.sq r q }
def State.cring (s : State) (c : Nat) : CqRing := SM.getD {} s.cq c
def State.setCring (s : State) (c : Nat) (q : CqRing) : State := { s with cq := SM.setD {} s.cq c q }

/-- Entries of a completion ring (R49). -/
def cfgSize (w : BitVec 64) : Nat := 2 ^ (getBits w.toNat 4 4 + 8)

/-- Whether a completion ring is enabled and has a slot (R57, R65); a crew node without relay posts nothing (R76). -/
def State.cqRoom (s : State) (c : Nat) : Bool :=
  let w := s.word (fCqCfg c)
  let q := s.cring c
  w.getLsbD 0 && !s.rec_.relayLost && decide ((q.written - q.head).toNat < cfgSize w)

/-- Halts a submission ring (R51, R585). -/
def State.haltRing (s : State) (r : Nat) : State :=
  (s.setRing r { s.ring r with halted := true }).vector 18

/-- Writes one record to its ring, with phase and epoch (R46, R63); one outside the windows is not sent (R585). -/
def State.putRec (s : State) (r : Rec) : State :=
  let w := s.word (fCqCfg r.cq)
  let q := s.cring r.cq
  let slot := q.written.toNat % cfgSize w
  let phase := 1 - q.written.toNat / cfgSize w % 2
  let a := (getBits w.toNat 12 52) * 4096 + 32 * slot
  if s.winOk true a 32 then
    (s.setCring r.cq { q with written := q.written + 1 }).hostWrite a
      (leBytes 32 (recNat r.ring s.myIdx r.count r.tag r.status r.result r.digest phase (s.fld fEPOCH)))
  else s.haltRing r.ring

/-- The vector that a posted record asks for. -/
def State.recVecs (s : State) (r : Rec) : List Nat :=
  let w := s.word (fCqCfg r.cq)
  let a := (getBits w.toNat 12 52) * 4096 + 32 * ((s.cring r.cq).written.toNat % cfgSize w)
  if r.irq && s.winOk true a 32 then [r.cq] else []

/-- Posts waiting records in order, as far as their rings have room, and collects the vectors they ask for; a blocked step
record holds back every later step record (R64, R65), an immediate record waits on its own. -/
def State.postRecs (s : State) : List Rec → State × List Nat
  | [] => (s, [])
  | r :: rs =>
    let room := s.cqRoom r.cq && (r.imm || !(s.recs.takeWhile (· ≠ r)).any (fun x => !x.imm && (x.tag < r.tag || x.cq == r.cq)))
    if room then
      let (t, vs) := ({ s with recs := s.recs.erase r }.putRec r).postRecs rs
      (t, s.recVecs r ++ vs)
    else s.postRecs rs

/-- The pointer record of a ring (R54). -/
def State.ptrRec (s : State) (r : Nat) : State :=
  let q := s.ring r
  let a := s.fld fPTRBASE * 4096 + 16 * r
  if s.rec_.relayLost then s
  else if s.winOk true a 16 then
    s.hostWrite a (leBytes 4 q.head.toNat ++ leBytes 4 q.retire.toNat ++ leBytes 4 (s.fld fEPOCH) ++ leBytes 4 0)
  else s.haltRing r

/-- Moves retire over the leading descriptors of a ring whose record is posted or due to none (R50), writing the pointer
record when it moves (R54), and completes a disable (R49). -/
def State.retireRing (s : State) (r : Nat) : State :=
  let q := s.ring r
  let done := fun (c : Nat) => match s.descs.find? (fun x => x.ref = .ring (Fin.ofNat 64 r) c) with
    | some d => d.committed && !s.recs.any (fun x => x.ring == r && x.count == c)
    | none => false
  let n := ((List.range (q.head - q.retire).toNat).takeWhile (fun k => done ((q.retire.toNat + k) % 2 ^ 32))).length
  let newRet := q.retire + BitVec.ofNat 32 n
  let gone := fun (d : InDesc) => (List.range n).any (fun k => d.ref = .ring (Fin.ofNat 64 r) ((q.retire.toNat + k) % 2 ^ 32))
  let q := { q with retire := newRet }
  let s : State := { s.setRing r q with descs := s.descs.filter (fun d => !gone d) }
  let s : State := if n = 0 then s else s.ptrRec r
  let q := s.ring r
  if q.disabling ∧ q.retire = q.head then
    (s.setRing r { q with disabling := false }).setWord (fSqCfg r) ((s.word (fSqCfg r)) &&& ~~~ 1)
  else s

/-- Retires what can retire on every ring. -/
def State.retireAll (s : State) : State := (List.range 64).foldl (fun s r => s.retireRing r) s

/-- Posts what is due, then moves retire, then raises the vectors (R62 step 4, R63), vector 22 among them when a record has to
wait (R65). -/
def State.flushRecs (s : State) (fresh : List Rec) : State :=
  let s := { s with recs := s.recs ++ fresh }
  let (s, vs) := s.postRecs s.recs
  let s := vs.foldl State.vector s.retireAll
  if fresh.any (fun r => s.recs.contains r) then s.vector 22 else s

/-- The SDIG term of a completion record (kind 4, R454). -/
def recTerm (ring ord fleet count : Nat) (tag : BitVec 64) (status : BitVec 16) (result : BitVec 32) : BitVec 64 :=
  Rng.digHash 4 (2 * (ring * 16384 + ord)) (recNat ring fleet count tag status result 0 0 0) 0xFFFFFFFF

def stOK : Nat := 0x0000
def stBAD_OPCODE : Nat := 0x0100
def stMODE_REFUSED : Nat := 0x0107
def stOUT_OF_WINDOW : Nat := 0x0108
def stNAN_TRAP : Nat := 0x0201
def stSTOPPED : Nat := 0x0202
def stDEADLINE : Nat := 0x0203
def stEXEC_ERROR : Nat := 0x0204

/-- A descriptor of a ring finishes (R48): an immediate posts at once, a step descriptor joins its step. -/
def State.finishRing (s : State) (rg : Fin 64) (c status result : Nat) : State :=
  let r : DRef := .ring rg c
  match s.desc? r with
  | none => s
  | some d =>
    let st := BitVec.ofNat 16 status
    let re := BitVec.ofNat 32 result
    let s := s.updDesc r (fun x => { x with st := .finished, status := st, result := re })
    if d.step = 0 then
      let s := s.updDesc r (fun x => { x with committed := true })
      let rc : Rec := ⟨rg.val, c, dTag d.raw, st, re, 0, dCring d.raw, dIrq d.raw, true⟩
      s.flushRecs (if dQuiet d.raw ∧ status < 0x100 then [] else [rc])
    else
      let s := s.addSdig d.step rg.val d.ord 0xF0 (recTerm rg.val d.ord s.myIdx c (dTag d.raw) st re)
      s.updStep d.step (fun x => if d.counts then { x with finished := x.finished + 1 } else x)

/-- A program descriptor whose threads have all ended, with no handoff, remote operation or child outstanding (R148, R247,
R370). -/
def State.progReady (s : State) (x : InDesc) : Bool :=
  x.st == .running && x.left == 0 && !s.coll.hands.any (fun h => h.desc = x.ref && !h.ran)
    && !s.remote.ops.any (fun o => o.desc = x.ref) && !s.handles.any (fun h => h.parent = x.ref && h.result.isNone)

/-- How a program descriptor ends: its first fault or trap, else a dead store that no fence reported (R378), else a child's
error that no DWAIT retrieved (R252). -/
def State.progOutcome (s : State) (x : InDesc) : Nat × Nat :=
  if x.status ≠ 0 then (x.status.toNat, x.result.toNat)
  else match s.remote.dead.find? (fun o => o.desc = x.ref) with
    | some o => (stEXEC_ERROR, match o.by_ with
      | .tile t _ => o.cause ||| t <<< 16
      | .spar c t => (if o.cause = 0x0B01 then 0x0706 else o.cause) ||| c <<< 16 ||| (SM.getD {} s.spar (c * 8 + t)).tidx <<< 22)
    | none =>
      if s.handles.any (fun h => h.parent = x.ref && (h.result.map (fun r => decide (0x100 ≤ r.1.toNat))).getD false) then
        (stEXEC_ERROR, 0x0709)
      else (stOK, 0)

/-- A descriptor ends: its Spar-core stores reach node memory (R186, R228), its thread contexts are free (R222), and its dead
operations and child handles are forgotten. -/
def State.progClean (s : State) (r : DRef) : State :=
  let mine := (s.spar.filter (fun p => p.2.run = some r)).map (·.1)
  let s := s.flushLines (((s.desc? r).map (·.step)).getD 0) (fun l => l.2.writers.any mine.contains)
  { s with spar := s.spar.filter (fun (p : Nat × SparThr) => p.2.run ≠ some r),
           remote := { s.remote with dead := s.remote.dead.filter (fun (o : DeadOp) => o.desc ≠ r) },
           handles := s.handles.filter (fun (h : Handle) => h.parent ≠ r) }

/-- A descriptor finishes (R48): a child informs its handle and, as the last of a SPAR_RUN's, ends that (R247). -/
def State.finish (s : State) (r : DRef) (status : Nat) (result : Nat) : State :=
  let s := { s with eng := s.eng.map (fun (p : Nat × Engine) => (p.1, if p.2.run = some r then { p.2 with run := none } else p.2)) }
  match r with
  | .ring rg c => s.finishRing rg c status result
  | .child k =>
    let par := s.root r
    let s : State := { s with
      handles := s.handles.map (fun (h : Handle) =>
        if h.num = k then { h with result := some (BitVec.ofNat 16 status, BitVec.ofNat 32 result) } else h),
      descs := s.descs.filter (fun x => x.ref ≠ r) }
    match s.desc? par, par with
    | some x, .ring rg c =>
      if s.progReady x then
        let o := s.progOutcome x
        (s.progClean par).finishRing rg c o.1 o.2
      else s
    | _, _ => s

/-- EXEC_ERROR with a cause in RESULT (R47). -/
def State.execError (s : State) (r : DRef) (cause : Nat) : State := s.finish r stEXEC_ERROR cause

/-! ## Failed checks and hardware events (R303, R312, R501 to R506) -/

/-- The checks of a step fail (R48): the step can no longer be locally done, and the node is lost in the rollback. -/
def State.failStep (s : State) (tag : BitVec 64) : State := s.updStep tag (fun x => { x with failed := true })

/-- Every uncommitted step fails its checks. -/
def State.failSteps (s : State) : State := { s with steps := s.steps.map (fun x => { x with failed := true }) }

/-- A page is entered as lost (R303, R306). -/
def State.enterLost (s : State) (page : Nat) : State :=
  if s.isLost page then s else
  match (List.range 64).find? (fun i => !s.flag (fLostValid i)) with
  | some i =>
    let s := ((s.setFld (fLostPage i) page).setFld (fLostKind i) (s.groupKind (groupOf (page * 4096)))).setFld (fLostValid i) 1
    (s.setFld (fLostTag i) s.comm.lastTag.toNat).setFld fLOSTCOUNT (s.fld fLOSTCOUNT + 1)
  | none =>
    let s := s.setFault fLOSTFULL
    let s := { s with rec_ := { s.rec_ with selfLost := true } }
    if s.isCrew then s.fleetTo 0 (.lost (s.nodeAt s.myIdx) .self) else s

/-- The header of a trail packet of this node (R475). -/
def State.trailHdr (s : State) (kind : BitVec 4) (dst : BitVec 12) (tag : BitVec 64) (page : Nat) : TrailHdr :=
  ⟨kind, BitVec.ofNat 12 (s.fld fRANK), BitVec.ofNat 12 (s.fld fNODEID), dst, BitVec.ofNat 16 (s.fld fJOBSTAMP),
    BitVec.ofNat 16 (s.fld fEPOCH), 0, page, tag, 0⟩

/-- The fleet index that holds a rank: the one a takeover or step-done named, otherwise the index equal to the rank. -/
def State.idxOfRank (s : State) (r : Nat) : Nat := ((s.mh.ranks.find? (fun p => p.2 = r)).map (·.1)).getD r

/-- The rank that a fleet index holds, as far as the masthead knows: from its step-dones and BID reports, or the one equal to the
index. -/
def State.rankOf (s : State) (idx : Nat) : Option Nat :=
  let r := SM.getD 4095 s.mh.ranks idx
  if r < s.fleetSize then some r
  else if s.mh.ranks.any (fun p => p.2 = idx) ∨ s.fleetSize ≤ idx then none else some idx

/-- The rank whose mirror this node keeps in its groups of kind 3 or 4 (R466). -/
def State.mirrorRank (s : State) (kind : Nat) : Option Nat :=
  let n := s.fleetSize
  if kind - 3 < buddyCount n ∧ (kind = 3 ∨ kind = 4) then (List.range n).find? (fun r => buddyRank n r (kind - 3) = s.fld fRANK) else none

/-- The owner's page number of a mirror page that this node keeps for rank `r`. -/
def State.ownerPage (s : State) (kind page : Nat) : Nat :=
  let a := page * 4096
  match (s.groupsOf kind).idxOf? (groupOf a) with
  | some i => putBits a 30 4 ((s.groupsOf 1).getD i 0) / 4096
  | none => page

/-- R304, R477: a mirror page is stale, and its owner is asked for the page. DEDUCED: by RESEND, the packet with which a buddy asks for a page
(R476). -/
def State.staleMirror (s : State) (kind page : Nat) : State :=
  let s : State := { s with rec_ := { s.rec_ with stale := page :: s.rec_.stale } }
  match s.mirrorRank kind with
  | some r =>
    let dst := s.nodeAt (s.idxOfRank r)
    s.send ⟨5, dst, 0xFFFF, 32, .trail { s.trailHdr 3 dst s.comm.lastTag (s.ownerPage kind page) with rank := BitVec.ofNat 12 r } []⟩
  | none => s

/-- What the rollback does with a working or protected page that has no snapshot copy (R303): fetched from a buddy, or lost. -/
def State.pageGone (s : State) (page : Nat) : State :=
  if s.groupKind (groupOf (page * 4096)) = 1 ∧ buddyCount s.fleetSize ≠ 0 then
    { s with rec_ := { s.rec_ with needPages := page :: s.rec_.needPages } }
  else s.enterLost page

/-- The snapshot copy of a page that a rollback would restore: that of its oldest uncommitted step. -/
def State.neededCopy (s : State) (page : Nat) : Option ImgTag :=
  (s.steps.map (fun x => ImgTag.step x.tag)).find? (fun t => s.images.any (fun i => i.page = page ∧ i.tag = t))

/-- A bad snapshot copy (R303): one that the rollback needs is gone with the page's later copies; one that it does not need frees its slot,
and a checkpoint that held it is abandoned (DESIGN CHOICE, log 53). -/
def State.badCopy (s : State) (tag : ImgTag) (page : Nat) : State :=
  if s.neededCopy page = some tag then
    State.pageGone { s with images := s.images.filter (fun i => i.page ≠ page ∨ i.tag = .hold) } page
  else
    let held : Bool := s.images.any (fun i => i.page = page ∧ i.tag = tag ∧ tag = .hold)
    let s : State := { s with images := s.images.filter (fun i => i.page ≠ page ∨ i.tag ≠ tag) }
    if held then s.abandonCkpt fABANDON else s

/-- What the rollback does with a page whose sector is uncorrectable, `copy` being what lies in a snapshot slot (R303, R304). -/
def State.badPage (s : State) (page : Nat) (copy : Option (ImgTag × Nat)) : State :=
  let g := s.groupKind (groupOf (page * 4096))
  if g = 3 ∨ g = 4 then (if s.rec_.stale.contains page then s else s.staleMirror g page)
  else if g = 2 then match copy with
    | some c => s.failSteps.badCopy c.1 c.2
    | none => s.failSteps
  else if (s.neededCopy page).isSome then s.failSteps
  else s.failSteps.pageGone page

/-! ## Bonded-interface parity and array units (R292, R297 to R301, R310) -/

/-- Even parity of both halves of a beat (R297). -/
def beatOk (b : BitVec 146) : Bool :=
  let even := fun (lo p : Nat) => ((List.range 72).foldl (fun x i => x != b.getLsbD (lo + i)) (b.getLsbD p)) == false
  even 0 144 && even 72 145

def burstOk (b : Burst) : Bool := beatOk b.b0 && beatOk b.b1

/-- The symbols of a burst (R300): each on four adjacent bonds over both beats. DEDUCED (log 53): the first beat carries the low half. -/
def burstWord (b : Burst) : List Nat := (List.range 36).map (fun i => getBits b.b0.toNat (4 * i) 4 ||| getBits b.b1.toNat (4 * i) 4 <<< 4)

/-- How many attempts of a transfer fail, of the burst and its three retries (R297). -/
def parityFails (tries : List Burst) : Nat := ((tries.take 4).takeWhile (fun b => !burstOk b)).length

/-- The burst that a transfer hands on (R298). -/
def handedOn (tries : List Burst) : Option Burst := tries[min (parityFails tries) 3]?

/-- How a check comes out (Table: disagreement outcomes, R142). -/
inductive Finding where
  | agree | checker | result | noTwo
  deriving DecidableEq, Repr

/-- The decision, from whether R and C disagree, whether N' = R, and whether N' agrees with C. -/
def judge (dis nr nc : Bool) : Finding := if !dis then .agree else if nr then .checker else if nc then .result else .noTwo

/-- Values compared bit for bit. -/
def judgeEq (r c n : Int) : Finding := judge (r != c) (n == r) (n == c)
/-- A value compared with an expected residue modulo 15. -/
def judgeRes (r c n : Int) : Finding := judge ((r - c) % 15 != 0) (n == r) ((n - c) % 15 == 0)

/-- What a verdict does (R142, R503): the outcome is counted in `cnt`, the units that it names become suspect, and no two agreeing values fail
the checks of the step. -/
def State.found (s : State) (tag : BitVec 64) (cnt : Nat → Reg.Fld) (src : Nat) (v : Finding) (result : List UnitId)
    (checker third : UnitId) : State :=
  match v with
  | .agree => s
  | .checker => (s.incFld (cnt 0)).event src [(checker, true)]
  | .result => (s.incFld (cnt 1)).event src (result.map (·, false))
  | .noTwo =>
    ((s.incFld (cnt 2)).event src ((result ++ (if third = checker then [] else [third])).map (·, false) ++ [(checker, true)])).failStep tag

/-- The unit of a group that carries logical place `x`, after the repairs of a map (R19, R28); `fuel` bounds the repairs of one place. -/
def physOf (m : List (BitVec 128)) (k : Nat) (at_ : BitVec 128 → Bool) : Nat → Nat → Nat
  | 0, x => x
  | fuel + 1, x => match m.find? (fun e => meKind e == k && at_ e && meUnit e == x && meSpare e != 0xFFFFF) with
    | some e => physOf m k at_ fuel (meSpare e)
    | none => x

/-- A unit of tile `t` as the ledger names it. -/
def tileUnit (kind t core idx : Nat) : UnitId := BitVec.ofNat 38 (kind ||| (t / 8 + 1) <<< 8 ||| (t % 8) <<< 11 ||| core <<< 16 ||| idx <<< 18)

/-- The bank of a stack, and the scratchpad row of a tile, that hold an address or offset after the repairs in force, as the ledger names them
(R23, R301, R312). -/
def State.bankUnit (s : State) (a : Nat) : UnitId :=
  let d := s.mapAddress a
  tileUnit 4 d.stack 0 (physOf s.mapNow 4 (fun e => meDie e == d.stack / 8 + 1 && mePos e == d.stack % 8) 2 (d.ch * 64 + d.bank))
def State.spadUnit (s : State) (t o : Nat) : UnitId :=
  tileUnit 5 t 0 (physOf s.mapNow 5 (fun e => meDie e == t / 8 + 1 && mePos e == t % 8) 4 (spadBank o * 12292 + spadRow o))

/-- A residue check with no recomputation in unit `u` (R501, R503): a disagreement fails the checks of the step. -/
def State.plainResidue (s : State) (tag : BitVec 64) (src : Nat) (u : Nat → UnitId) (ev : List HwEv) : State :=
  ev.foldl (fun s e => match e with
    | .residue a r c _ => if (r - c) % 15 = 0 then s else (s.event src [(u a, false)]).failStep tag
    | _ => s) s

/-- A hardware happening of the memories and bonds inside work of a step: (state, whether the operation completes). The findings of
arithmetic checkers are the affair of the unit that computes. -/
def State.hwEv (s : State) (_tag : BitVec 64) : HwEv → State × Bool
  | .upset _ => (s, true)
  | .residue _ _ _ _ => (s, true)
  | .chunkCrc => (s, true)
  | .parity st tries bond =>
    let n := parityFails tries
    let s := (s.addFld (fPARFAIL st.val) n).addFld (fPARRETRY st.val) (min n 3)
    match if n = 0 then none else bond with
    | some b =>
      let u := tileUnit 3 st.val 0 b.val
      let h := SM.getD [] s.parity (st.val * 8192 + b.val)
      let h := (h.filter (fun t => s.now < t + 1000000000)) ++ [s.now]
      let s := { s with parity := SM.setD [] s.parity (st.val * 8192 + b.val) h }
      let s := s.ledger 2 11 u false
      (if 16 < h.length ∧ ¬ s.part.mramMap.any (fun e => meKind e = 3 ∧ meDie e = uDie u ∧ mePos e = uPos u ∧ meUnit e = b.val)
        then s.addMap (repairEntry s.part.map u 2 s.comm.lastTag) else s, true)
    | none => (s, true)
  | .corrected a => ((s.incFld (fDRAMCOR (s.stackOf a))).ledger 2 9 (s.bankUnit a) false, true)
  | .uncorrectable a copy => (((s.incFld (fUNCORR (s.stackOf a))).ledger 1 10 (s.bankUnit a) false).badPage (a / 4096) copy, false)
  | .spadCorrected t o => ((s.incFld (fSPADCOR t.val)).ledger 2 9 (s.spadUnit t.val o) false, true)
  | .spadUncorrectable t o => (((s.incFld (fUNCORR t.val)).ledger 1 10 (s.spadUnit t.val o) false).failSteps, false)

/-- Several happenings: the state, and whether the operation completes. -/
def State.hwEvs (s : State) (tag : BitVec 64) (evs : List HwEv) : State × Bool :=
  evs.foldl (fun a e => let r := a.1.hwEv tag e; (r.1, a.2 && r.2)) (s, true)

/-! ## Sticky flags (R100 to R102) -/

/-- Sets a tile's sticky flags and counts its underflows (R100 to R102). -/
def State.tileFlags (s : State) (tag : BitVec 64) (t fl uf : Nat) : State :=
  let s := if fl % 256 = 0 then s else s.trs tag (.flags t (BitVec.ofNat 8 fl))
  if uf = 0 then s else s.trs tag (.uf t uf)

/-! ## NaN watch (R104 to R108, R661) -/

/-- A NaN event: fills the trap record or adds to MORE. -/
def State.nanEvent (s : State) (tag : BitVec 64) (unit stream thread elem instr pc cause : Nat) : State :=
  let n := s.live.nan.toNat
  let present := s.nanStep ≠ 0 ∨ n ≠ 0
  if present then
    { s with live := { s.live with nan := BitVec.ofNat 256 (putBits n 192 16 (satInc 16 (getBits n 192 16))) } }.updStep tag
      (fun x => { x with nanMore := x.nanMore + 1 })
  else { s with
    live := { s.live with nan := BitVec.ofNat 256 (unit ||| stream <<< 8 ||| thread <<< 12 ||| (elem % 65536) <<< 16
        ||| (instr % 2 ^ 32) <<< 32 ||| (pc % 2 ^ 64) <<< 64 ||| tag.toNat <<< 128 ||| cause <<< 208) },
    nanStep := tag }

/-- A stream stops on a unit (R105). -/
def State.stopStream (s : State) (tag : BitVec 64) (unit stream thread : Nat) : State :=
  { s with stopped := ⟨unit, stream, thread, tag⟩ :: s.stopped }

/-- Whether a stream is stopped on a unit. -/
def State.isStopped (s : State) (unit stream thread : Nat) : Bool :=
  s.stopped.any (fun x => x.unit = unit ∧ x.stream = stream ∧ x.thread = thread)

end Sys2Proof.Machine
end

