-- ==== Sys2Proof/Machine/Factor.lean ====
section
/-! DEFINITION. What a sparse factor engine computes (chapter 08): patterns and fill, the delta feed, factorisation, solves with
refinement. -/

namespace Sys2Proof.Machine
open Sys2Proof.Fp

/-! ## Patterns (R264, R268, R269, R276) -/

/-- The columns of a block row. -/
def rowCols (rowptr colidx : List Nat) (i : Nat) : List Nat :=
  (colidx.drop (rowptr.getD i 0)).take (rowptr.getD (i + 1) 0 - rowptr.getD i 0)

/-- A block of a pattern. -/
def inPat (rowptr colidx : List Nat) (i j : Nat) : Bool := (rowCols rowptr colidx i).contains j

/-- The first array of a pattern keeps R264. -/
def rowptrOk (l : List Nat) : Bool := l.headD 1 == 0 && (l.zip l.tail).all (fun p => decide (p.1 ≤ p.2))

/-- A whole pattern keeps R264. -/
def patternOk (nb : Nat) (rowptr colidx : List Nat) : Bool :=
  rowptrOk rowptr && (List.range nb).all (fun i =>
    let r := rowCols rowptr colidx i
    (r.zip r.tail).all (fun p => decide (p.1 < p.2)) && r.all (fun j => decide (j < nb)) && r.contains i)

/-- The filled pattern (R268): for each index, the higher indices it meets, built in rising order. -/
def fillAbove (nb : Nat) (rowptr colidx : List Nat) : List (List Nat) :=
  let a0 := (List.range nb).map (fun k => (List.range nb).filter (fun i => decide (k < i) && (inPat rowptr colidx i k || inPat rowptr colidx k i)))
  (List.range nb).foldl (fun (a : List (List Nat)) k =>
    let up := a.getD k []
    a.zipIdx.map (fun r => if up.contains r.2 then
      (List.range nb).filter (fun i => decide (r.2 < i) && (r.1.contains i || up.contains i)) else r.1)) a0

/-- The blocks of the filled pattern, row by row. -/
def fillOf (nb : Nat) (rowptr colidx : List Nat) : List (Nat × Nat) :=
  let a := fillAbove nb rowptr colidx
  (List.range nb).flatMap (fun i => ((List.range nb).filter (fun j =>
    i == j || (a.getD (min i j) []).contains (max i j))).map (fun j => (i, j)))

/-- The elimination tree's parent of an index (R268). -/
def parentOf (fill : List (Nat × Nat)) (k : Nat) : Option Nat := (fill.find? (fun p => p.1 = k ∧ k < p.2)).map (·.2)

/-- An index and its ancestors, at most `n` of them. -/
def ancestors (fill : List (Nat × Nat)) : Nat → Nat → List Nat
  | 0, _ => []
  | n + 1, k => k :: (match parentOf fill k with
    | some p => ancestors fill n p
    | none => [])

/-- The block updates, from the block columns below `lim`, of the blocks whose lower index is in a set: one for each lower index that
meets both (R276). -/
def updatesOf (fill : List (Nat × Nat)) (lim : Nat) (aff : Nat → Bool) : Nat :=
  fill.foldl (fun n p =>
    let m := min p.1 p.2
    if aff m then n + ((List.range (min m lim)).filter (fun k => fill.contains (p.1, k) && fill.contains (k, p.2))).length else n) 0

/-- The digest of a pattern (R269). -/
def patternDigest (nb bs : Nat) (rowptr colidx : List Nat) : BitVec 64 :=
  let words := [nb, bs] ++ rowptr ++ colidx
  BitVec.ofNat 64 (leNat ((Sha.sha384 (words.flatMap (leBytes 4))).take 8))

/-- Bytes of workspace that a structure needs (R259). -/
def workspaceBytes (nb bs ba bf : Nat) : Nat :=
  (65536 + 16 * (nb + 1) + 12 * (ba + bf) + 8 * bs * bs * (ba + bf) + nb * bs + 4095) / 4096 * 4096

/-! ## Values (R265, R266, R272, R273) -/

/-- The key of a scalar (i, j). -/
def sKey (i j : Nat) : Nat := i * 2 ^ 28 + j

def valOf (m : SM (BitVec 64)) (i j : Nat) : Val := decode .fp64 (SM.getD 0 m (sKey i j)).toNat
def putVal (m : SM (BitVec 64)) (i j : Nat) (v : Val) : SM (BitVec 64) := SM.setD 0 m (sKey i j) (BitVec.ofNat 64 (encode .fp64 v))

def SolN (c : SolCtx) : Nat := c.nb * 2 ^ c.bsc
/-- A scalar of the matrix pattern, and of the filled pattern. -/
def inA (c : SolCtx) (i j : Nat) : Bool := inPat c.rowptr c.colidx (i / 2 ^ c.bsc) (j / 2 ^ c.bsc)
def inF (c : SolCtx) (i j : Nat) : Bool := c.fill.contains (i / 2 ^ c.bsc, j / 2 ^ c.bsc)

/-- A delta record: block, ADD, reserved bits, values. -/
structure Delta where
  i : Nat
  j : Nat
  add : Bool
  rsv : Nat
  vals : List Nat
  deriving DecidableEq, Repr

def deltaOf (bs : List Byte) : Delta :=
  let h := leNat (bs.take 32)
  ⟨getBits h 0 24, getBits h 24 24, h.testBit 48, h / 2 ^ 49, (chunks 8 256 (bs.drop 32)).map leNat⟩

/-- A finite value. -/
def isFin : Val → Bool
  | .fin _ _ _ => true
  | _ => false

/-- Applies one record, or answers its cause (R272). -/
def applyDelta (c : SolCtx) (m : SM (BitVec 64)) (d : Delta) : Except Nat (SM (BitVec 64)) :=
  let bs := 2 ^ c.bsc
  if ¬ inPat c.rowptr c.colidx d.i d.j then .error 0x0808
  else d.vals.zipIdx.foldl (fun r p => match r with
    | .error e => .error e
    | .ok m =>
      let i := d.i * bs + p.2 / bs
      let j := d.j * bs + p.2 % bs
      let v := decode .fp64 p.1
      let n := if d.add then (add .fp64 .rne (valOf m i j) v).v else v
      if isFin v && isFin n then .ok (putVal m i j n) else .error 0x0809) (.ok m)

/-- Applies a feed in order: the new values, or the first offending record with its cause. -/
def applyFeed (c : SolCtx) : List Delta → SM (BitVec 64) → Except (Nat × Nat × Nat) (SM (BitVec 64))
  | [], m => .ok m
  | d :: l, m => match applyDelta c m d with
    | .ok m => applyFeed c l m
    | .error e => .error (e, d.i, d.j)

/-- ANORM: the largest magnitude of any matrix value. -/
def anormOf (m : SM (BitVec 64)) : Val := m.foldl (fun a p => let v := (decode .fp64 p.2.toNat).abs; if absLt a v then v else a) .zero

/-- τ (R273). -/
def tauOf (pivtol anorm : Val) : Val :=
  let t := (mul .fp64 .rne pivtol anorm).v
  let least : Val := .fin false 1 (-1022)
  if absLt t least then least else t

/-- What stopped a factorisation: the cause, the scalar, and the column at work. -/
structure FStop where
  cause : Nat
  i : Nat
  j : Nat
  k : Nat
  deriving DecidableEq, Repr

/-- The state of a factorisation: the factor, the marks, and what stopped it. -/
structure FState where
  f : SM (BitVec 64)
  marks : SM Nat
  stop : Option FStop
  deriving DecidableEq, Repr

/-- One entry of the factor, checked finite, in column `k` of the procedure. -/
def FState.put (x : FState) (k i j : Nat) (v : Val) : FState :=
  let x := { x with f := putVal x.f i j v }
  if isFin v then x else { x with stop := some ⟨0x080D, i, j, k⟩ }

/-- The pivot of column `k` (R273, R274). -/
def FState.pivot (x : FState) (tau : Val) (pivstop : Bool) (k : Nat) : FState :=
  let p := valOf x.f k k
  let mk := if p.isZero then 1 else if absLt p tau then 2 else 0
  if mk = 0 then x
  else if pivstop then { x with stop := some ⟨0x080C, k, k, k⟩ }
  else { x with f := putVal x.f k k (if mk = 1 then tau else tau.withSign p.neg), marks := SM.setD 0 x.marks k mk }

/-- One step of the procedure of R273. -/
def FState.column (c : SolCtx) (tau : Val) (pivstop : Bool) (x : FState) (k : Nat) : FState :=
  if x.stop.isSome then x
  else
    let x := x.pivot tau pivstop k
    let above := ((List.range (SolN c)).drop (k + 1)).filter (fun i => inF c i k)
    let right := ((List.range (SolN c)).drop (k + 1)).filter (fun j => inF c k j)
    let x := above.foldl (fun (x : FState) i => if x.stop.isSome then x
      else x.put k i k (div .fp64 .rne (valOf x.f i k) (valOf x.f k k)).v) x
    above.foldl (fun (x : FState) i => right.foldl (fun (x : FState) j => if x.stop.isSome then x
      else x.put k i j (fma .fp64 .rne (valOf x.f i k).negate (valOf x.f k j) (valOf x.f i j)).v) x) x

/-- The factorisation of the matrix values (R273). -/
def factor (c : SolCtx) (tau : Val) (pivstop : Bool) : FState :=
  (List.range (SolN c)).foldl (FState.column c tau pivstop) ⟨c.vals, [], none⟩

/-! ## Solves (R279 to R281) -/

/-- trisolve (R279). -/
def trisolve (c : SolCtx) (v : List Val) : List Val :=
  let n := SolN c
  let y := (List.range n).foldl (fun (y : List Val) i =>
    y ++ [((List.range i).filter (fun k => inF c i k)).foldl (fun a k =>
      (fma .fp64 .rne (valOf c.fac i k).negate (y.getD k .zero) a).v) (v.getD i .zero)]) []
  (List.range n).reverse.foldl (fun (x : List Val) i =>
    let a := (((List.range n).drop (i + 1)).filter (fun j => inF c i j)).foldl (fun a j =>
      (fma .fp64 .rne (valOf c.fac i j).negate (x.getD (j - i - 1) .zero) a).v) (y.getD i .zero)
    (div .fp64 .rne a (valOf c.fac i i)).v :: x) []

/-- residual (R280): an exact sum rounded once. -/
def residual (c : SolCtx) (b x : List Val) : List Val :=
  (List.range (SolN c)).map (fun i =>
    let ps := ((List.range (SolN c)).filter (fun j => inA c i j)).map (fun j =>
      ((exactMul (valOf c.vals i j) (x.getD j .zero)).getD .qnan).negate)
    (sumOnce .fp64 (b.getD i .zero :: ps)).v)

/-- The largest magnitude of a vector; NaN where it holds one. -/
def maxAbs (l : List Val) : Val :=
  if l.any Val.isNan then .qnan else l.foldl (fun a v => if absLt a v then v.abs else a) .zero

/-- rho (R280). -/
def rho (anorm : Val) (r x b : List Val) : Val :=
  let d := (fma .fp64 .rne anorm (maxAbs x) (maxAbs b)).v
  if d.isZero then .zero else (div .fp64 .rne (maxAbs r) d).v

/-- The refinement of one right-hand side: x, r, p, best, pbest, it, whether it stalled, and the rows whose residual or correction was
once NaN (R281). -/
structure RefState where
  x : List Val
  r : List Val
  p : Val
  best : List Val
  pbest : Val
  it : Nat
  stalled : Bool
  nans : List Nat
  deriving DecidableEq, Repr

/-- The rows of a vector that are NaN. -/
def nanRows (l : List Val) : List Nat := (l.zipIdx.filter (fun v => v.1.isNan)).map (·.2)

def gt (a b : Val) : Bool := Fp.cmp a b == some 1

/-- One pass of the loop of R280. -/
def refineOnce (c : SolCtx) (rtol : Val) (b : List Val) (z : RefState) (_ : Nat) : RefState :=
  if z.stalled || !gt z.p rtol || !z.r.all isFin then z
  else
    let d := trisolve c z.r
    let x := (z.x.zip d).map (fun q => (add .fp64 .rne q.1 q.2).v)
    let r := residual c b x
    let pn := rho (decode .fp64 c.anorm.toNat) r x b
    let z' := if gt z.pbest pn then { z with best := x, pbest := pn } else z
    { z' with x := x, r := r, p := pn, it := z.it + 1, nans := z.nans ++ nanRows d ++ nanRows r,
              stalled := gt pn (mul .fp64 .rne z.p (.fin false 1 (-1))).v }

/-- One right-hand side solved and refined (R280). -/
def refine (c : SolCtx) (maxit : Nat) (rtol : Val) (b : List Val) : RefState :=
  let x := trisolve c b
  let r := residual c b x
  let p := rho (decode .fp64 c.anorm.toNat) r x b
  (List.range maxit).foldl (refineOnce c rtol b) ⟨x, r, p, x, p, 0, false, nanRows r⟩

/-- The rows at which a solve writes a NaN (R281): of X, of the residuals and corrections in SCRATCH, and for a NaN ρ the first row whose
residual is not finite. -/
def RefState.nanAt (z : RefState) : List Nat :=
  let l := sortBy (fun a b => decide (a ≤ b)) (nanRows z.best ++ z.nans).eraseDups
  if l = [] ∧ z.pbest.isNan then [z.r.findIdx (fun v => !isFin v)] else l

/-! ## Fields of the engine descriptors (R260, R271) -/

def dEngine (raw : BitVec 512) : Nat := getBits (dArg raw 3) 0 2
def dDeadline (raw : BitVec 512) : Nat := getBits (dArg raw 3) 32 32

/-- PIVTOL (R271); none where it is out of range. -/
def pivtolOf (p : Nat) : Option Val :=
  if p = 0 then some (.fin false 1 (-26))
  else match decode .fp64 p with
    | .fin false m e => if m ≠ 0 ∧ Fp.cmp (.fin false m e) (.fin false 1 0) ≠ some 1 then some (.fin false m e) else none
    | _ => none

/-- Bytes of one delta record. -/
def deltaLen (bsc : Nat) : Nat := 32 + 8 * 4 ^ bsc

/-- The records of a feed. -/
def State.feed (s : State) (raw : BitVec 512) (bsc : Nat) : List Delta :=
  (List.range (getBits (dArg raw 1) 0 32)).map (fun k => deltaOf (s.rdBytes (dArg raw 0 + k * deltaLen bsc) (deltaLen bsc)))

/-- An engine's context after a factorisation of the values `vals`, begun with the fields of a descriptor: with CLEAR and the feed
applied by the caller. -/
def factored (c : SolCtx) (raw : BitVec 512) (vals : SM (BitVec 64)) : SolCtx × FState :=
  let an := anormOf vals
  let pt := (pivtolOf (dArg raw 2)).getD .zero
  let tau := tauOf pt an
  let c1 := { c with vals := vals }
  let f := factor c1 tau ((dArg raw 3).testBit 2)
  ({ c1 with fac := f.f, marks := f.marks, fvalid := f.stop.isNone, anorm := BitVec.ofNat 64 (encode .fp64 an),
             tau := BitVec.ofNat 64 (encode .fp64 tau), pivtol := BitVec.ofNat 64 (encode .fp64 pt) }, f)

/-- The values that SF_REFACTOR's feed gives (R272), or the first offending record with its cause. -/
def State.fed (s : State) (c : SolCtx) (raw : BitVec 512) : Except (Nat × Nat × Nat) (SM (BitVec 64)) :=
  applyFeed c (s.feed raw c.bsc) (if (dArg raw 1).testBit 32 then [] else c.vals)

end Sys2Proof.Machine
end

