-- ==== Sys2Proof/Machine/Steps.lean ====
section
/-! DEFINITION. Steps: the step digest, the log, the schedule, the locker writer's start, trails, and what a node does at the
commit and at the rollback of a step (chapters 02, 13, 14, 15). -/

namespace Sys2Proof.Machine

/-! ## Step digest (R453, R454) -/

/-- The committed copy that the step's transitions leave. -/
def State.commAfter (s : State) (tag : BitVec 64) : RegState :=
  (s.trans.filter (fun x => x.1 = tag)).foldl (fun c x => applyTr c x.2) s.comm

/-- The digest of an uncommitted step. DEDUCED: kind 5 covers the tiles of the class in force. -/
def State.stepDigest (s : State) (x : Step) : BitVec 256 :=
  let c := s.commAfter x.tag
  let wt := x.updated.foldl (fun (n : BitVec 64) w =>
    n + Rng.digHash 6 w ((SM.getD applyTr.emptyRegion c.regions w).dig % 2 ^ 64) 0xFF) 0
  let tl := ((List.range 32).filter s.tileOn).foldl (fun (n : BitVec 64) t =>
    n + Rng.digHash 5 t ((SM.getD 0 c.flags t).toNat ||| (SM.getD 0 c.uf t) <<< 32) 0xFF) 0
  let sp := Rng.digHash 5 0x40 (c.spFlags.toNat <<< 4) 0xFF
  ((x.sdig + tl + sp) ++ x.idig ++ wt ++ x.wdig : BitVec 256)

/-! ## Log (R457 to R462) -/

/-- A log entry without its PHASE (R458): KIND, step tag, and bytes 16 to 127 as a number. -/
def State.logEnt (s : State) (kind : Nat) (tag : BitVec 64) (body : Nat) : BitVec 1024 :=
  BitVec.ofNat 1024 (kind ||| s.myIdx <<< 8 ||| s.fld fRANK <<< 16 ||| s.fld fEPOCH <<< 32 ||| tag.toNat <<< 64 ||| body <<< 128)

/-- Entries of the log ring. -/
def State.logSize (s : State) : Nat := 2 ^ (s.fld fLOGSIZE + 8)

/-- Writes queued entries as far as the ring has room and the windows allow (R459, R585). -/
def State.logOut (s : State) : List (BitVec 1024) → State
  | [] => s
  | e :: es =>
    let a := s.fld fLOGBASE * 4096 + 128 * (s.logWr % s.logSize)
    if s.flag fLOGEN ∧ (s.logWr + 2 ^ 32 - s.fld fLOGHEAD) % 2 ^ 32 < s.logSize ∧ s.winOk true a 128 ∧ ¬ s.rec_.relayLost then
      let phase := 1 - s.logWr / s.logSize % 2
      ({ s with logQ := s.logQ.tail, logWr := (s.logWr + 1) % 2 ^ 32 }.hostWrite a (leBytes 128 (e.toNat ||| phase <<< 7))).logOut es
    else s

/-- Queues log entries when a record or replay mode is on, and writes what fits. -/
def State.log (s : State) (es : List (BitVec 1024)) : State :=
  if s.fld fRMODE = 0 then s
  else
    let s := { s with logQ := s.logQ ++ es }
    s.logOut s.logQ

/-- The log entries of a committed step, in the order of Table: log entry kinds. -/
def State.stepLog (s : State) (x : Step) (dig : BitVec 256) : List (BitVec 1024) :=
  let ds := (s.descs.filter (fun d => d.step = x.tag))
  let detail := if s.flag fDETAIL ∧ s.word 0x300E8 = x.tag then
      (sortBy (fun (a b : Partial) => decide (a.ring < b.ring ∨ (a.ring = b.ring ∧ (a.ord < b.ord ∨ (a.ord = b.ord ∧ a.unit ≤ b.unit))))) x.parts).map
        (fun p => s.logEnt 7 x.tag (p.ring ||| p.ord <<< 16 ||| p.unit <<< 32 ||| p.wdig.toNat <<< 64 ||| p.sdig.toNat <<< 128))
    else []
  let desc := if s.flag fLEVEL then
      ds.map (fun d => s.logEnt 2 x.tag (ringNo d.ref ||| d.ord <<< 16 ||| d.raw.toNat <<< 384))
        ++ x.setups.map (fun d => s.logEnt 3 x.tag (d.1 ||| d.2.1 <<< 16 ||| d.2.2.toNat <<< 384))
    else []
  let step := s.logEnt 1 x.tag (s.comm.stepCnt.toNat ||| dig.toNat <<< 64 ||| s.bidHash.toNat <<< 320
    ||| ds.length <<< 384 ||| x.setups.length <<< 416 ||| x.htod <<< 448)
  let div := if x.diverge = 0 then [] else
    [s.logEnt 6 x.tag (x.diverge.toNat ||| x.expDig.toNat <<< 64 ||| x.expBid.toNat <<< 320)]
  detail ++ desc ++ [step] ++ div

/-- The replay comparison adds causes; the first divergence is latched (R460). -/
def State.diverge (s : State) (tag : BitVec 64) (m : BitVec 6) : State :=
  if m = 0 then s else
    let s := s.updStep tag (fun x => { x with diverge := x.diverge ||| m })
    if s.flag fDIVLATCH then (if s.word 0x300F8 = tag then s.setFld fDIVCAUSE (s.fld fDIVCAUSE ||| m.toNat) else s)
    else ((s.setFld fDIVLATCH 1).setFld fDIVCAUSE m.toNat).setFld fDIVTAG tag.toNat

/-! ## Ranks and trails (R466, R474, R475) -/

/-- Packets of a trail part list: 1 KiB parts, the CRC on the last. -/
def trailPkts (dst : BitVec 12) (h : TrailHdr) (bs : List Byte) : List Packet :=
  let ps := chunks 1024 (bs.length / 1024 + 1) bs
  let crc := BitVec.ofNat 32 (Sha.crc32 bs)
  ps.zipIdx.map (fun p =>
    let h := if h.kind = 1 then { h with page := p.2 } else { h with part := p.2 }
    ⟨5, dst, 0xFFFF, 32 + p.1.length, .trail { h with crc := if p.2 + 1 = ps.length then crc else 0 } p.1⟩)

/-- A page as committed: from the image of an uncommitted step that has written it, otherwise from the page (R474). -/
def State.committedPage (s : State) (page : Nat) : List Byte :=
  match s.images.find? (fun i => i.page = page ∧ i.tag ≠ .hold) with
  | some i => (List.range 4096).map (SM.getD 0 i.bytes)
  | none => s.rdBytes (page * 4096) 4096

/-- Sends a trail of pages and the register-state record to a buddy (R474, R481). -/
def State.sendTrail (s : State) (tag : BitVec 64) (buddy : Nat) (pages : List Nat) (full : Bool) : State :=
  let dst := s.nodeAt (s.idxOfRank (buddyRank s.fleetSize (s.fld fRANK) buddy))
  let rec_ := Config.regRecord tag.toNat
  let pk := pages.flatMap (fun p => trailPkts dst (s.trailHdr 0 dst tag p) (s.committedPage p))
    ++ trailPkts dst (s.trailHdr 1 dst tag 0) rec_
  { s with portQ := s.portQ ++ pk, trails := s.trails ++ [⟨tag, buddy, pages.length * 4096 + rec_.length, full⟩] }

/-- The pages of the protected groups that hold a byte (others are zero on both sides after the reset's wipe). -/
def State.protectedPages (s : State) : List Nat :=
  ((s.mem.map (fun c => c.1 / 4096)).eraseDups).filter (fun p => s.groupKind (groupOf (p * 4096)) = 1)

/-- The trails due after the commit of a step (R474). -/
def State.trailsOf (s : State) (x : Step) : State :=
  if s.holdsRank then
    (List.range (buddyCount s.fleetSize)).foldl (fun s b => s.sendTrail x.tag b x.pages false) s
  else s

/-! ## Schedule (R432 to R439) -/

def eValid (e : BitVec 128) : Bool := e.getLsbD 0
def eBeat (e : BitVec 128) : Bool := e.getLsbD 1
def eAction (e : BitVec 128) : Nat := getBits e.toNat 2 4
def eArg (e : BitVec 128) : Nat := getBits e.toNat 8 24
def ePeriod (e : BitVec 128) : Nat := getBits e.toNat 32 32
def eStart (e : BitVec 128) : Nat := getBits e.toNat 64 64
/-- CHECKPOINT and DIGEST act for the fleet (R435). -/
def eFleet (e : BitVec 128) : Bool := eAction e = 1 || eAction e = 2

/-- How many due points of an entry lie above `old` up to `new` (R434). -/
def dueIn (e : BitVec 128) (old new : Nat) : Nat :=
  let upto := fun n => if n < eStart e then 0 else if ePeriod e = 0 then 1 else (n - eStart e) / ePeriod e + 1
  upto new - upto old

/-- What a status record says beside the engine's context (R261): cause, CONV, DLMISS, WARM, ITER, a block and scalar that an
error names in place of the first regularised pivot, RESID, WORK, and the digest read by SF_STRUCT. -/
structure SolOut where
  cause : Nat := 0
  conv : Bool := false
  dlmiss : Bool := false
  warm : Nat := 0
  iter : Nat := 0
  at_ : Option (Nat × Nat × Nat) := none
  resid : Nat := 0
  work : Nat := 0
  dig : Option (BitVec 64) := none
  deriving DecidableEq, Repr

/-- The status record as a number (R261). -/
def solRec (c : SolCtx) (o : SolOut) (beats : Nat) : Nat :=
  let bs := 2 ^ c.bsc
  let marks := if c.fvalid then c.marks else []
  let w := o.at_.getD (match marks with
    | (k, _) :: _ => (k / bs, k / bs, k % bs)
    | [] => (0, 0, 0))
  o.cause ||| (if c.fvalid then 1 else 0) <<< 16 ||| (if marks.any (fun m => m.2 = 2) then 1 else 0) <<< 17
    ||| (if marks.any (fun m => m.2 = 1) then 1 else 0) <<< 18 ||| (if o.conv then 1 else 0) <<< 19
    ||| (if o.dlmiss then 1 else 0) <<< 20 ||| o.warm <<< 21 ||| o.iter <<< 24 ||| (min marks.length (2 ^ 32 - 1)) <<< 32
    ||| w.1 <<< 64 ||| w.2.1 <<< 88 ||| w.2.2 <<< 112 ||| c.anorm.toNat <<< 128 ||| c.tau.toNat <<< 192 ||| o.resid <<< 256
    ||| o.work <<< 320 ||| (beats % 2 ^ 32) <<< 384 ||| c.fill.length <<< 416 ||| (o.dig.getD c.dig).toNat <<< 448

/-- The engine writes the status record of a descriptor before it finishes, where STATREC is valid (R261); none where the write waits. -/
def State.writeRec (s : State) (r : DRef) (e : Nat) (o : SolOut) : Option State :=
  match s.desc? r with
  | none => some s
  | some x =>
    let beats := if x.st = .running then (s.word 0x80008).toNat - (SM.getD ({} : Engine) s.eng e).start.toNat else 0
    if dProg x.raw % 64 ≠ 0 then some s
    else match s.write (s.writer r (0x80 + e)) (dProg x.raw) (leBytes 64 (solRec (SM.getD emptySol s.live.sol e) o beats)) with
      | .ok s => some s
      | .error .wait => none
      | .error m => some (s.noteErr m)

/-- Bytes of node memory become open values: `n` bytes from `a`. -/
def State.openWrite (s : State) (w : Writer) (a n : Nat) : Except MErr State :=
  ({ s with freeCtr := s.freeCtr + n } : State).write w a ((List.range n).map (fun i => (Config.freeWord (s.freeCtr + i)).extractLsb' 0 8))

/-- The columns of a vector array of SF_SOLVE (R278): address and length of each. -/
def solCols (base nrhs n : Nat) : List (Nat × Nat) := (List.range nrhs).map (fun k => (base + k * ((8 * n + 31) / 32 * 32), 8 * n))

/-- What a missed SF_REFACTOR leaves (R282): FVALID is 0; how far the feed and the norm had come is open, so the engine holds the values,
and the norm and threshold, of before or of after. -/
def State.missCtx (s : State) (c : SolCtx) (raw : BitVec 512) (free : Nat) : SolCtx :=
  match s.fed c raw with
  | .error _ => { c with fvalid := false }
  | .ok vals =>
    let n := (factored c raw vals).1
    if free % 3 = 0 then { c with fvalid := false }
    else if free % 3 = 1 then { c with fvalid := false, vals := vals }
    else { c with fvalid := false, vals := vals, anorm := n.anorm, tau := n.tau, pivtol := n.pivtol }

/-- What a descriptor running on an engine leaves when it misses its deadline (R282): FVALID 0 after SF_REFACTOR, open X after SF_SOLVE, the
record with DLMISS (ITER, RESID and WORK of the work cut short are open), and DEADLINE. None where a write waits. -/
def State.missed (s : State) (e : Nat) (r : DRef) (raw : BitVec 512) : Option State :=
  let c := SM.getD emptySol s.live.sol e
  let w := s.writer r (0x80 + e)
  let f := s.freeCtr
  let s : State := { s with freeCtr := f + 3 }
  let solve := dOp raw = 0x202
  let s := if dOp raw = 0x201 then s.trs w.tag (.sol e (s.missCtx c raw (Config.freeChoice f))) else s
  let iter := if solve then Config.freeChoice (f + 1) % (getBits (dArg raw 3) 8 4 + 1) else 0
  let word := (Config.freeWord (f + 2)).toNat
  let o : SolOut := { dlmiss := true, iter := iter, resid := if solve then word else 0, work := if dOp raw = 0x201 then word else 0 }
  let x := if solve then
      (solCols (dArg raw 1) (getBits (dArg raw 3) 2 6 + 1) (c.nb * 2 ^ c.bsc)).foldl (fun q x => q.bind (fun s => match s.openWrite w x.1 x.2 with
        | .ok s => some s
        | .error .wait => none
        | .error m => some (s.noteErr m))) (some s)
    else some s
  (x.bind (fun s => s.writeRec r e o)).map (fun s => s.finish r stDEADLINE (e <<< 16 ||| iter <<< 24))

/-- A descriptor running on an engine misses its deadline; where its writes must wait, the miss stays due. -/
def State.missDeadline (s : State) (e : Nat) : State :=
  let g := SM.getD ({} : Engine) s.eng e
  match g.run with
  | none => s
  | some r => match s.missed e r (((s.desc? r).map (·.raw)).getD 0) with
    | some s => s
    | none => { s with eng := SM.setD {} s.eng e { g with deadline := max 1 (s.fld fBEATCNT - g.start.toNat) } }

/-- A margin test starts on a node that holds no rank; on a rank holder SCH_SKIP counts it (R435, R520). -/
def State.startMargin (s : State) (profile : Nat) : State :=
  if s.holdsRank then s.incFld fSKIP
  else (s.setFld fMPROF profile).setFld fMRUN 1

/-- A takeover aborts the margin test: its memories are wiped, and a targeted test marks the open entries it was to test (R520, R521, R522). -/
def State.abortMargin (s : State) : State :=
  if ¬ s.flag fMRUN then s else
    let p := s.fld fMPROF
    let s : State := if p ≠ 0x10 then s else { s with part := { s.part with ledger := s.part.ledger.map (fun (e : LedEnt) =>
      if e.cls = 0 then { e with mprof := 0x10, mres := 3 } else e) } }
    (State.setFld { s with spad := [] } fMRUN 0 |>.setFld fMRES 3).fire 0x203 0xF0 (p ||| 3 <<< 8)

/-- A node that holds no rank repeats a targeted test that a takeover aborted (R521). DEDUCED: it begins at the end of the reset that left the
node without a rank, or with the drain. -/
def State.remargin (s : State) : State :=
  if s.part.ledger.any (fun e => e.cls = 0 ∧ e.mprof = 0x10 ∧ e.mres = 3) ∧ ¬ s.holdsRank ∧ ¬ s.flag fMRUN then s.startMargin 0x10 else s

/-- The locker's slot geometry (R486, R487). -/
def State.protCount (s : State) : Nat := (s.groupsOf 1).length
def State.slotBlocks (s : State) : Nat := 16384 + s.protCount * 8388608
def State.slotLba (s : State) (slot : Nat) : Nat := s.fld fLKBASE + slot * s.slotBlocks

/-- The generation that a commit broadcast names for a checkpoint it fires: mark 2^40 + g (R489). -/
def State.markGen (s : State) : Nat := ((s.mh.marks.find? (fun m => 2 ^ 40 ≤ m)).map (· - 2 ^ 40)).getD (s.fld fGEN + 1)

/-- Sends the locker a command of the checkpoint writer: a write, with or without FUA, or (op 0) Flush. The root port refuses a write that leaves
the range of CKP_LKCFG, which is reported as a locker write error (R586, R495). The node pages that its PRPs name are the node's own choice: free
(log 54). -/
def State.lkSend (s : State) (c : CkptRun) (op lba : Nat) (fua : Bool) (bs : List Byte) : State :=
  let n := bs.length / 4096
  let base := s.fld fLKBASE
  if op = 1 ∧ (lba < base ∨ base + s.fld fLKCOUNT < lba + n) then
    (State.abandonCkpt { s with ckpt := some c } fLOCKERR).fire 0x007 0xB0 0
  else
  let prps := (List.range n).map (fun k => Config.freeChoice (s.freeCtr + k) % 2 ^ 27)
  State.emit { s with freeCtr := s.freeCtr + n, ckpt := some { c with held := false, prps := prps } } (.locker op lba n fua bs)

/-- Starts the locker writer for a fleet checkpoint of a committed step (R489, R438, R490, R495). -/
def State.fireCkpt (s : State) (cls : Nat) (needDig : Bool) : State :=
  let s : State := if s.decides then { s with mh := { s.mh with ckptOpen := true, ckptDone := [] } } else s
  if s.ckpt.isSome ∨ ¬ s.holdsRank then s
  else if s.flag fNOLOCKER then
    let s : State := { s with mh := { s.mh with ckptOpen := false } }
    if s.isCrew then s.fleetTo 0 (.ckptAbandon s.markGen) else s.broadcast (.ckptAbandon s.markGen)
  else
    let ga := if s.flag (fLKVALID 0) then s.fld (fLKGEN 0) else 0
    let gb := if s.flag (fLKVALID 1) then s.fld (fLKGEN 1) else 0
    let slot := if gb < ga ∨ (ga = gb ∧ s.flag (fLKVALID 0)) then 1 else 0
    let holds := (s.images.filter (fun i => i.tag ≠ .hold ∧ s.groupKind (groupOf (i.page * 4096)) = 1)).map (fun i => { i with tag := .hold })
    let c : CkptRun := ⟨s.markGen, cls, slot, s.comm.lastTag, s.comm.stepCnt, s.comm.lastDig, 1, 0, [], [], none, 0,
      needDig, s.flag fBRACE, s.flag fBRACE, s.comm, []⟩
    let s := State.setFld { s with ckpt := some c, images := s.images ++ holds } (fLKVALID slot) 0
    if c.paused then s else s.lkSend c 1 (s.slotLba slot) true (List.replicate 4096 0)

/-- The node that a member entry names now (R388, R390). -/
def State.memberNode (s : State) (m : BitVec 32) : BitVec 12 :=
  if m.getLsbD 12 then s.nodeAt (m.toNat % 64) else BitVec.ofNat 12 m.toNat

/-- A digest comparison of a group begins at a commit: a member's record goes to every other member (R526). -/
def State.fireDigest (s : State) (group : Nat) : State :=
  let g := SM.getD applyTr.emptyGroup s.comm.groups group
  let me := BitVec.ofNat 12 (s.fld fNODEID)
  let others := (g.members.map s.memberNode).filter (· ≠ me)
  let mine : DigRec := ⟨s.myIdx, group, s.comm.lastTag, s.word 0x90020,
    (setBits 64 (s.fld fDIGMASK)).map (fun w => let r := SM.getD applyTr.emptyRegion s.comm.regions w; (w, r.ver, r.dig))⟩
  if ¬ s.holdsRank ∨ others.length = g.members.length then s
  else
    let s : State := { s with rec_ := { s.rec_ with digGroups := s.rec_.digGroups ++ [(group, s.comm.lastTag)], digRecs := s.rec_.digRecs ++ [mine] } }
    others.foldl (fun s n => s.send ⟨3, n, 0xFFFF, 64, .digest mine⟩) s

/-- An action of R435 with its argument; `digToo` when a DIGEST fires with it. -/
def State.act (s : State) (action arg : Nat) (digToo : Bool) : State :=
  match action with
  | 1 => s.fireCkpt (arg % 2) digToo
  | 2 => s.fireDigest (getBits arg 0 10)
  | 3 => s.startMargin (getBits arg 0 8)
  | 4 => s.fire (getBits arg 0 10) 0xF0 0 true
  | 5 => (setBits 4 (getBits arg 0 4)).foldl State.missDeadline s
  | _ => s

/-- Entries (index, action, argument) that fire together: ascending index, with DIGEST first (R438). -/
def State.actAll (s : State) (l : List (Nat × Nat × Nat)) : State :=
  let l := sortBy (fun a b => decide (a.1 ≤ b.1)) l
  let dig := l.filter (fun e => e.2.1 = 2)
  (dig ++ l.filter (fun e => e.2.1 ≠ 2)).foldl (fun s e => s.act e.2.1 e.2.2 (!dig.isEmpty)) s

/-- What a node does when entry `i` of its table fires. -/
def State.entAct (s : State) (i : Nat) : Nat × Nat × Nat :=
  let e := SM.getD 0 s.comm.sched i
  (i, eAction e, eArg e)

/-- The mark by which a commit broadcast carries a fleet-scope entry, since the masthead alone holds it (R435, R436). -/
def entMark (i : Nat) (e : BitVec 128) : Nat := 2 ^ 30 + i * 65536 + eAction e * 4096 + eArg e % 4096

/-- The actions that the marks of a commit broadcast carry. -/
def markActs (marks : List Nat) : List (Nat × Nat × Nat) :=
  (marks.filter (fun m => 2 ^ 30 ≤ m ∧ m < 2 ^ 40)).map (fun m => (m / 65536 % 256, m / 4096 % 16, m % 4096))

/-- The beat counter moved: node-scope beat entries fire, fleet-scope ones become due (R436, R437). -/
def State.beatEntries (s : State) (old new : Nat) : State :=
  let hit := (List.range 256).filterMap (fun i =>
    let e := SM.getD 0 s.comm.sched i
    let n := if eValid e && eBeat e then dueIn e old new else 0
    if n = 0 then none else some (i, n))
  let s := hit.foldl (fun s h =>
    let e := SM.getD 0 s.comm.sched h.1
    let again := if eFleet e ∧ s.due.contains h.1 then h.2 else h.2 - 1
    let s := s.addFld fSKIP again
    if eFleet e ∧ ¬ s.due.contains h.1 then { s with due := s.due ++ [h.1] } else s) s
  s.actAll (((hit.map (·.1)).filter (fun i => !eFleet (SM.getD 0 s.comm.sched i))).map s.entAct)

/-- The fleet-scope entries and CKPT descriptors that fire with a commit (R436), as marks. Mark 256 or 257 stands for a CKPT
descriptor of class exact or compact that commits with it, or for a checkpoint that was deferred (R438, R489, R492). -/
def State.rawMarks (s : State) (x : Step) : List Nat :=
  let n := s.comm.stepCnt.toNat + 1
  let loaded := s.trans.filterMap (fun t => match t.2 with
    | .sched i _ => if t.1 = x.tag then some i else none
    | _ => none)
  ((s.due ++ (List.range 256).filter (fun i =>
    let e := SM.getD 0 s.comm.sched i
    eValid e && !eBeat e && eFleet e && !loaded.contains i && decide (dueIn e (n - 1) n ≠ 0))).map
      (fun i => entMark i (SM.getD 0 s.comm.sched i)))
  ++ x.ckpts.map (fun c => 256 + c.2)

/-- A mark that fires a checkpoint. -/
def isCkptMark (m : Nat) : Bool := m == 256 || m == 257 || (decide (2 ^ 30 ≤ m) && decide (m < 2 ^ 40) && m / 4096 % 16 == 1)

/-- RESULT of a CKPT record is the generation that its checkpoint will have (R499): `g` for the step's first CKPT descriptor, and 1 more for
each that follows; the record's digest term follows RESULT. -/
def State.ckptResults (s : State) (x : Step) (g : Nat) : State :=
  x.ckpts.zipIdx.foldl (fun s c => match s.desc? c.1.1 with
    | none => s
    | some d =>
      let r := BitVec.ofNat 32 (g + c.2)
      let t := recTerm (ringNo d.ref) d.ord s.myIdx (refCount d.ref) (dTag d.raw) d.status
      (s.updDesc d.ref (fun y => { y with result := r })).addSdig x.tag (ringNo d.ref) d.ord 0xF0 (t r - t d.result)) s

/-- The marks of a commit broadcast. Of the checkpoints deferred, AFTERTAKE's, and those that fire with the step, in this order, one begins
where no earlier one is unfinished; the others stay deferred (R438, R489, R492). Mark 2^40 + g names the generation; `drains` are the indices of
members drained at this commit, marks 512 and above. -/
def State.marksFor (s : State) (x : Step) (drains : List Nat) : State × List Nat :=
  let raw := s.rawMarks x
  let all := s.rec_.deferCkpt.map (256 + ·) ++ (if s.mh.aftertake then [256] else []) ++ raw.filter isCkptMark
  let now := if s.mh.ckptOpen then 0 else 1
  let s := s.ckptResults x (s.fld fGEN + 2 - now + (all.length - x.ckpts.length))
  ({ s with due := [], mh := { s.mh with aftertake := false }, rec_ := { s.rec_ with deferCkpt := (all.drop now).map (· % 2) } },
   raw.filter (fun m => !isCkptMark m) ++ all.take now ++ drains.map (512 + ·) ++ [2 ^ 40 + (s.fld fGEN + 1)])

/-! ## Commit (R62 to R64, R469, R472) -/

/-- The records of a committed step, in the order of R64: the counts of a ring are ordered from its retire on. -/
def State.stepRecs (s : State) (x : Step) (dig : BitVec 256) : List Rec :=
  let at_ := fun (r : Rec) => (r.count + 2 ^ 32 - (s.ring r.ring).retire.toNat) % 2 ^ 32
  sortBy (fun (a b : Rec) => decide (a.ring < b.ring ∨ (a.ring = b.ring ∧ at_ a ≤ at_ b)))
   ((s.descs.filter (fun d => d.step = x.tag ∧ ¬ (dQuiet d.raw ∧ d.status.toNat < 0x100))).map (fun d =>
    (⟨ringNo d.ref, refCount d.ref, dTag d.raw, d.status, d.result, dig.setWidth 64, dCring d.raw, dIrq d.raw, false⟩ : Rec)))

/-- What the node does at the commit of its oldest step, with the marks of the broadcast. -/
def State.commit (s : State) (x : Step) (marks : List Nat) : State :=
  let dig := s.stepDigest x
  let tr := s.trans.filter (fun t => t.1 = x.tag)
  let c := s.commAfter x.tag
  let trap := s.nanStep = x.tag
  let s := if ¬ trap ∧ c.nan = 0 then s.updStep s.nanStep (fun (y : Step) => { y with nanMore := y.nanMore + x.nanMore }) else s
  let more := fun (n : BitVec 256) (k : Nat) => BitVec.ofNat 256 (putBits n.toNat 192 16 (min 65535 k))
  let nan := if trap then more (s.live.nan ||| 0x8000) x.nanMore
    else if c.nan = 0 then 0 else more c.nan (getBits c.nan.toNat 192 16 + x.nanMore)
  let cnt := s.comm.stepCnt + 1
  let c := { c with stepCnt := cnt, lastTag := x.tag, lastDig := dig,
                    nan := nan,
                    rng := if s.exact then c.rng else s.live.rng }
  let l := tr.foldl (fun l t => if t.2.late then applyTr l t.2 else l) s.live
  let later := s.trans.filter (fun t => t.1 ≠ x.tag)
  let l := { l with groups := (later.foldl (fun (c : RegState) (t : BitVec 64 × Trans) => match t.2 with
    | .groupSeq _ => applyTr c t.2
    | _ => c) c).groups }
  let l := { l with stepCnt := cnt, lastTag := x.tag, lastDig := dig, nan := if trap then l.nan ||| 0x8000 else l.nan }
  let s := { s with
    comm := c, live := l, trans := s.trans.filter (fun (t : BitVec 64 × Trans) => t.1 ≠ x.tag), nanStep := if trap then 0 else s.nanStep,
    stopped := s.stopped.map (fun (y : Stopped) => if y.step = x.tag then { y with step := 0 } else y),
    images := s.images.filter (fun (i : Image) => i.tag ≠ ImgTag.step x.tag),
    steps := s.steps.filter (fun (y : Step) => y.tag ≠ x.tag),
    descs := s.descs.map (fun (d : InDesc) => if d.step = x.tag then { d with committed := true } else d),
    stalledTags := s.stalledTags.filter (fun (t : BitVec 64) => t ≠ x.tag),
    coll := { s.coll with markers := s.coll.markers.filter (fun (m : BitVec 64 × BitVec 12) => m.1 ≠ x.tag) } }
  let s := s.setFld fLIFESTEP (s.fld fLIFESTEP + 1)
  let s := s.log (s.stepLog x dig)
  let s := s.flushRecs (s.stepRecs x dig)
  let s := if trap then s.vector 19 else s
  let s := s.trailsOf x
  -- the schedule (R436 to R438)
  let newEnt := tr.filterMap (fun t => match t.2 with
    | .sched i _ => some i
    | _ => none)
  let own := (List.range 256).filter (fun i =>
    let e := SM.getD 0 s.comm.sched i
    eValid e && !eBeat e && !eFleet e && !newEnt.contains i && decide (dueIn e (cnt.toNat - 1) cnt.toNat ≠ 0))
  let s : State := { s with mh := { s.mh with marks := marks } }
  let s := s.actAll (own.map s.entAct ++ markActs marks)
  let digToo := (markActs marks).any (fun a => a.2.1 = 2)
  let s := if marks.contains 256 then s.fireCkpt 0 digToo else if marks.contains 257 then s.fireCkpt 1 digToo else s
  -- replay stops fetching after a divergent step (R461)
  if x.diverge ≠ 0 ∧ s.flag fHALT then { s with rec_ := { s.rec_ with haltFetch := true } } else s

/-- R480: a spare that has joined the fleet, with the masthead's partition (R467), reports its BID hash when it joins and after
every change of it. -/
def State.reportBid (s : State) : State :=
  if s.isCrew ∧ ¬ s.holdsRank ∧ s.rec_.mastPart = some (s.word 0x70008, BitVec.ofNat 16 (s.fld fCOWMASK))
      ∧ s.rec_.bidSent ≠ some s.bidHash then
    State.fleetTo { s with rec_ := { s.rec_ with bidSent := some s.bidHash } } 0 (.bid s.myIdx 0xFFF s.bidHash)
  else s

/-- What a spare does at a commit it receives: it counts the step, and its schedule acts (R436, R472, R509). A spare whose
partition differs from the masthead's by then is left out (R467, R497). -/
def State.commitSpare (s : State) (tag : BitVec 64) (marks : List Nat) : State :=
  let cnt := s.comm.stepCnt + 1
  let s := { s with comm := { s.comm with stepCnt := cnt, lastTag := tag }, live := { s.live with stepCnt := cnt, lastTag := tag },
                    mh := { s.mh with marks := marks } }
  let s := s.setFld fLIFESTEP (s.fld fLIFESTEP + 1)
  let s := if s.rec_.mastPart.any (fun m => m.1 != s.word 0x70008 || m.2 != BitVec.ofNat 16 (s.fld fCOWMASK)) then s.setFld fLEFTOUT 1
    else s.reportBid
  let own := (List.range 256).filter (fun i =>
    let e := SM.getD 0 s.comm.sched i
    eValid e && !eBeat e && !eFleet e && decide (dueIn e (cnt.toNat - 1) cnt.toNat ≠ 0))
  s.actAll (own.map s.entAct ++ markActs marks)

/-! ## Rollback (R67, R479) -/

/-- The page images of the oldest uncommitted tag of each page go back (R469). -/
def State.restorePages (s : State) : State :=
  let stepIm := s.images.filter (fun i => i.tag ≠ .hold)
  let order := s.steps.map (·.tag)
  let oldest := fun (p : Nat) => (order.filterMap (fun t => stepIm.find? (fun i => i.page = p ∧ i.tag = .step t))).head?
  let pages := (stepIm.map (·.page)).eraseDups
  let mem := pages.foldl (fun (m : List Host.Cell) p =>
    match oldest p with
    | none => m
    | some i => memWrite m (p * 4096) ((List.range 4096).map (SM.getD 0 i.bytes))) s.mem
  let open_ := pages.foldl (fun l p =>
    match oldest p with
    | none => l
    | some i => cutRanges (p * 4096) (p * 4096 + 4096) l ++ i.free) s.wsOpen
  { s with mem := mem, wsOpen := open_, images := s.images.filter (fun (i : Image) => i.tag = ImgTag.hold) }

/-- Head goes back to retire on every step ring, and what was fetched from them for uncommitted steps is forgotten (R67). A ring that
is disabling is disabled by it (R49). -/
def State.rewindRings (s : State) : State :=
  let s := (List.range 64).foldl (fun s r => if s.isImm r then s else
    let q := s.ring r
    let s := s.setRing r { q with head := q.retire, disabling := false }
    if q.disabling then s.setWord (fSqCfg r) (s.word (fSqCfg r) &&& ~~~ 1) else s) s
  { s with descs := s.descs.filter (fun (d : InDesc) => match d.ref with
      | .ring r _ => s.isImm r.val || d.committed
      | .child _ => false) }

/-- Everything in flight for uncommitted steps ends: programs, engines, children, remote and collective operations
(R384, R420, R479). -/
def State.dropWork (s : State) : State :=
  { s with
    vthr := s.vthr.map (fun (p : Nat × VThread) => (p.1, { p.2 with run := none, halted := false, xfers := [] })),
    spar := [],
    handles := [], eng := s.eng.map (fun (p : Nat × Engine) => (p.1, { p.2 with run := none })),
    chain := s.chain.filterMap (fun p => if p.2.pair then some (p.1, (⟨.closed, true⟩ : ChainSt)) else none), wa := [], cline := [],
    remote := { s.remote with ops := [], dead := [], wait := [], comb := [], defers := [], seq := [], src := [] },
    coll := {} }

/-- The node's part of a rollback, to the last committed step, with the new epoch. -/
def State.rollback (s : State) (epoch : Nat) : State :=
  let back := s.steps.flatMap (fun x => x.setups.map (fun u => (x.tag, u)))
  let s := s.restorePages
  let s := s.dropWork
  let s := { s with regs := SM.clear s.regs (0x20400 / 8) 64 }
  let s := { s with live := s.comm, trans := [], nanStep := 0, stopped := s.stopped.filter (fun (y : Stopped) => y.step = 0),
                    steps := [], setups := back ++ s.setups }
  let s := s.rewindRings
  let s := s.setFld fEPOCH epoch
  let s := s.vector 16
  s.log [s.logEnt 4 s.comm.lastTag s.comm.lastTag.toNat]

end Sys2Proof.Machine
end

