-- ==== Sys2Proof/Machine/Resets.lean ====
section
/-! DEFINITION. What the reset classes return and wipe (R13, R528 to R541, R563), and the shared operations of BLOCK reset
requests, job commands and power states. -/

namespace Sys2Proof.Machine
open Sys2Proof.Reg

/-- Breadth of a reset class: JOB 0, WARM 1, PERST 2, COLD 3; VBAK and "—" are returned by none (R616). -/
def clsRank : Cls → Option Nat
  | .job => some 0 | .warm => some 1 | .perst => some 2 | .cold => some 3 | .vbak => none | .dash => none

/-- The bits of a word that a reset of breadth `k` returns. -/
def resetMask (k off : Nat) : BitVec 64 :=
  maskWhere (fun f => match clsRank f.cls with
    | some r => decide (r ≤ k)
    | none => false) off

/-- The register file after a reset of breadth `k`. -/
def resetRegs (k : Nat) (regs : SM (BitVec 64)) : SM (BitVec 64) :=
  regs.filterMap (fun p =>
    let m := resetMask k (8 * p.1)
    let v := (p.2 &&& ~~~ m) ||| (resetWord (8 * p.1) &&& m)
    if v = resetWord (8 * p.1) then none else some (p.1, v))

/-- A cause counter and RST_LASTCAUSE (R540); class codes 0 COLD to 4 BLOCK. -/
def State.cause (s : State) (idx cls : Nat) : State :=
  let s := s.incFld (fCause idx)
  if idx ≤ 9 then (s.setFld fLASTIDX idx).setFld fLASTCLS cls else s

/-- What every class from JOB up does: memories wiped (R529), uncommitted steps and waiting records discarded, enabled rings
emptied (R534), committed register state at its default, job set-up at its reset values. -/
def State.jobReset (s : State) : State :=
  let s := (List.range 64).foldl (fun s r =>
    if (s.word (fSqCfg r)).getLsbD 0 then
      let q := s.ring r
      let s := s.setRing r { q with head := q.tail, retire := q.tail, disabling := false }
      if q.disabling then s.setWord (fSqCfg r) (s.word (fSqCfg r) &&& ~~~ 1) else s
    else s) s
  let s : State := {
    pending := s.pending, freeCtr := s.freeCtr, now := s.now, part := s.part, mapView := s.mapView,
    regs := resetRegs 0 s.regs, latch := s.latch, msix := s.msix, out := s.out, sq := s.sq, cq := s.cq,
    comm := RegState.reset, live := RegState.reset, beatLast := s.beatLast, flywheel := s.flywheel, beatWait := s.beatWait, beatTaken := s.beatTaken,
    ports := s.ports,
    parity := s.parity, temps := s.temps, tt := s.tt, pw := s.pw, pba := s.pba, aerPoison := s.aerPoison, hostRate := s.hostRate,
    heldVecs := s.heldVecs, rec_ := { mastWins := s.rec_.mastWins, cwReads := s.rec_.cwReads, relayLost := s.rec_.relayLost },
    sec := { s.sec with challenge := none, endedByReset := s.sec.endedByReset || s.sec.challenge.isSome, auth := 0 },
    alertCause := s.alertCause, alertMask := s.alertMask, smbAddr := s.smbAddr }
  let s := s.setFld fRANK (if s.role = 0 then 0 else 0xFFF)
  if s.fld fPWRSTATE = 1 then s.setFld fPWRSTATE 0 else s

/-- The node ID that the provisioning area gives (R574). -/
def Part.nodeId (p : Part) : Nat := ((p.nodeIdA.or p.nodeIdB).map BitVec.toNat).getD 0

/-- A security command that a reset of class WARM or broader cuts short: FW_WRITE leaves its slot failing (R572). -/
def State.cutMailbox (s : State) : State :=
  if s.sec.pending = 0 then s else
    let slot := (s.word 0x60018).toNat % 2
    let s := if s.sec.pending = 1 then { s with part := { s.part with imgCut := s.part.imgCut ||| BitVec.ofNat 2 (2 ^ slot) } } else s
    { s with sec := { s.sec with pending := 0 } }.setFld fMBSTAT 2

/-- WARM: a JOB reset, firmware stopped until the next boot, ports to be trained again, debug closed (R548, R583). -/
def State.warmBody (s : State) : State :=
  let s := s.cutMailbox
  let s := s.jobReset
  let s := { s with regs := resetRegs 1 s.regs, ports := [], beatWait := [], beatTaken := 0, flywheel := 0,
                    sec := { s.sec with debug := s.sec.sealPend, sealPend := false, running := none, spdmVer := false,
                                        spdmCaps := false, spdmAlg := false, transcript := [] },
                    pw := { s.pw with booting := true, warm := true, blks := [], relayHold := false, readyDue := false,
                                      jobBusy := false, jobRequested := false, d0Wait := false } }
  s.setFld fRANK (if s.role = 0 then 0 else 0xFFF)

/-- PERST: a WARM reset, rings disabled, the MSI-X table cleared, FAB_NODEID taken from the node-ID record (R574). -/
def State.perstBody (s : State) : State :=
  let s := { s with sec := { s.sec with sealPend := false } }.warmBody
  let s := { s with regs := resetRegs 2 s.regs, sq := [], cq := [], msix := [], pba := [], heldVecs := [], aerPoison := false, latch := [], rec_ := {},
                    tt := { s.tt with noise := [] },
                    pw := { s.pw with warm := false, limiter := 0, pdLevel := 0, d3 := false, d3Held := false, mast := 0 } }
  s.setFld fNODEID s.part.nodeId

/-- COLD: a PERST reset, and the telltale SRAM ring is lost (R600). Boot step 1 sees whether the VBAK domain was kept. -/
def State.coldBody (s : State) (vbakKept : Bool) : State :=
  let s := s.perstBody
  { s with regs := resetRegs 3 s.regs, temps := ⟨[], [], 0, 0, 0⟩, parity := [], mapView := [],
           tt := { s.tt with ring := [], queue := [], marked := [], pendMerge := 0, flush := none },
           pw := { s.pw with cold := true, levels := [], fdHot := 0, vbakLost := s.pw.vbakLost || !vbakKept } }

/-- A cause that boot step 1 will count (R546). -/
def State.oweCause (s : State) (idx cls : Nat) : State := { s with pw := { s.pw with causes := s.pw.causes ++ [(idx, cls)] } }

/-- JOB reset by command, with the new job ID (R533); it is in progress until JOB_RESET_DONE. -/
def State.job (s : State) (id : BitVec 16) : State :=
  let s := (s.jobReset.cause 8 3).setFld fJOBSTAMP id.toNat
  { s with pw := { s.pw with jobBusy := true } }

/-- A reset of class JOB or broader is in progress (R562). -/
def State.inReset (s : State) : Bool := s.pw.booting || s.pw.jobBusy

/-- The masthead or a standalone node takes a job change (R533, R562); a node whose map is damaged refuses job assignment (R29). DESIGN
CHOICE (log 39): the refused command has no effect. -/
def State.jobCmd (s : State) (id : BitVec 16) : State :=
  if s.inReset then s.setFld fDROPPED 1
  else if s.pw.mapDamaged then s
  else if s.isCrew then s
  else
    let s := s.job id
    let s : State := { s with pw := { s.pw with jobRequested := true }, mh := { s.mh with jobDone := [] } }
    s.broadcast (.job id)

/-- WARM reset with its cause (R531). -/
def State.warm (s : State) (idx : Nat) : State := s.warmBody.cause idx 2

/-- The block IDs of Table: resettable blocks. -/
def blkOk (id : Nat) : Bool := id < 0x20 || (0x20 ≤ id && id < 0x24) || (0x30 ≤ id && id < 0x40) || id == 0x40 || id == 0x41

/-- A request for a BLOCK reset (R536, R537, R539, R562): the block is closed; a relay request first holds the crew. -/
def State.blkRequest (s : State) (id : Nat) : State :=
  if ¬ blkOk id then s
  else if s.inReset then s.setFld fDROPPED 1
  else if s.pw.blks.any (fun b => b.id = id) then s
  else
    let s := { s with pw := { s.pw with blks := s.pw.blks ++ [⟨id, false⟩] } }
    if id = 0x40 ∧ s.isMast then s.broadcast .relayHold else s

/-- A block under BLOCK reset. -/
def State.inBlk (s : State) (id : Nat) : Bool := s.pw.blks.any (fun b => b.id = id)

/-- Furled: compute clocks gated, DRAM in self-refresh, UP ports in standby with their coefficients and credits held; flits in flight are
acknowledged first (R351, R554). -/
def State.furlSelf (s : State) : State :=
  let s := { s with ports := s.ports.map (fun (p : Nat × Port) =>
    (p.1, if p.2.st = PState.up then { p.2 with st := PState.standby, furled := true, retry := [] } else p.2)) }
  s.setFld fPWRSTATE 1

/-- The end of Furled: the ports that Furled put in standby are UP again without a retrain (R351, R554), unless imposition has come to hold
them idle (R34). -/
def State.wakeSelf (s : State) : State :=
  if s.fld fPWRSTATE = 1 then
    let s := { s with ports := s.ports.map (fun (p : Nat × Port) =>
      (p.1, if p.2.furled then { p.2 with st := if s.portOn p.1 then PState.up else p.2.st, furled := false } else p.2)) }
    s.setFld fPWRSTATE 0
  else s

/-- Whether a Furled request is refused (R555). -/
def State.furlRefused (s : State) : Bool :=
  s.stepOpen || (List.range 64).any (fun r => !s.isImm r && (s.word (fSqCfg r)).getLsbD 0 && (s.ring r).head != (s.ring r).tail)
    || s.ckpt.isSome || !s.trails.isEmpty || s.rec_.waitGo || !s.mh.bound.isEmpty

/-! ## Telltale controls (R597 to R601) -/

/-- FREEZE (R599). -/
def State.ttFreeze (s : State) : State := s.setFld fFROZEN 1

/-- Thaw: pending merges enter their record unless a queued record becomes the newest; the queue enters the ring. -/
def State.ttThaw (s : State) : State :=
  if ¬ s.flag fFROZEN then s else
    let s := s.setFld fFROZEN 0
    let q := s.tt.queue
    let n := s.tt.pendMerge
    let s := { s with tt := { s.tt with queue := [], pendMerge := 0 } }
    let s : State := if n = 0 ∨ q ≠ [] then s else
      match s.tt.ring.getLast? with
      | some r => { s with tt := { s.tt with ring := s.tt.ring.dropLast ++ [{ r with rep := min (r.rep + n) 65535, lastbeat := s.word 0x80008 }],
                                             marked := if r.seq ∈ s.tt.marked then s.tt.marked else s.tt.marked ++ [r.seq] } }
      | none => s
    q.foldl State.pushRec s

/-- A host-side write to TT_RDCNT (R601). -/
def State.ttConsume (s : State) (v : BitVec 32) : State :=
  let r := s.fld fRDCNT
  let w := s.fld fWRCNT
  if (v.toNat + 2 ^ 32 - r) % 2 ^ 32 ≤ (w + 2 ^ 32 - r) % 2 ^ 32 then s.setFld fRDCNT v.toNat else s.setFld fBADRD 1

/-- MCLEAR: the MRAM store empties, SEQ stays (R601). -/
def State.ttMclear (s : State) : State := { s with tt := { s.tt with store := [] } }

end Sys2Proof.Machine
end

