-- ==== Sys2Proof/Machine/RegWrite.lean ====
section
/-! DEFINITION. Writing registers: the checks of a SETUP list and of an MMIO write (R603, R604, R607 to R621, R662), the
stored effect by access code (R620), and what a write to a register with behaviour of its own starts. -/

namespace Sys2Proof.Machine
open Sys2Proof.Reg

/-- One write of a word: its 8-byte-aligned offset, value and mask, and whether it names a 32-bit register. -/
structure WordWrite where
  off : Nat
  value : BitVec 64
  mask : BitVec 64
  w32 : Bool
  deriving DecidableEq, Repr

/-- The bits of a field in its word. -/
def fieldMask (f : Nat × Field) : Nat := ((2 ^ f.2.w - 1) <<< f.1) % 2 ^ 64

/-- A write that names half of a word (R614, W32 of R619). -/
def halfWrite (off : Nat) (value mask : BitVec 64) : WordWrite :=
  if off % 8 = 4 then ⟨off - 4, value <<< 32, (mask &&& 0xFFFFFFFF) <<< 32, true⟩
  else ⟨off, value &&& 0xFFFFFFFF, mask &&& 0xFFFFFFFF, true⟩

/-! ## Stored effect -/

/-- What a field becomes (R615, R620): WO and W1S fields hold nothing, a counter is cleared by a write of 0. -/
def fieldAfter (old v m : Nat) (f : Nat × Field) : Nat :=
  let fm := fieldMask f
  let mk := m &&& fm
  let new := (old &&& fm &&& (2 ^ 64 - 1 - mk)) ||| (v &&& mk)
  if mk = 0 then old &&& fm
  else match f.2.acc with
    | .ro => old &&& fm
    | .wo => old &&& fm
    | .w1s => old &&& fm
    | .w1c => old &&& fm &&& (2 ^ 64 - 1 - (v &&& mk))
    | _ => if f.2.cnt then (if new = 0 then 0 else old &&& fm) else new

/-- The stored word after a write. -/
def wordAfter (off : Nat) (old v m : BitVec 64) : BitVec 64 :=
  BitVec.ofNat 64 ((fieldsAt off).foldl (fun n f => n ||| fieldAfter old.toNat v.toNat m.toNat f) 0)

/-- Stores a write; SOL_WSBASE and SOL_WSLEN keep their values while a structure is resident (R258). -/
def State.store (s : State) (w : WordWrite) : State :=
  if 0xA0000 ≤ w.off ∧ w.off < 0xB0000 ∧ w.off % 0x4000 < 0x10 ∧ (SM.getD emptySol s.live.sol ((w.off - 0xA0000) / 0x4000)).resident
  then s else s.setWord w.off (wordAfter w.off (s.word w.off) w.value w.mask)

/-! ## Rules that refuse (R607) -/

/-- The partition of R318 holds for the values in force. -/
def State.partOk (s : State) : Bool :=
  let n := fun k => (s.groupsOf k).length
  let b := buddyCount s.fleetSize
  (List.range 16).all (fun g => s.groupKind g ≤ 4 && !(2 ≤ s.groupKind g && (s.fld fSPREAD).testBit g))
    && decide (n 2 ≤ max (n 1) 1) && (decide (n 1 = 0 ∧ s.fld fCOWMASK = 0) || decide (1 ≤ n 2))
    && decide (n 3 = if 1 ≤ b then n 1 else 0) && decide (n 4 = if 2 ≤ b then n 1 else 0) && decide (n 2 + n 3 + n 4 ≤ 12)

/-- An imposed class that R33 and R610 accept. -/
def State.imposeOk (s : State) (c : BitVec 128) : Bool :=
  c = 0 || (c &&& ~~~ s.ownClass == 0 && decide (c.toNat < 2 ^ 100) && decide (c.toNat % 2 ^ 32 ≠ 0)
    && decide (getBits c.toNat 36 48 ≠ 0)
    && ((s.crew.isEmpty && !s.isCrew) || decide (getBits c.toNat 84 16 ≠ 0))
    && s.crew.all (fun n =>
      let up := (setBits 16 (s.fld (fRoute (s.fld (fFleet n))))).filter (fun p => (s.port p).st = .up)
      match up with
      | [p] => c.getLsbD (84 + p)
      | _ => true))

/-- The word at `off` is written. -/
def touches (ws : List WordWrite) (lo hi : Nat) : Bool := ws.any (fun w => decide (lo ≤ w.off) && decide (w.off < hi) && w.mask ≠ 0)

/-- A P3 setting (R602, R603). -/
def isP3 (w : WordWrite) : Bool :=
  (w.mask ≠ 0) && (w.off == 0x30000 || w.off == 0x30008 || (w.off == 0x30010 && w.mask.getLsbD 0)
    || w.off == 0x30060 || w.off == 0x30068 || w.off == 0x300C0 || w.off == 0x300C8 || w.off == 0x300D0
    || w.off == 0x300E0 || w.off == 0x300E8 || (decide (0x24000 ≤ w.off) && decide (w.off < 0x26000)))

/-- A unit that CHK_REPORT may name: one of the node's map class (R514). -/
def State.reportOk (s : State) (u : UnitId) : Bool :=
  let t := 8 * (uDie u - 1) + uPos u
  let onTile := decide (1 ≤ uDie u) && decide (uDie u ≤ 4) && s.ownClass.getLsbD t
  match uKind u with
  | 0x01 => onTile && decide (uIdx u < 68)
  | 0x02 => onTile && decide (uIdx u < 528)
  | 0x03 => onTile && decide (uIdx u < 4224)
  | 0x04 => onTile && decide (uIdx u < 2048)
  | 0x05 => onTile && decide (uIdx u < 786688)
  | 0x06 => decide (uIdx u < 52) && !s.part.map.any (fun e => meKind e = 6 ∧ meUnit e = uIdx u)
  | 0x07 => decide (uIdx u < 54912)
  | 0x20 => onTile
  | 0x21 => onTile
  | 0x22 => onTile
  | 0x23 => decide (uIdx u < 4) && s.ownClass.getLsbD (32 + uIdx u % 4)
  | 0x24 => decide (uIdx u < 16) && s.ownClass.getLsbD (84 + uIdx u % 16)
  | _ => false

/-- The reasons of R607 for which the writes `ws` that take `s` to `t` are refused, in ascending order. -/
def refusals (s t : State) (ws : List WordWrite) : List Nat :=
  let locked := s.flag fJOBLOCK && ws.any (fun w => (fieldsAt w.off).any (fun f =>
    f.2.acc == .rwl && decide (w.mask.toNat &&& fieldMask f ≠ 0)))
  let fleetsz := touches ws 0x30028 0x30030
  let rank := touches ws 0x70000 0x70008
  let code := s.fld fSTRCODE
  (if s.stepOpen && ws.any isP3 then [0x1401] else [])
  ++ (if locked then [0x1402] else [])
  ++ (if touches ws 0x30000 0x30010 && t.exact && !Mx.planOk (t.fld fPLAN) then [0x1403] else [])
  ++ (if touches ws 0x30070 0x30080 && !s.imposeOk t.impose then [0x1404] else [])
  ++ (if (fleetsz && ((decide (s.role = 0) && decide (1 < t.fleetSize)) || (!s.largeClass && decide (16 < t.fleetSize))
          || (s.isMast && decide (1 + t.crew.length < t.fleetSize))))
        || (touches ws 0x10A08 0x10C00 && !s.largeClass && decide (15 < t.crew.length) && decide (s.crew.length < t.crew.length))
      then [0x1405] else [])
  ++ (if (rank || fleetsz) && !(if s.role = 0 then decide (t.fld fRANK = 0) else decide (t.fld fRANK = 0xFFF) || decide (t.fld fRANK < t.fleetSize))
      then [0x1406] else [])
  ++ (if (touches ws 0x70008 0x70018 || touches ws 0x30030 0x30038 || fleetsz) && !t.partOk then [0x1407] else [])
  ++ (if touches ws 0x300C0 0x300F0 && ((decide (t.fld fRMODE = 2) && !t.exact) || (decide (t.fld fRMODE ≠ 0) && !t.flag fLOGEN)
        || ((t.flag fDETAIL || t.flag fHALT) && decide (t.fld fRMODE = 0)) || (decide (t.fld fRMODE = 2) && decide (t.fld fEXPBASE = 0)))
      then [0x1408] else [])
  ++ (if ws.any (fun w => w.off = 0x40038 ∧ getBits (w.value &&& w.mask).toNat 0 2 = 1) && s.furlRefused then [0x140B] else [])
  ++ (if (s.isCrew && ws.any (fun w => w.off = 0x40038 ∧ getBits (w.value &&& w.mask).toNat 0 2 = 2)) || (code = 12 || code = 13) && (touches ws 0x20018 0x20020 || touches ws 0x24000 0x26000 || fleetsz || touches ws 0x30070 0x30080)
      then [0x140C] else [])
  ++ (if (List.range 64).any (fun n => decide (0 < n) && touches ws (0x10A00 + 8 * n) (0x10A08 + 8 * n)
        && decide (s.fld (fFleet n) ≠ 0) && decide (t.fld (fFleet n) = 0) && (s.rankOf n).isSome) then [0x140E] else [])
  ++ (if ws.any (fun w => w.off = 0x90030 ∧ w.mask ≠ 0 ∧ ¬ s.reportOk (BitVec.ofNat 38 (w.value &&& w.mask).toNat)) then [0x140F] else [])

/-- BAD_REG for one entry (R621): a reserved or RO bit, a field SETUP may not write, a value outside its range, a field of a
64-bit register that reaches beyond a W32 entry's half. -/
def State.badReg (s : State) (w : WordWrite) : Bool :=
  let fs := fieldsAt w.off
  let all := fs.foldl (fun n f => n ||| fieldMask f) 0
  let after := (wordAfter w.off (s.word w.off) w.value w.mask).toNat
  fs.isEmpty || decide (w.mask.toNat &&& all ≠ w.mask.toNat) || decide (0x1000000 ≤ w.off) || fs.any (fun f =>
    decide (w.mask.toNat &&& fieldMask f ≠ 0) && (f.2.acc == .ro || f.2.via == .host
      || (w.w32 && decide (f.1 / 32 ≠ (f.1 + f.2.w - 1) / 32))
      || (match f.2.rng with
        | some (lo, hi) =>
          let v := if f.2.acc = .wo then getBits (w.value &&& w.mask).toNat f.1 f.2.w else getBits after f.1 f.2.w
          !(decide (lo ≤ v) && decide (v ≤ hi))
        | none => false)))

/-! ## Registers with behaviour of their own -/

/-- The enable bit of a submission ring changes (R49). -/
def State.sqEnable (s : State) (r : Nat) (old : BitVec 64) : State :=
  let new := s.word (fSqCfg r)
  let q := s.ring r
  if ¬ old.getLsbD 0 ∧ new.getLsbD 0 then { s.setRing r {} with lastSeal := SM.setD 0 s.lastSeal r 0 }
  else if old.getLsbD 0 ∧ ¬ new.getLsbD 0 then
    if q.retire = q.head then s.setRing r { q with disabling := false }
    else (s.setRing r { q with disabling := true }).setWord (fSqCfg r) (new ||| 1)
  else if old.getLsbD 0 ∧ new.getLsbD 0 then s.setRing r { q with disabling := false }
  else s

/-- The enable bit of a completion ring changes (R49). -/
def State.cqEnable (s : State) (c : Nat) (old : BitVec 64) : State :=
  if ¬ old.getLsbD 0 ∧ (s.word (fCqCfg c)).getLsbD 0 then s.setCring c {} else s

/-- NaN watch's clear (R108). -/
def State.nanClear (s : State) : State :=
  { s with comm := { s.comm with nan := 0 }, live := { s.live with nan := 0 }, nanStep := 0, stopped := [],
           steps := s.steps.map (fun (x : Step) => { x with nanMore := 0 }) }

/-- Contexts are derived again at the next drawing descriptor (R215). -/
def State.rederive (s : State) : State :=
  let f := fun (m : SM RngCtx) => m.map (fun (p : Nat × RngCtx) => (p.1, { p.2 with derived := false }))
  { s with comm := { s.comm with rng := f s.comm.rng }, live := { s.live with rng := f s.live.rng } }

/-- A lost page is refilled with zeros and its entry freed (R306). -/
def State.freeLost (s : State) (i : Nat) : State :=
  let page := s.fld (fLostPage i)
  let s := { s with mem := memWrite s.mem (page * 4096) (List.replicate 4096 0) }
  let s := (s.setFld (fLostPage i) 0).setFld (fLostKind i) 0
  ((s.setFld (fLostTag i) 0).setFld (fLostValid i) 0).setFld fLOSTCOUNT (s.fld fLOSTCOUNT - 1)

/-- A security command is asked for: BUSY while one runs (R571). -/
def State.mbStart (s : State) (code : Nat) : State :=
  if s.sec.pending ≠ 0 then s.setFld fMBSTAT 1
  else if 1 ≤ code ∧ code ≤ 10 then { s with sec := { s.sec with pending := code } }.setFld fMBSTAT 1
  else s.setFld fMBSTAT 4

/-- The node takes a fleet map. When it changes while the node waits for GO, buddies at changed indices are rebuilt (R481). -/
def State.newMap (s : State) (ids : List Nat) : State :=
  let old := fun n => s.fld (fFleetMap n)
  let rb := if s.holdsRank ∧ s.rec_.waitGo then
      (List.range (buddyCount s.fleetSize)).filter (fun b =>
        let n := s.idxOfRank (buddyRank s.fleetSize (s.fld fRANK) b)
        old n != ids.getD n 0)
    else []
  let s := (List.range 64).foldl (fun s n => s.setFld (fFleetMap n) (ids.getD n 0)) s
  let s : State := { s with pw := { s.pw with mast := ids.getD 0 0 } }
  if rb.isEmpty then s
  else { s with rec_ := { s.rec_ with rebuild := (s.rec_.rebuild ++ rb).eraseDups } }.setFld fREBUILD 1

/-- The map that HIF_FLEETn and the masthead's own node ID give. -/
def State.mapIds (s : State) : List Nat :=
  (List.range 64).map (fun n => if n = 0 then 4096 + s.fld fNODEID else
    let f := s.fld (fFleet n)
    if f = 0 then 0 else 4096 + f)

/-- The masthead tells its crew the outbound windows that bound their DMA (R72, log 46). -/
def State.tellWindows (s : State) : State := s.broadcast (.relay (.windows s.windows))

/-- The masthead writes the table into every member with its own partition settings (R353, R467). -/
def State.sendMap (s : State) : State :=
  let ids := s.mapIds
  ((s.newMap ids).broadcast (.fleetMap ids (s.word 0x70008) (BitVec.ofNat 16 (s.fld fCOWMASK)))).tellWindows

/-- HIF_FLEETn has changed in a masthead (R70, R497): the crew node is told its index; the map is written when the fleet forms,
which is before any step of the job, and otherwise at the next commit. -/
def State.fleetChanged (s old : State) (n : Nat) : State :=
  let v := s.fld (fFleet n)
  if ¬ s.isMast ∨ v = old.fld (fFleet n) then s
  else
    let s := if v = 0 then s else (s.send ⟨7, BitVec.ofNat 12 v, 0xFFFF, 32, .fleet (.index n)⟩).toCrew n (.windows s.windows)
    if s.comm.lastTag = 0 ∧ ¬ s.stepOpen then s.sendMap else s

/-- The locker is unusable, or its range too small for two slots (R486): judged when the range or the partition is written. -/
def State.lockerRange (s : State) : State :=
  s.setFld fNOLOCKER (if s.pw.lockerOk && decide (2 * s.slotBlocks ≤ s.fld fLKCOUNT) then 0 else 1)

/-- Under imposition a port that the class in force lacks is held idle in standby (R34). -/
def State.idlePorts (s : State) : State :=
  { s with ports := s.ports.map (fun (p : Nat × Port) =>
      (p.1, if s.portOn p.1 then p.2 else { p.2 with st := .standby, retry := [], credits := [], fast := none, furled := false })) }

/-- A JOB command at the node that takes it: with crew, the map is written again after the command (R353, R533). -/
def State.jobStart (s : State) (id : BitVec 16) : State :=
  if s.crew.isEmpty ∨ s.inReset ∨ s.pw.mapDamaged then s.jobCmd id else (s.jobCmd id).sendMap

/-- What a stored write starts. `old` is the state before the write. -/
def State.react (s old : State) (w : WordWrite) : State :=
  let o := w.off
  let v := (w.value &&& w.mask).toNat
  if w.mask = 0 then s
  else if 0x10000 ≤ o ∧ o < 0x10200 then s.sqEnable ((o - 0x10000) / 8) (old.word o)
  else if 0x10200 ≤ o ∧ o < 0x10280 then s.cqEnable ((o - 0x10200) / 8) (old.word o)
  else if 0x10A08 ≤ o ∧ o < 0x10C00 then s.fleetChanged old ((o - 0x10A00) / 8)
  else if 0x10C00 ≤ o ∧ o < 0x10D00 then s.tellWindows
  else if o = 0x30070 ∨ o = 0x30078 then s.idlePorts
  else if o = 0x70008 ∨ o = 0x70010 then (if s.crew.isEmpty then s.lockerRange else s.lockerRange.sendMap)
  else if 0x70048 ≤ o ∧ o < 0x70060 then s.lockerRange
  else if o = 0x30000 then (if old.exact = s.exact then s else s.rederive)
  else if o = 0x30010 then (if v.testBit 1 then s.nanClear else s)
  else if o = 0x30060 ∨ o = 0x30068 then
    let lo := 8 * (o - 0x30060)
    let k := fun (key : BitVec 128) => BitVec.ofNat 128 (putBits key.toNat lo 64
      ((getBits key.toNat lo 64 &&& (2 ^ 64 - 1 - w.mask.toNat)) ||| v))
    { s with comm := { s.comm with key := k s.comm.key }, live := { s.live with key := k s.live.key } }.rederive
  else if o = 0x300D0 then (if ¬ old.flag fLOGEN ∧ s.flag fLOGEN then { s with logWr := 0, logQ := [] }.setFld fLOGHEAD 0 else s)
  else if o = 0x300D8 then s.logOut s.logQ
  else if o = 0x300F0 then
    (if v.testBit 7 then State.setFld { s with rec_ := { s.rec_ with haltFetch := false } } fDIVCAUSE 0 |>.setFld fDIVTAG 0 else s)
  else if o = 0x40000 then
    let s := if v.testBit 8 then s.setFld fJOBLOCK 1 else s
    if getBits v 0 8 = 0xA5 then s.warm 5 else s
  else if o = 0x40010 then (if getBits v 16 8 = 0xA5 then s.jobStart (BitVec.ofNat 16 v) else s)
  else if o = 0x40018 then s.blkRequest (getBits v 0 8)
  else if o = 0x40038 then (if getBits v 0 2 = 1 then s.furlSelf else s)
  else if o = 0x50000 then
    let s := if v.testBit 12 then s.fire (s.fld fFCODE) 0xF0 (s.fld fFARG) true else s
    let s := if v.testBit 13 then s.ttFreeze else s
    let s := if v.testBit 14 then s.ttThaw else s
    let s := if v.testBit 15 then s.startFlush else s
    if getBits v 16 8 = 0xA5 then s.ttMclear else s
  else if o = 0x50018 then State.ttConsume (s.setFld fRDCNT (old.fld fRDCNT)) (BitVec.ofNat 32 v)
  else if o = 0x60000 then s.mbStart (getBits v 0 8)
  else if o = 0x90030 then s.event 14 [(BitVec.ofNat 38 v, false)]
  else if 0x91000 ≤ o ∧ o < 0x91400 ∧ o % 16 = 0 then
    (if v.testBit 47 ∧ old.flag (fLostValid ((o - 0x91000) / 16)) then s.freeLost ((o - 0x91000) / 16) else s)
  else if 0x100000 ≤ o ∧ o < 0x180000 ∧ o % 0x4000 = 0 then
    let t := (o - 0x100000) / 0x4000
    let f := fun (m : SM (BitVec 8)) => SM.setD 0 m t (SM.getD 0 m t &&& ~~~ (BitVec.ofNat 8 v))
    { s with comm := { s.comm with flags := f s.comm.flags }, live := { s.live with flags := f s.live.flags } }
  else if 0x100000 ≤ o ∧ o < 0x180000 ∧ o % 0x4000 = 8 then
    let t := (o - 0x100000) / 0x4000
    if v = 0 ∧ getBits w.mask.toNat 0 32 = 2 ^ 32 - 1 then
      { s with comm := { s.comm with uf := SM.setD 0 s.comm.uf t 0 }, live := { s.live with uf := SM.setD 0 s.live.uf t 0 } }
    else s
  else if o = 0x200080 then
    let m := ~~~ BitVec.ofNat 6 (v >>> 4)
    { s with comm := { s.comm with spFlags := s.comm.spFlags &&& m }, live := { s.live with spFlags := s.live.spFlags &&& m } }
  else s

/-- One write: stored, then what it starts; the BID's registers are MODE's. -/
def State.applyWrite (s : State) (w : WordWrite) : State :=
  if 0x30000 ≤ w.off ∧ w.off < 0x40000 then ((s.store w).react s w).reportBid else (s.store w).react s w

/-! ## SETUP (R619 to R621) and MMIO (R614, R617, R618, R662) -/

/-- The verdict over a list of entries: a BAD_REG cause, a refusal reason, or the state after them as one action. -/
inductive Verdict where
  | badReg
  | refused (reason : Nat)
  | done (s : State)

/-- A checked list of writes. -/
def State.setupWrites (s : State) (ws : List WordWrite) : Verdict :=
  if ws.any s.badReg then .badReg
  else match refusals s (ws.foldl State.store s) ws with
    | r :: _ => .refused r
    | [] => .done (ws.foldl State.applyWrite s)

/-- While READY is clear the endpoint retries (R546), and during WARM only GLB and RST are written (R548). -/
def State.mmioOpen (s : State) (o : Nat) : Bool :=
  !s.pw.booting || (s.pw.warm && (decide (o < 0x10000) || (decide (0x40000 ≤ o) && decide (o < 0x50000))))

/-- A host-side MMIO write, or a unit's write (R584), to a BAR0 offset below the crew windows. -/
def State.mmioWrite (s : State) (src : WriteSrc) (off : Nat) (wide : Bool) (value : BitVec 64) : State :=
  let w : WordWrite := if wide then ⟨off, value, BitVec.allOnes 64, false⟩ else halfWrite off value (BitVec.allOnes 64)
  let o := w.off
  if off % (if wide then 8 else 4) ≠ 0 ∨ ¬ s.mmioOpen o then s
  else if s.blkOff o then s.setFld fBLKWR 1
  else match src with
  | .unit u =>
    if (fieldsAt o).any (fun f => f.2.via = .host) then
      let s := s.incFld fBNDCNT
      if s.sec.boundSeen.contains o then s
      else State.fire { s with sec := { s.sec with boundSeen := o :: s.sec.boundSeen } } 0x009 u.toNat off
    else s
  | .host =>
    if 0x14000 ≤ o ∧ o < 0x1C000 then
      let k := (o - 0x14000) / 8
      let v := (s.msixWord k &&& ~~~ w.mask) ||| (w.value &&& w.mask)
      State.sendPending { s with msix := SM.setD (msixReset k) s.msix k v }
    else
      let lock := s.flag fJOBLOCK
      let shut := fun (f : Nat × Field) => f.2.via == .setup || (f.2.acc == .rwl && lock)
      let hit := (fieldsAt o).any (fun f => shut f && f.2.acc != .ro && decide (w.mask.toNat &&& fieldMask f ≠ 0))
      let spans := fun (f : Nat × Field) => w.w32 && decide (f.1 / 32 ≠ (f.1 + f.2.w - 1) / 32)
      let open_ := (fieldsAt o).foldl (fun n f => if shut f || f.2.acc == .ro || spans f then n else n ||| fieldMask f) 0
      let w' := { w with mask := w.mask &&& BitVec.ofNat 64 open_ }
      let s := if hit then s.setFld fLOCKWR 1 else s
      let after := (wordAfter o (s.word o) w'.value w'.mask).toNat
      let out := (fieldsAt o).any (fun f => match f.2.rng with
        | some (lo, hi) => decide (w'.mask.toNat &&& fieldMask f ≠ 0) && f.2.acc != .wo
            && !(decide (lo ≤ getBits after f.1 f.2.w) && decide (getBits after f.1 f.2.w ≤ hi))
        | none => false)
      if out ∨ refusals s (s.store w') [w'] ≠ [] then
        let s := if refusals s (s.store w') [w'] = [0x1405] ∧ touches [w'] 0x10A08 0x10C00 then s.setFld fOVER 1 else s
        s.setFld fBADWR 1
      else s.applyWrite w'

end Sys2Proof.Machine
end

