-- ==== Sys2Proof/Machine/Regions.lean ====
section
/-! DEFINITION. Weight regions as ranges of node memory (R188 to R192), and what a locker checkpoint of compact class makes of
their state ranges (R491). -/

namespace Sys2Proof.Machine

def tileStride : Nat := 2 ^ 34

/-- The tiles of a region's shards, rising (R190). -/
def shardTiles (r : Region) : List Nat := setBits 32 r.mask.toNat

/-- Blocks of a shard. -/
def shardBlocks (r : Region) : Nat := if r.shard then r.count / (shardTiles r).length else r.count

/-- The (start, length) ranges of a region at a base, with `k` bytes for each block. -/
def regionRanges (r : Region) (base k : Nat) : List (Nat × Nat) :=
  if r.count = 0 then []
  else if r.shard then (shardTiles r).map (fun t => (base + t * tileStride, k * shardBlocks r))
  else [(base, k * r.count)]

def loRanges (r : Region) : List (Nat × Nat) := regionRanges r r.lo 2048
def hiRanges (r : Region) : List (Nat × Nat) := regionRanges r r.hi 2048
def stRanges (r : Region) : List (Nat × Nat) := if r.st = 0 then [] else regionRanges r r.st 8192

/-- Two ranges share a byte. -/
def overlaps (a n b m : Nat) : Bool := decide (0 < n) && decide (0 < m) && decide (a < b + m) && decide (b < a + n)

/-- An access touches a low range (R192). -/
def State.touchesLow (s : State) (a n : Nat) : Bool :=
  s.live.regions.any (fun p => (loRanges p.2).any (fun q => overlaps a n q.1 q.2))

/-- Cause LOW_HALF. -/
def causeLOW_HALF : Nat := 0x0609

/-- The stack-local order of the pages of a group: page `j` of stack `k` of group `g` (R292, R487). -/
def State.stackPage (s : State) (g k j : Nat) : Nat :=
  if (s.fld fSPREAD).testBit g then
    let hi := (j / 2) <<< 18
    let f := getBits hi 18 5 ^^^ getBits hi 23 5 ^^^ getBits hi 28 5 ^^^ getBits hi 33 2
    let r := hi + (k ^^^ f) * 8192 + (j % 2) * 4096
    (r / 2 ^ 30 * 2 ^ 34 + g * 2 ^ 30 + r % 2 ^ 30) / 4096
  else (k * 2 ^ 34 + g * 2 ^ 30) / 4096 + j

/-- Pages of one segment. -/
def segPages : Nat := 262144

/-- The page at position `q` of the segments, which follow one another (R487). -/
def State.segPage (s : State) (q : Nat) : Nat :=
  let k := q / segPages
  s.stackPage ((s.groupsOf 1).getD (k / 32) 0) (k % 32) (q % segPages)

/-- A page of the state range of a region of a register state (R491). -/
def isMoment (c : RegState) (page : Nat) : Bool :=
  c.regions.any (fun p => (stRanges p.2).any (fun q => decide (q.1 ≤ page * 4096) && decide (page * 4096 + 4096 ≤ q.1 + q.2)))

/-- Bytes that a page takes in a checkpoint of a class. -/
def pageBytesIn (cls : Nat) (c : RegState) (page : Nat) : Nat := if cls = 1 ∧ isMoment c page then 2048 else 4096

/-- A page's bytes as a checkpoint stores them: EQ16 for a page of moments in the compact class (R491). -/
def packPage (cls : Nat) (c : RegState) (page : Nat) (bs : List Byte) : List Byte :=
  if cls = 1 ∧ isMoment c page then
    (chunks 4 1024 bs).flatMap (fun b => leBytes 2 (Fp.convert .fp32 .eq16 .rne (leNat b)).1)
  else bs

/-- The page that stored bytes give back. -/
def unpackPage (cls : Nat) (c : RegState) (page : Nat) (bs : List Byte) : List Byte :=
  if cls = 1 ∧ isMoment c page then
    (chunks 2 1024 bs).flatMap (fun b => leBytes 4 (Fp.convert .eq16 .fp32 .rne (leNat b)).1)
  else bs

end Sys2Proof.Machine
end

