-- ==== Sys2Proof/Machine/Host.lean ====
section
/-! DEFINITION. Host interface: doorbells, fetching, rings, immediate descriptors, seals and data movement (chapter 02), and
the SETUP rows that other chapters name. -/

namespace Sys2Proof.Machine

/-! ## Doorbells (R51, R56, R57) -/

/-- A tail doorbell of this node. DESIGN CHOICE (log 42): a doorbell to a ring that is halted already changes nothing. -/
def State.tailBell (s : State) (r : Nat) (v : BitVec 32) : State :=
  let w := s.word (fSqCfg r)
  let q := s.ring r
  if ¬ w.getLsbD 0 then s.incFld fDBDROP
  else if q.halted then s
  else if (q.tail - q.retire).toNat ≤ (v - q.retire).toNat ∧ (v - q.retire).toNat ≤ cfgSize w then s.setRing r { q with tail := v }
  else s.haltRing r

/-- A head doorbell of this node. -/
def State.headBell (s : State) (c : Nat) (v : BitVec 32) : State :=
  let q := s.cring c
  if ¬ (s.word (fCqCfg c)).getLsbD 0 then s.incFld fDBDROP
  else if (v - q.head).toNat ≤ (q.written - q.head).toNat then s.setCring c { q with head := v }
  else s.incFld fDBDROP

/-- A write to this node's doorbell page (R56). A doorbell wakes a Furled node (R554). -/
def State.bell (s : State) (off : Nat) (v : BitVec 64) : State :=
  let s := s.wakeSelf
  if off % 8 = 0 ∧ off < 0x200 then s.tailBell (off / 8) (v.setWidth 32)
  else if off % 8 = 0 ∧ 0x400 ≤ off ∧ off < 0x480 then s.headBell ((off - 0x400) / 8) (v.setWidth 32)
  else s.incFld fDBDROP

/-- A doorbell write at the endpoint: page 0 is the masthead's or standalone node's own, page n is relayed to the crew node that HIF_FLEETn
names (R71). DESIGN CHOICE (log 42): one to the page of an empty index is dropped and counted in HIF_DBDROP. -/
def State.bellPage (s : State) (page : Fin 64) (off : Nat) (wide : Bool) (v : BitVec 64) : State :=
  if s.pw.booting then s
  else if page.val = s.myIdx then s.bell off v
  else if s.isMast ∧ s.fld (fFleet page.val) ≠ 0 then s.toCrew page.val (.doorbell page off wide v)
  else s.incFld fDBDROP

def execDoorbellTail (page : Fin 64) (off : Nat) (wide : Bool) (value : BitVec 64) (s : State) : Res :=
  .next (s.bellPage page off wide value)

def execDoorbellHead (page : Fin 64) (off : Nat) (wide : Bool) (value : BitVec 64) (s : State) : Res :=
  .next (s.bellPage page off wide value)

/-! ## Fetching (R43, R50, R55, R58 to R61, R659, R660) -/

/-- Whether an opcode is defined on a stream of a step ring (Table: opcode ranges). -/
def opOk (op stream : Nat) : Bool :=
  if op = 0 then true
  else if op = 3 ∨ op = 0x010 ∨ op = 0x011 ∨ op = 0x020 then stream == 5
  else if op = 0x100 then decide (stream ≤ 3) || stream == 5
  else if op = 0x101 then decide (stream ≤ 2)
  else if 0x102 ≤ op ∧ op ≤ 0x105 then stream == 2
  else if (0x200 ≤ op ∧ op ≤ 0x203) ∨ op = 0x280 then stream == 3
  else if op = 0x300 ∨ op = 0x301 then stream == 4
  else if op = 0x400 ∨ op = 0x401 then stream == 6
  else if 0x500 ≤ op ∧ op ≤ 0x503 then stream == 7
  else false

/-- The count that an index on a ring resolves to (R659). -/
def State.resolve (s : State) (r idx : Nat) : Nat :=
  let ret := (s.ring r).retire.toNat
  (ret + (idx + 65536 - ret % 65536) % 65536) % 2 ^ 32

/-- The valid fences of a descriptor, as (ring, count). A fence of an immediate descriptor on a count of an immediate ring
at which R51 lets no descriptor stand names one that has finished, and holds nothing (DEDUCED). -/
def State.fencesOf (s : State) (raw : BitVec 512) : List (Nat × Nat) :=
  ([0, 1].map (dFence raw)).filterMap (fun f =>
    let r := getBits f 16 6
    let c := s.resolve r (getBits f 0 16)
    let q := s.ring r
    if ¬ f.testBit 22 then none
    else if dTag raw = 0 ∧ s.isImm r ∧ cfgSize (s.word (fSqCfg r)) ≤ (c + 2 ^ 32 - q.retire.toNat) % 2 ^ 32 then none
    else some (r, c))

/-- Whether a descriptor with tag `tag` may not fence one with tag `other` (R43): another kind of ring, or a later step. -/
def tagBad (tag other : BitVec 64) : Bool := ((tag == 0) != (other == 0)) || decide (tag.toNat < other.toNat)

/-- A fence that R43 does not allow: one on a descriptor of a later or a committed step, or of the other kind of ring; or one on a
count at which R51 lets no uncommitted descriptor stand (DEDUCED). -/
def State.fenceBad (s : State) (tag : BitVec 64) (f : Nat × Nat) : Bool :=
  match s.desc? (.ring (Fin.ofNat 64 f.1) f.2) with
  | some d => tagBad tag (dTag d.raw) || (tag != 0 && decide ((dTag d.raw).toNat ≤ s.comm.lastTag.toNat))
  | none =>
    let w := s.word (fSqCfg f.1)
    !w.getLsbD 0 || (w.getLsbD 1 != (tag == 0)) || decide (cfgSize w ≤ (f.2 + 2 ^ 32 - (s.ring f.1).retire.toNat) % 2 ^ 32)

/-- A fence that still holds its descriptor back: the fenced one is not fetched or not finished. -/
def State.fenceHolds (s : State) (f : Nat × Nat) : Bool :=
  match s.desc? (.ring (Fin.ofNat 64 f.1) f.2) with
  | some d => d.st != .finished
  | none => decide ((f.2 + 2 ^ 32 - (s.ring f.1).retire.toNat) % 2 ^ 32 < 65536)

/-- The reason for which a step descriptor is refused with MODE_REFUSED (R464, R467, R545, R577, R215). -/
def State.modeReason (s : State) (ord : Nat) : Option Nat :=
  if s.rec_.mastPart.any (fun m => m.1 != s.word 0x70008 || m.2 != BitVec.ofNat 16 (s.fld fCOWMASK)) then some 0x1407
  else if ¬ s.holdsRank then some 0x1409
  else if s.lc = 0x0F ∨ s.lc = 0x1F ∨ s.flag fRECOVERY then some 0x140A
  else if s.exact ∧ 16384 ≤ ord then some 0x140D
  else none

/-- The digest terms of a descriptor or SETUP as fetched (kind 2, R454). -/
def fetchTerm (ring ord : Nat) (raw : BitVec 512) : BitVec 64 :=
  let a := ring * 16384 + ord
  Rng.digHash 2 (2 * a) (raw.toNat % 2 ^ 256) 0xFFFFFFFF + Rng.digHash 2 (2 * a + 1) (raw.toNat / 2 ^ 256) 0xFFFFFFFF

/-- How many uncommitted tags are earlier than a tag. -/
def State.older (s : State) (tag : BitVec 64) : Nat := (s.steps.filter (fun x => decide (x.tag.toNat < tag.toNat))).length

/-- Opens a step with the SETUPs that precede it (R59, R60, R454), and sets the job lock (R535). -/
def State.openStep (s : State) (tag : BitVec 64) : State :=
  if s.steps.any (fun x => x.tag = tag ∧ x.nDesc ≠ 0) then s else
    let mine := s.setups.filter (fun u => u.1 = 0 ∨ u.1 = tag)
    let s := (s.joinStep tag).updStep tag (fun x =>
      { x with setups := mine.map (·.2), idig := mine.foldl (fun n u => n + fetchTerm u.2.1 u.2.2.1 u.2.2.2) 0 })
    State.setFld { s with setups := s.setups.filter (fun (u : BitVec 64 × Nat × Nat × BitVec 512) => ¬ (u.1 = 0 ∨ u.1 = tag)) }
      fJOBLOCK 1

/-- A fetched descriptor joins the node; a status given at once finishes it. One that waits on it with a fence that R43 does not
allow completes with BAD_FENCE. DESIGN CHOICE (log 41): a STEP_SEAL that is refused itself leaves its step unsealed. -/
def State.admitStep (s : State) (r c : Nat) (raw : BitVec 512) (ord : Nat) (step : BitVec 64) (counts : Bool)
    (refusal : Option (Nat × Nat)) : State :=
  let ref : DRef := .ring (Fin.ofNat 64 r) c
  let d : InDesc := ⟨ref, raw, ord, step, counts, s.fencesOf raw, .waiting, 0, 0, 0, false, false, 0, []⟩
  let s := { s with descs := s.descs ++ [d] }
  let s := if step = 0 then s else s.updStep step (fun x => { x with nDesc := x.nDesc + 1, idig := x.idig + fetchTerm r ord raw })
  let stale := dTag raw ≠ 0 && decide ((dTag raw).toNat ≤ s.comm.lastTag.toNat)
  let s := (s.descs.filter (fun y => y.st = .waiting ∧ y.fences.contains (r, c) ∧ (stale ∨ tagBad (dTag y.raw) (dTag raw)))).foldl
    (fun s y => State.finish (if dOp y.raw = 3 then s.updStep y.step (fun x => { x with sealCnt := none }) else s) y.ref 0x0106 0) s
  match refusal with
  | some (st, re) => s.finish ref st re
  | none => s

/-- One descriptor of an immediate ring (R50). DESIGN CHOICE (log 40): another opcode than NOP, QUERY or SETUP completes with BAD_OPCODE;
where several refusals apply, the first in the order of the statements below is given. -/
def State.fetchImm (s : State) (r c : Nat) (raw : BitVec 512) : State :=
  let op := dOp raw
  let ord := (c + 2 ^ 32 - SM.getD 0 s.lastSeal r) % 2 ^ 32 % 16384
  let st : Option (Nat × Nat) :=
    if dTag raw ≠ 0 then some (0x0103, 0)
    else if 2 < op ∨ (op ≠ 0 ∧ dStream raw ≠ 5 ∧ dStream raw < 8) then some (stBAD_OPCODE, 0)
    else if 8 ≤ dStream raw then some (0x0101, 0)
    else if (setBits 32 (dMask raw)).any (fun t => !s.tileOn t) then some (0x0102, 0)
    else if (s.fencesOf raw).any (s.fenceBad 0) then some (0x0106, 0)
    else none
  s.admitStep r c raw ord 0 false st

/-- One descriptor of a step ring; none when head is held at it, since two older tags are uncommitted (R60). DESIGN CHOICE (log 40): where
several refusals apply, the first in the order of the statements below is given, and QUERY and SETUP complete with BAD_OPCODE. -/
def State.fetchStep (s : State) (r c : Nat) (raw : BitVec 512) : Option State :=
  let tag := dTag raw
  let op := dOp raw
  if tag = 0 ∨ tag.toNat ≤ s.comm.lastTag.toNat then
    let step := (s.steps.getLast?.map (·.tag)).getD 0
    let ord := (s.descs.filter (fun d => onRing r d.ref ∧ d.step = step ∧ dTag d.raw = tag)).length
    some (s.admitStep r c raw ord step false (some (if tag = 0 then 0x0103 else 0x0104, 0)))
  else if 2 ≤ s.older tag then none
  else
    let s := s.openStep tag
    let x := (s.step? tag).getD { tag := tag }
    let ord := (s.descs.filter (fun d => onRing r d.ref ∧ dTag d.raw = tag)).length
    let isSeal := op = 3
    let sealed := match x.sealCnt with
      | some n => isSeal || decide (n ≤ x.finished)
      | none => false
    let st : Option (Nat × Nat) :=
      if dStream raw < 8 ∧ ¬ opOk op (dStream raw) then some (stBAD_OPCODE, 0)
      else if 8 ≤ dStream raw then some (0x0101, 0)
      else if (setBits 32 (dMask raw)).any (fun t => !s.tileOn t) then some (0x0102, 0)
      else if sealed then some (0x0105, 0)
      else if (s.fencesOf raw).any (s.fenceBad tag) then some (0x0106, 0)
      else (s.modeReason ord).map (fun m => (stMODE_REFUSED, m))
    let s := if isSeal && st.isNone then
        { s.updStep tag (fun x => { x with sealCnt := some (dArg raw 0) }) with
          lastSeal := (List.range 64).foldl (fun m k => SM.setD 0 m k (s.ring k).head.toNat) s.lastSeal }
      else s
    some (s.admitStep r c raw ord tag (!isSeal) st)

/-- The queue of a stream: streams 3 and 4 share one (R183). -/
def queueOf (stream : Nat) : Nat := if stream = 4 then 3 else stream

/-- The tiles that a descriptor's mask selects. -/
def tilesOf (raw : BitVec 512) : List Nat := setBits 32 (dMask raw)

/-- Whether the queue of a descriptor's stream is full on some selected tile with descriptors fetched before it (R180): dispatch holds the
descriptor (R182). -/
def State.queueFull (s : State) (x : InDesc) : Bool :=
  let before := (s.descs.takeWhile (fun y => y.ref ≠ x.ref)).filter (fun y => queueOf (dStream y.raw) == queueOf (dStream x.raw))
  (tilesOf x.raw).any (fun t =>
    decide (32 ≤ (before.filter (fun y => (y.st == .waiting && (dMask y.raw).testBit t) || y.todo.testBit t)).length))

/-- Dispatch holds a ring's next descriptor because its queue is full, and the ring stops fetching (R182). -/
def State.dispatchHeld (s : State) (r : Nat) : Bool := s.descs.any (fun d => d.st == .waiting && onRing r d.ref && s.queueFull d)

/-- The node may fetch from a ring: enabled, not halted or disabling, READY; step rings also wait for GO and the other
conditions that stop them (R51, R49, R76, R306, R461, R479, R508, R556), its next descriptor is not held (R182), and no JOB reset is in
progress. -/
def State.mayFetch (s : State) (r : Nat) : Bool :=
  let q := s.ring r
  (s.word (fSqCfg r)).getLsbD 0 && !q.halted && !q.disabling && s.flag fREADY && !s.pw.jobBusy && decide (s.fld fPWRSTATE = 0)
    && (s.isImm r || !(s.rec_.waitGo || s.rec_.selfLost || s.rec_.relayLost || s.rec_.haltFetch || s.rec_.drained
      || s.pw.d3 || s.pw.d3Held || s.mh.unsecured)) && !s.rec_.relayLost && !s.dispatchHeld r

/-- Descriptors of a ring that have not started. -/
def State.unstarted (s : State) (r : Nat) : Nat := (s.descs.filter (fun d => d.st = .waiting ∧ onRing r d.ref)).length

/-- Fetches in ring order until the data ends or head is held (R55, R60, R585). A descriptor whose step committed before a
rollback is passed over when head comes to it again (R67, R68). -/
def State.fetchAll (s : State) (r : Nat) : List (BitVec 512) → State
  | [] => s
  | raw :: ds =>
    let w := s.word (fSqCfg r)
    let q := s.ring r
    let c := q.head.toNat
    if s.dispatchHeld r then s
    else if ¬ s.winOk false (getBits w.toNat 12 52 * 4096 + 64 * (c % cfgSize w)) 64 then s.haltRing r
    else
      let go := fun (s : State) => s.setRing r { s.ring r with head := q.head + 1 }
      if s.isImm r then ((go s).fetchImm r c raw).retireAll.fetchAll r ds
      else if s.descs.any (fun d => d.ref = .ring (Fin.ofNat 64 r) c ∧ d.committed) then (go s).retireAll.fetchAll r ds
      else match (go s).fetchStep r c raw with
        | some s => s.retireAll.fetchAll r ds
        | none => s

/-- R55, R60: a burst of at most 32 descriptors, within the 2 KiB of unstarted descriptors a ring may hold. -/
def execDescriptorFetch (r : Fin 64) (ds : List (BitVec 512)) (s : State) : Res :=
  let q := s.ring r
  if s.mayFetch r ∧ ds ≠ [] ∧ ds.length ≤ 32 ∧ ds.length ≤ (q.tail - q.head).toNat
      ∧ s.unstarted r + ds.length ≤ 32 then .next (s.fetchAll r ds)
  else .next s

/-! ## Starting a descriptor (R43, R44) -/

/-- An earlier descriptor of the same ring in the node's list. -/
def State.earlier (s : State) (d : InDesc) : List InDesc :=
  (s.descs.takeWhile (fun x => x.ref ≠ d.ref)).filter (fun x => onRing (ringNo d.ref) x.ref && onRing (ringNo x.ref) d.ref)

/-- Fences, SERIAL, the stream's ring order and the two oldest uncommitted tags let a descriptor start (R43, R44, R60); one that moves data
to or from the host waits while the relay is lost (R76). -/
def State.orderOk (s : State) (d : InDesc) : Bool :=
  decide (s.older d.step < 2) && !(s.rec_.relayLost && [1, 0x400, 0x401].contains (dOp d.raw))
    && !(d.fences.any s.fenceHolds)
    && !(dSerial d.raw && (s.earlier d).any (fun x => x.st != .finished))
    && !((s.earlier d).any (fun x => dStream x.raw = dStream d.raw
      && (x.st == .waiting || (decide (dOp d.raw ≠ 0x100 ∧ dOp d.raw ≠ 0x101) && x.todo &&& dMask d.raw != 0))))

/-- The shell of every descriptor's command: the named descriptor is held, has not started and carries an opcode that `op`
accepts; one whose start is not yet allowed is left as it is. -/
def State.start (s : State) (d : DRef) (op : Nat → Bool) (k : InDesc → State → State) : Res :=
  match s.desc? d with
  | none => .refused .notPending
  | some x =>
    if x.st ≠ .waiting ∨ ¬ op (dOp x.raw) then .refused .notPending
    else if ¬ s.orderOk x then .next s
    else .next (k x s)

/-- The descriptor has started. -/
def State.running (s : State) (d : DRef) (left : Nat) : State := s.updDesc d (fun x => { x with st := .running, left := left })

/-! ## Rings (R49), pointer records (R54), records that wait (R65), COMMIT_STALL (R41), poison (R38) -/

/-- The configuration register of a ring. -/
def cfgOff : QueueId → Nat
  | .sq r => fSqCfg r.val
  | .cq c => fCqCfg c.val

/-- R49: the write that sets EN. Records that waited for a ring that is enabled now are posted (R65). -/
def execRingEnable (q : QueueId) (cfg : BitVec 64) (s : State) : Res :=
  .next (State.flushRecs (s.mmioWrite .host (cfgOff q) true (cfg ||| 1)) [])

/-- R49: the write that clears EN. -/
def execRingDisable (q : QueueId) (cfg : BitVec 64) (s : State) : Res :=
  .next (s.mmioWrite .host (cfgOff q) true (cfg &&& ~~~ 1))

/-- AER logs a Poisoned TLP Received and reports it as non-fatal, at the endpoint that received it (R36, R38). -/
def State.aerPoisoned (s : State) : State := if s.isCrew then s else State.emit { s with aerPoison := true } .errNonFatal

/-- R38: poison in a descriptor fetch halts the ring; poison in D-stream data completes the descriptor. -/
def execPoisonedTlpReceived (w : PoisonHit) (s : State) : Res :=
  match w with
  | .ring r => if (s.word (fSqCfg r.val)).getLsbD 0 then .next (s.aerPoisoned.haltRing r.val) else .refused .notPending
  | .stream d =>
    match s.desc? d with
    | some x => if dOp x.raw ∈ [0x400, 0x401] ∧ x.st ≠ .finished then .next (s.aerPoisoned.finish d 0x0200 0) else .refused .notPending
    | none => .refused .notPending

/-- R54: the pointer record that is due at least every 10 µs while head moves. -/
def execPointerRecordWrite (r : Fin 64) (s : State) : Res :=
  if (s.word (fSqCfg r.val)).getLsbD 0 ∧ ¬ s.rec_.relayLost then .next (s.ptrRec r.val) else .next s

/-- R65: the records that waited for a completion ring are posted as far as it has room. -/
def execPostWaitingRecords (c : Fin 16) (s : State) : Res :=
  if s.recs.any (fun r => r.cq = c.val) ∧ ¬ s.rec_.relayLost then .next (s.flushRecs []) else .next s

/-! ## Immediate descriptors and seals (R61, R66, R619 to R622) -/

def execNop (d : DRef) (s : State) : Res :=
  s.start d (fun o => o = 0) (fun _ s => s.finish d stOK 0)

/-- RESULT of BAD_REG. -/
def causeBAD_REG : Nat := 0x1501

/-- R622. -/
def State.runQuery (d : DRef) (x : InDesc) (s : State) : State :=
  let off := dProg x.raw
  let n := dArg x.raw 3
  let host := dArg x.raw 0
  if n = 0 ∨ 256 < n ∨ off % 8 ≠ 0 ∨ 2 ^ 24 ≤ off ∨ host % 32 ≠ 0 then s.execError d causeBAD_REG
  else if ¬ s.winOk true host (8 * n) then s.finish d stOUT_OF_WINDOW 0
  else
    let ws := (List.range n).map (fun k => s.regRead (off + 8 * k))
    (s.hostWrite host (ws.flatMap (fun w => leBytes 8 w.toNat))).finish d stOK ((ws.headD 0).toNat % 2 ^ 32)

def execQuery (d : DRef) (s : State) : Res := s.start d (fun o => o = 1) (State.runQuery d)

/-- One entry of a SETUP list; none for a reserved bit or a misaligned offset (R619, R621). -/
def listEntry (e : BitVec 256) : Option WordWrite :=
  let o := getBits e.toNat 0 24
  let w32 := e.getLsbD 24
  if getBits e.toNat 25 39 ≠ 0 ∨ getBits e.toNat 192 64 ≠ 0 ∨ o % (if w32 then 4 else 8) ≠ 0 then none
  else
    let v := BitVec.ofNat 64 (getBits e.toNat 64 64)
    let m := BitVec.ofNat 64 (getBits e.toNat 128 64)
    some (if w32 then halfWrite o v m else ⟨o, v, m, false⟩)

/-- The writes of a SETUP: inline, or the list's entries. -/
def setupList (raw : BitVec 512) (list : List (BitVec 256)) : Option (List WordWrite) :=
  let n := getBits (dArg raw 3) 0 9
  let w32 := (dArg raw 3).testBit 9
  if dArg raw 3 / 1024 ≠ 0 ∨ 2 ^ 24 ≤ dProg raw ∨ 256 < n then none
  else if n = 0 then
    let o := dProg raw
    if o % (if w32 then 4 else 8) ≠ 0 then none
    else
      let v := BitVec.ofNat 64 (dArg raw 0)
      let m := BitVec.ofNat 64 (dArg raw 1)
      some [if w32 then halfWrite o v m else ⟨o, v, m, false⟩]
  else if dArg raw 2 % 32 ≠ 0 then none
  else (list.take n).mapM listEntry

/-- The tag of the newest step whose SETUPs this one joins: recorded apart until its step opens (R59, R454). -/
def State.noteSetup (s : State) (d : DRef) (x : InDesc) : State :=
  { s with setups := s.setups ++ [(0, ringNo d, x.ord, x.raw)] }

/-- A SETUP (R619 to R621, R66). A SETUP on an immediate ring ends Furled (R554). An empty crew entry refused for the size
of the fleet sets OVER (R70). -/
def State.runSetup (list : List (BitVec 256)) (d : DRef) (x : InDesc) (s : State) : State :=
  let n := getBits (dArg x.raw 3) 0 9
  let s := s.wakeSelf
  match setupList x.raw list with
  | none => s.execError d causeBAD_REG
  | some ws =>
    if n ≠ 0 ∧ ¬ s.winOk false (dArg x.raw 2) (32 * n) then s.finish d stOUT_OF_WINDOW 0
    else match s.setupWrites ws with
      | .badReg => s.execError d causeBAD_REG
      | .refused r =>
        let s := if r = 0x1405 ∧ touches ws 0x10A08 0x10C00 then s.setFld fOVER 1 else s
        s.finish d stMODE_REFUSED r
      | .done s => (s.noteSetup d x).finish d stOK 0

/-- The guard of every SETUP row: the data brought in are the list's COUNT entries. -/
def State.setupRow (d : DRef) (list : List (BitVec 256)) (want : WordWrite → Bool) (s : State) : Res :=
  match s.desc? d with
  | none => .refused .notPending
  | some x =>
    let n := getBits (dArg x.raw 3) 0 9
    if list.length ≠ (if n ≤ 256 then n else 0) then .refused .notPending
    else if ¬ ((setupList x.raw list).getD []).any want then .refused .notPending
    else s.start d (fun o => o = 2) (State.runSetup list d)

/-- R620. -/
def execSetup (d : DRef) (list : List (BitVec 256)) (s : State) : Res :=
  match s.desc? d with
  | none => .refused .notPending
  | some x =>
    let n := getBits (dArg x.raw 3) 0 9
    if list.length ≠ (if n ≤ 256 then n else 0) then .refused .notPending
    else s.start d (fun o => o = 2) (State.runSetup list d)

/-- R306: a SETUP that frees entries of CHK_LOSTLOG. -/
def execLostPageClear (d : DRef) (list : List (BitVec 256)) (s : State) : Res :=
  s.setupRow d list (fun w => decide (0x91000 ≤ w.off) && decide (w.off < 0x91400))

/-- R108: a SETUP that clears the NaN trap. -/
def execNanTrapClear (d : DRef) (list : List (BitVec 256)) (s : State) : Res :=
  s.setupRow d list (fun w => w.off == 0x30010 && w.mask.getLsbD 1)

/-- R452: a SETUP that imposes a class. -/
def execMapImpose (d : DRef) (list : List (BitVec 256)) (s : State) : Res :=
  s.setupRow d list (fun w => w.off == 0x30070 || w.off == 0x30078)

/-- R457: a SETUP that advances the log ring's head. -/
def execLogHeadUpdate (d : DRef) (list : List (BitVec 256)) (s : State) : Res :=
  s.setupRow d list (fun w => w.off == 0x300D8)

/-- R461: a SETUP that clears the divergence latch. -/
def execDivergeClear (d : DRef) (list : List (BitVec 256)) (s : State) : Res :=
  s.setupRow d list (fun w => w.off == 0x300F0)

/-- R514: a SETUP that reports a unit. -/
def execUnitReport (d : DRef) (list : List (BitVec 256)) (s : State) : Res :=
  s.setupRow d list (fun w => w.off == 0x90030)

/-- R555: a SETUP that requests Furled. -/
def execFurled (d : DRef) (list : List (BitVec 256)) (s : State) : Res :=
  s.setupRow d list (fun w => w.off == 0x40038 && w.value &&& w.mask &&& 3 == 1)

/-- R662: a write to a register, from the host or from a unit (R584); a write through the crew windows goes to window 0's
member, the node itself, here. -/
def execRegisterWrite (src : WriteSrc) (off : Nat) (wide : Bool) (value : BitVec 64) (s : State) : Res :=
  .next (s.mmioWrite src off wide value)

/-- R61: the seal finishes. In replay the node takes the next STEP entry of the expected log and compares its tag, its BID
hash and IDIG (R460); no further entry counts as a differing tag. -/
def State.runSeal (exp : Option ExpStep) (d : DRef) (x : InDesc) (s : State) : State :=
  let s := s.finish d stOK 0
  if s.fld fRMODE = 2 then
    match exp with
    | some e =>
      let idig := ((s.step? x.step).map Step.idig).getD 0
      let bad : BitVec 6 := (if e.bidHash ≠ s.bidHash then 1 else 0) ||| (if e.tag ≠ x.step then 2 else 0)
        ||| (if e.digest.extractLsb' 128 64 ≠ idig then 4 else 0)
      (s.updStep x.step (fun y => { y with expTag := e.tag, expDig := e.digest, expBid := e.bidHash })).diverge x.step bad
    | none => s.diverge x.step 2
  else s

def execStepSeal (d : DRef) (exp : Option ExpStep) (s : State) : Res := s.start d (fun o => o = 3) (State.runSeal exp d)

/-! ## Data movement (R45) -/

/-- Length or alignment against R45. -/
def badDma (host len : Nat) : Bool := len % 32 ≠ 0 || len < 32 || 2 ^ 30 < len || host % 32 ≠ 0

/-- R45: HTOD. The data come with the command; the write is digested as an input (kind 3, R454). -/
def State.runHtod (data : List Byte) (ev : List HwEv) (d : DRef) (x : InDesc) (s : State) : State :=
  let host := dArg x.raw 0
  let node := dArg x.raw 1
  let len := dArg x.raw 2
  if badDma host len then s.execError d 0x0201
  else if ¬ s.winOk false host len then s.finish d stOUT_OF_WINDOW 0
  else if s.touchesLow node len then s.execError d causeLOW_HALF
  else match s.write (s.writer d 0xF0 3) node data with
    | .error .wait => s
    | .error e => (s.noteErr e).execError d (e.cause 0x0902 0x0902)
    | .ok s' =>
      let (s, ok) := s.hwEvs x.step ev
      if ¬ ok then s else
      let (s', _) := s'.hwEvs x.step ev
      (s'.updStep x.step (fun y => { y with htod := y.htod + len })).finish d stOK 0

def execHtod (d : DRef) (data : List Byte) (ev : List HwEv) (s : State) : Res :=
  match s.desc? d with
  | none => .refused .notPending
  | some x =>
    if ¬ badDma (dArg x.raw 0) (dArg x.raw 2) ∧ data.length ≠ dArg x.raw 2 then .refused .notPending
    else s.start d (fun o => o = 0x400) (State.runHtod data ev d)

/-- R45: DTOH, whose reads may meet storage errors (R303). -/
def State.runDtoh (ev : List HwEv) (d : DRef) (x : InDesc) (s : State) : State :=
  let host := dArg x.raw 0
  let node := dArg x.raw 1
  let len := dArg x.raw 2
  if badDma host len then s.execError d 0x0201
  else if ¬ s.winOk true host len then s.finish d stOUT_OF_WINDOW 0
  else if s.touchesLow node len then s.execError d causeLOW_HALF
  else match s.read node len with
    | .error .wait => s
    | .error e => s.execError d (e.cause 0x0902 0x0902)
    | .ok bs =>
      let (s, ok) := s.hwEvs x.step ev
      if ok then (s.hostWrite host bs).finish d stOK 0 else s

def execDtoh (d : DRef) (ev : List HwEv) (s : State) : Res := s.start d (fun o => o = 0x401) (State.runDtoh ev d)

end Sys2Proof.Machine
end

