-- ==== Sys2Proof/Machine/Wire.lean ====
section
/-! DEFINITION. What travels on the wire, as bits: the headers of requests, responses, collective and trail packets (R362, R409,
R475), and the flit layout with its CRC (R330). -/

namespace Sys2Proof

def fb (b : Bool) : Nat := if b then 1 else 0

/-- The 32-byte request header (R362). -/
def Request.header (r : Request) : Nat :=
  r.rop % 16 ||| (r.size % 8) <<< 4 ||| fb r.replay <<< 7 ||| fb r.fadd <<< 8 ||| r.src.toNat <<< 16 ||| r.dst.toNat <<< 28
    ||| r.job.toNat <<< 40 ||| r.window.toNat <<< 56 ||| r.offset.toNat <<< 64 ||| (r.seq % 2 ^ 32) <<< 128
    ||| r.epoch.toNat <<< 160 ||| r.tag.toNat <<< 192

/-- The 16 bytes that an RFST adds (R362). -/
def Request.flagPart (r : Request) : Nat := r.fwindow.toNat ||| r.foffset.toNat <<< 8 ||| r.fvalue.toNat <<< 64

/-- A response reuses the header (R362); an ACK has ROP 15 and carries C in SEQ. -/
def Response.header (r : Response) : Nat :=
  (if r.isAck then 15 else r.rop % 16) ||| (r.size % 8) <<< 4 ||| fb r.replay <<< 7 ||| fb r.fadd <<< 8 ||| r.src.toNat <<< 16
    ||| r.dst.toNat <<< 28 ||| r.job.toNat <<< 40 ||| r.window.toNat <<< 56 ||| r.offset.toNat <<< 64 ||| r.status.toNat <<< 104
    ||| r.hint.toNat <<< 112 ||| ((if r.isAck then r.cum else r.seq) % 2 ^ 32) <<< 128 ||| r.epoch.toNat <<< 160 ||| r.tag.toNat <<< 192

/-- The 48-byte collective header (R409). -/
def CollHdr.header (kind : BitVec 4) (h : CollHdr) : Nat :=
  kind.toNat ||| h.group.toNat <<< 4 ||| h.stage.toNat <<< 14 ||| h.src.toNat <<< 16 ||| h.dst.toNat <<< 28 ||| h.job.toNat <<< 40
    ||| h.slot.toNat <<< 56 ||| (h.seq % 2 ^ 32) <<< 64 ||| (h.chunk % 2 ^ 24) <<< 96 ||| (h.part % 1024) <<< 120 ||| fb h.last <<< 130
    ||| h.epoch.toNat <<< 144 ||| h.crc.toNat <<< 160 ||| h.tag.toNat <<< 192 ||| h.gdig.toNat <<< 256 ||| h.pdig.toNat <<< 320

/-- The 32-byte trail packet header (R475). -/
def TrailHdr.header (h : TrailHdr) : Nat :=
  h.kind.toNat ||| h.rank.toNat <<< 4 ||| h.src.toNat <<< 16 ||| h.dst.toNat <<< 28 ||| h.job.toNat <<< 40 ||| h.epoch.toNat <<< 64
    ||| (h.part % 4) <<< 80 ||| (h.page % 2 ^ 27) <<< 96 ||| h.tag.toNat <<< 128 ||| h.crc.toNat <<< 192

/-- A packet as bytes. Beats, notices, digest records and fleet messages have no layout in the manual: their bytes are open. -/
def Packet.bytes (k : Packet) : List Byte :=
  match k.body with
  | .req r => leBytes 32 r.header ++ (if r.rop = 2 then leBytes 16 r.flagPart else []) ++ r.data ++ leBytes 8 r.op1.toNat ++ leBytes 8 r.op2.toNat
  | .resp r => leBytes 32 r.header ++ r.data
  | .coll kind h data => leBytes 48 (h.header kind) ++ data
  | .trail h data => leBytes 32 h.header ++ data
  | _ => Config.packetBytes k

/-- A packet's credits in 64-byte units, and its flits of 628 bytes of packet space (R330, R334). -/
def Packet.units (k : Packet) : Nat := (k.len + 63) / 64
def Packet.flits (k : Packet) : Nat := (k.len + 627) / 628

/-- A packet's bytes over its length. -/
def Packet.image (k : Packet) : List Byte := (k.bytes ++ List.replicate k.len 0).take k.len

/-- Bytes 0 to 635 of a flit (R330). -/
def Flit.covered (f : Flit) : List Byte :=
  leBytes 8 (f.seq % 4096 ||| (f.ack % 4096) <<< 12 ||| fb f.nak <<< 24 ||| (f.cvc % 8) <<< 25 ||| (f.ccnt % 4096) <<< 28 ||| (f.kind % 4) <<< 40)
    ++ leBytes 628 f.space.toNat

/-- The CRC-32 that a flit must carry. -/
def Flit.crcOf (f : Flit) : BitVec 32 := BitVec.ofNat 32 (Sha.crc32 f.covered)

/-- The flit passes its CRC. -/
def Flit.crcOk (f : Flit) : Bool := f.crc == f.crcOf

/-- A flit with its CRC computed. -/
def Flit.sealed (f : Flit) : Flit := { f with crc := f.crcOf }

/-- The 640 bytes of a flit. -/
def Flit.image (f : Flit) : List Byte := f.covered ++ leBytes 4 f.crc.toNat

/-- The source that a packet's header names; messages without one give 0. -/
def Payload.src : Payload → BitVec 12
  | .req r => r.src
  | .resp r => r.src
  | .coll _ h _ => h.src
  | .trail h _ => h.src
  | _ => 0

end Sys2Proof
end

