-- ==== Sys2Proof/Machine/Ports.lean ====
section
/-! DEFINITION. Shroud ports and the link layer (chapter 10): ingress checks, flits and retry, path choice and credits, port
faults and retraining. -/

namespace Sys2Proof.Machine

/-! ## Ingress (R341) -/

/-- A packet that the receiving fabric die drops: a stranger, or one for another node. -/
def State.ingress (s : State) (port : Nat) (src dst : BitVec 12) (job : BitVec 16) : Option State :=
  if job.toNat ≠ s.fld fJOBSTAMP then
    some ((s.incFld (fPcnt port 11)).fire 0x103 (0xA0 + port) (src.toNat ||| job.toNat <<< 16))
  else if dst.toNat ≠ s.fld fNODEID then some ((s.incFld (fPcnt port 12)).fire 0x104 (0xA0 + port) dst.toNat)
  else none

/-! ## Path choice and credits (R334 to R337) -/

/-- Ports that are UP among a mask, of those that the class in force holds (R34). -/
def State.upAmong (s : State) (mask : Nat) : List Nat := (setBits 16 mask).filter (fun p => (s.port p).st = .up && s.portOn p)

/-- UP candidates toward a node. -/
def State.upTo (s : State) (dst : BitVec 12) : List Nat := s.upAmong (s.fld (fRoute dst.toNat))

/-- Free credits of a port on a channel, in 64-byte units: what is left of the channel's 8 KiB and of the shared 200 KiB. -/
def Port.free (x : Port) (vc : Nat) : Nat :=
  let used := fun v => SM.getD 0 x.credits v
  let past := [0, 1, 2, 3, 4, 5, 7].foldl (fun n v => n + (used v - 128)) 0
  (128 - used vc) + (3200 - past)

/-- The port that path choice takes (R337). -/
def State.choose (s : State) (vc : Nat) (l : List Nat) : Option Nat :=
  if vc = 4 ∨ vc = 7 then l.head?
  else
    let w := fun p => let x := s.port p; if x.width = 0 then 2 * x.free vc else x.free vc
    l.find? (fun p => l.all (fun q => decide (w q ≤ w p)))

/-- The UP ports that a packet may take: those toward its target, or those that it is meant for. -/
def State.upFor (s : State) (k : Packet) : List Nat := if k.ports = 0xFFFF then s.upTo k.dst else s.upAmong k.ports.toNat

/-- A port holds credits for a whole packet and has room for its flits in the retry buffer (R331, R334). -/
def Port.takes (x : Port) (k : Packet) : Bool := decide (k.units ≤ x.free k.vc) && decide (x.retry.length + k.flits ≤ 512)

/-- The first packet of a channel's queue that can move, with its port. A packet without an UP port waits in the switch (R336); one whose
port lacks credits holds back later packets for that port. -/
def State.firstGo (s : State) (vc : Nat) : List Packet → List Nat → Option (Packet × Nat)
  | [], _ => none
  | k :: ks, shut =>
    if k.vc ≠ vc then s.firstGo vc ks shut
    else match s.choose vc (s.upFor k) with
      | none => s.firstGo vc ks shut
      | some p => if !shut.contains p && (s.port p).takes k then some (k, p) else s.firstGo vc ks (p :: shut)

/-- The channels of weighted arbitration, and a channel's weight in FAB_VCWT (R333, R334). -/
def weighted : List Nat := [0, 1, 2, 3, 5]
def State.vcWeight (s : State) (vc : Nat) : Nat := getBits (s.word 0x20020).toNat (if vc = 5 then 32 else 8 * vc) 8

/-- Whether a channel can send on a port now. -/
def State.contends (s : State) (p vc : Nat) : Bool := (s.firstGo vc s.portQ []).any (fun g => g.2 == p)

/-- Arbitration at an output (R333, R334): VC4 goes first, VC7 second, and a weighted channel waits while another has had less than its share.
DESIGN CHOICE (log 47): shares are what channels sent while others waited, measured against the weights. -/
def State.outranked (s : State) (p vc : Nat) : Bool :=
  let sent := fun v => SM.getD 0 (s.port p).served v
  if vc = 4 then false
  else if vc = 7 then s.contends p 4
  else s.contends p 4 || s.contends p 7
    || weighted.any (fun u => u != vc && decide (sent u * s.vcWeight vc < sent vc * s.vcWeight u) && s.contends p u)

/-- Sends one flit and keeps it for retry (R331). -/
def State.sendFlit (s : State) (p kind : Nat) (nak : Bool) (cvc ccnt : Nat) (space : BitVec 5024) (body : List Sent) : State :=
  let x := s.port p
  let f : Flit := Flit.sealed ⟨x.txSeq, (x.rxSeq + 4095) % 4096, nak, cvc, ccnt, kind, space, 0, body⟩
  (s.setPort p { x with txSeq := (x.txSeq + 1) % 4096, retry := x.retry ++ [(f, 0)] }).emit (.flit p f)

/-- The flits of a packet: 628 bytes of packet space each; the packet is complete in the last. The fabric die stamps the job ID. -/
def State.sendPacket (s : State) (p : Nat) (k : Packet) : State :=
  let n := k.flits
  let x := s.port p
  let more := weighted.any (fun u => u != k.vc && s.contends p u)
  let served := if !weighted.contains k.vc then x.served
    else if more then SM.setD 0 x.served k.vc (SM.getD 0 x.served k.vc + k.units) else []
  let s := s.setPort p { x with credits := SM.setD 0 x.credits k.vc (SM.getD 0 x.credits k.vc + k.units), served := served }
  let part := fun (i : Nat) => BitVec.ofNat 5024 (leNat ((k.image.drop (628 * i)).take 628))
  ((List.range (n - 1)).foldl (fun s i => s.sendFlit p 0 false 0 0 (part i) []) s).sendFlit p 0 false 0 0 (part (n - 1))
    [⟨k, BitVec.ofNat 16 (s.fld fJOBSTAMP)⟩]

/-- Idle flits carry what is due: credits, one channel each, the acknowledgement and a NAK (R331), while the retry buffer has room. -/
def State.sendDue (s : State) (p : Nat) : Nat → State
  | 0 => s
  | n + 1 =>
    let x := s.port p
    if x.st ≠ .up ∨ 512 ≤ x.retry.length then s
    else match x.due with
      | (vc, k) :: l => ((s.setPort p { x with due := l, ackDue := false, nakDue := false }).sendFlit p 1 x.nakDue vc k 0 []).sendDue p n
      | [] => if x.ackDue || x.nakDue then (s.setPort p { x with ackDue := false, nakDue := false }).sendFlit p 1 x.nakDue 0 0 0 [] else s

/-- Credits of a packet that has been moved on, or dropped at ingress, return to its sender (R334, R341). -/
def State.credit (s : State) (p : Nat) (k : Packet) : State :=
  let x := s.port p
  (s.setPort p { x with due := SM.setD 0 x.due k.vc (SM.getD 0 x.due k.vc + k.units) }).sendDue p 8

/-- The receiver moves on the packet of a command that takes one: the first with these contents among those received (R334). -/
def State.arrived (s : State) (b : Payload) : State :=
  match (List.range 16).find? (fun p => (s.port p).rx.any (fun k => k.body == b)) with
  | none => s
  | some p =>
    let x := s.port p
    match x.rx.find? (fun k => k.body == b) with
    | some k => (s.setPort p { x with rx := x.rx.erase k }).credit p k
    | none => s

/-! ## Port faults (R343 to R347) -/

/-- The ledger's unit for a port. -/
def portUnit (p : Nat) : UnitId := BitVec.ofNat 38 (0x24 ||| (5 + p / 8) <<< 8 ||| p <<< 18)

/-- A request or response that re-enters the switch carries the replay mark (R345, R362). -/
def markReplay (k : Packet) : Packet :=
  match k.body with
  | .req r => { k with body := .req { r with replay := true } }
  | .resp r => { k with body := .resp { r with replay := true } }
  | _ => k

/-- Notices on VC4 over every UP port. -/
def State.notice (s : State) (port : Nat) (up : Bool) : State :=
  (s.upAmong 0xFFFF).foldl (fun s q => s.send ⟨4, 0, BitVec.ofNat 16 (2 ^ q), 16, .portNotice port up⟩) s

/-- A target with no UP candidate while one of them retrains: timers toward it are suspended (R346). -/
def State.pathHeld (s : State) (dst : BitVec 12) : Bool :=
  (s.upTo dst).isEmpty && (setBits 16 (s.fld (fRoute dst.toNat))).any (fun p => (s.port p).fast.isSome)

/-- T_dead is suspended for operations whose target has no UP candidate (R346). -/
def State.suspendOps (s : State) : State :=
  { s with remote := { s.remote with ops := s.remote.ops.map (fun (o : ROp) =>
      if (s.upTo o.req.dst).isEmpty then { o with suspended := true } else o) } }

/-- The timers of operations that have a candidate again resume. -/
def State.resumeOps (s : State) : State :=
  { s with remote := { s.remote with ops := s.remote.ops.map (fun (o : ROp) =>
      if (s.upTo o.req.dst).isEmpty then o else { o with suspended := false }) } }

/-- The packets of a port's retry buffer go back into the switch, in their order, ahead of later packets (R344). -/
def State.reenter (s : State) (p : Nat) : State :=
  let x := s.port p
  let ks := (x.retry.flatMap (fun f => f.1.body.map Sent.pkt)).map markReplay
  { s.setPort p { x with retry := [], txSeq := 0, rxSeq := 0, credits := [], due := [], ackDue := false, nakDue := false, served := [] }
      with portQ := ks ++ s.portQ }

/-- Failed lanes lie in both halves. -/
def bothHalves (fail : BitVec 8) : Bool := fail.toNat % 16 ≠ 0 && fail.toNat / 16 ≠ 0

/-- Whether a waiting packet may still move: one of its ports is UP or retrains. -/
def State.hopeful (s : State) (k : Packet) : Bool :=
  (setBits 16 (if k.ports = 0xFFFF then s.fld (fRoute k.dst.toNat) else k.ports.toNat)).any
    (fun q => (s.port q).st == PState.up || (s.port q).fast.isSome)

/-- A port stays DOWN (R347). Packets that waited for it and have no other candidate are discarded (R380), and the timers of operations that no
other retraining port holds resume (R346). -/
def State.portDead (s : State) (p : Nat) : State :=
  let x := s.port p
  let s := s.setPort p { x with st := .down, fast := none }
  let s := (s.fire 0x002 (0xA0 + p) x.fail.toNat).ledger 2 11 (portUnit p) false
  let onP := fun (k : Packet) => (if k.ports = 0xFFFF then s.fld (fRoute k.dst.toNat) else k.ports.toNat).testBit p
  let s : State := { s with portQ := s.portQ.filter (fun (k : Packet) => s.hopeful k || !onP k) }
  { s with remote := { s.remote with ops := s.remote.ops.map (fun (o : ROp) =>
      if s.pathHeld o.req.dst then o else { o with suspended := false }) } }

/-- A port goes DOWN (R344): it leaves path choice, its packets re-enter, PORT_DOWN is sent, and a fast retrain starts from the stored
coefficients (R327) unless failed lanes lie in both halves. -/
def State.portDown (s : State) (p : Nat) (lanes : BitVec 8) : State :=
  let s := s.reenter p
  let x := s.port p
  let fail := x.fail ||| lanes
  let s := s.setPort p { x with st := .down, fail := fail, fast := if bothHalves fail then none else some x.coefs }
  let s := (s.notice p false).suspendOps
  if bothHalves fail then s.portDead p else s

/-- R343. -/
def execLaneLockLost (p : Fin 16) (lanes : BitVec 8) (s : State) : Res :=
  if (s.port p.val).st = .up then .next (s.portDown p.val lanes) else .refused .notPending

/-- Go-back-N: every unacknowledged flit again, with its SEQ (R331). A flit's eighth replay in a row takes the port DOWN (R343). DESIGN CHOICE
(log 47): a replayed flit carries the present ACK and a NAK that is due. -/
def State.replay (s : State) (p : Nat) : State :=
  let x := s.port p
  if x.retry.isEmpty then s
  else
    let again := x.retry.map (fun f => (Flit.sealed { f.1 with ack := (x.rxSeq + 4095) % 4096, nak := x.nakDue }, f.2 + 1))
    let s := s.setPort p { x with retry := again, nakDue := false, ackDue := false }
    let s := again.foldl (fun s f => (s.emit (.flit p f.1)).incFld (fPcnt p 10)) s
    if again.any (fun f => 8 ≤ f.2) then s.portDown p 0 else s

/-- A packet of an accepted flit at ingress (R341): one stamped with another job ID is a stranger, one for another node is misrouted; both are
dropped and counted, and their credits return. A JOB command is taken whatever its job ID (R533). -/
def State.takeIn (s : State) (p : Nat) (k : Sent) : State :=
  let isJob : Bool := match k.pkt.body with
    | .fleet (.job _) => true
    | _ => false
  if k.job.toNat ≠ s.fld fJOBSTAMP ∧ ¬ isJob then
    (((s.incFld (fPcnt p 11)).fire 0x103 (0xA0 + p) (k.pkt.body.src.toNat ||| k.job.toNat <<< 16))).credit p k.pkt
  else if k.pkt.ports = 0xFFFF ∧ k.pkt.dst.toNat ≠ s.fld fNODEID then
    ((s.incFld (fPcnt p 12)).fire 0x104 (0xA0 + p) k.pkt.dst.toNat).credit p k.pkt
  else
    let x := s.port p
    s.setPort p { x with rx := x.rx ++ [k.pkt] }

/-- An accepted flit: its acknowledgement, NAK and credits are taken, its packets enter, and a data flit is acknowledged. DESIGN CHOICE
(log 47): a retrain request (KIND 2) has no effect of its own, since R343 lists every cause that takes a port DOWN. -/
def State.acceptFlit (s : State) (p : Nat) (f : Flit) : State :=
  let x := s.port p
  let retry := match firstIdx (fun g => g.1.seq == f.ack) x.retry with
    | some i => x.retry.drop (i + 1)
    | none => x.retry
  let s := s.setPort p { x with rxSeq := (x.rxSeq + 1) % 4096, retry := retry, ackDue := x.ackDue || decide (f.kind = 0),
                                credits := SM.setD 0 x.credits f.cvc (SM.getD 0 x.credits f.cvc - f.ccnt) }
  let s := if f.nak then s.replay p else s
  let s := if f.kind = 0 then f.body.foldl (fun s k => s.takeIn p k) s else s
  s.sendDue p 8

/-- The lane that carries a symbol of a codeword: symbols are dealt round-robin to the active lanes (R325, R329). -/
def Port.laneOf (x : Port) (i : Nat) : Nat := if x.width = 0 then i % 8 else if x.width = 1 then i % 4 else 4 + i % 4

/-- The receiver asks for a replay; the NAK leaves with the next flit that has room (R331). -/
def State.nak (s : State) (p : Nat) : State :=
  let x := s.port p
  (s.setPort p { x with nakDue := true }).sendDue p 1

/-- R329, R331, R340, R343: a codeword arrives at time `t` (ns) with symbol errors at the positions `errs`. Up to 15 are corrected and counted on
their lanes; more discard the flit `f`, to which the codeword's 20 alignment bits do not belong, and 32 such codewords within 1 µs, or more than 16 within a second, take the port DOWN. -/
def execFlitReceive (p : Fin 16) (t : Nat) (errs : List (Fin 544)) (_align : BitVec 20) (f : Flit) (s : State) : Res :=
  let x := s.port p.val
  if x.st ≠ .up then .refused .notPending
  else if 15 < errs.length then
    let late := (x.uncor.filter (fun u => decide (t < u + 1000000000))) ++ [t]
    let s := s.setPort p.val { x with uncor := late }
    let s := (s.incFld (fPcnt p.val 8)).ledger 2 11 (portUnit p.val) false
    if 16 < late.length ∨ 32 ≤ (late.filter (fun u => decide (t < u + 1000))).length then .next (s.portDown p.val 0) else .next (s.nak p.val)
  else
    let s := errs.foldl (fun s e => s.incFld (fPcnt p.val (x.laneOf e.val))) s
    if ¬ f.crcOk then .next (((s.incFld (fPcnt p.val 9)).ledger 2 11 (portUnit p.val) false).nak p.val)
    else if f.seq ≠ x.rxSeq then .next (s.nak p.val)
    else .next (s.acceptFlit p.val f)

/-- R331: no acknowledgement within 2 µs. -/
def execFlitAckTimeout (p : Fin 16) (s : State) : Res :=
  if (s.port p.val).st = .up ∧ (s.port p.val).retry ≠ [] then .next (s.replay p.val) else .refused .notPending

/-- R344: a fast retrain succeeds: x4 on the half without failed lanes. -/
def execFastRetrainDone (p : Fin 16) (s : State) : Res :=
  let x := s.port p.val
  if x.st = .down ∧ x.fast.isSome then
    let w := if x.fail = 0 then x.width else if x.fail.toNat % 16 = 0 then 1 else 2
    let s := s.setPort p.val { x with st := .up, fast := none, width := w }
    .next ((s.notice p.val true).resumeOps)
  else .refused .notPending

/-- R347: a fast retrain fails. -/
def execFastRetrainFail (p : Fin 16) (s : State) : Res :=
  let x := s.port p.val
  if x.st = .down ∧ x.fast.isSome then .next (s.portDead p.val) else .refused .notPending

/-- R341, R344: a peer's PORT_DOWN or PORT_UP on VC4. Path choice reads the node's own ports alone, so only the suspension of T_dead
is looked at again. -/
def execPortDownNotice (src : NoticeFrom) (port : Fin 16) (up : Bool) (s : State) : Res :=
  let s := s.arrived (.portNotice port.val up)
  if src.job.toNat ≠ s.fld fJOBSTAMP then .next ((s.incFld (fPcnt src.via.val 11)).fire 0x103 (0xA0 + src.via.val) (src.job.toNat <<< 16))
  else .next (if up then s.resumeOps else s.suspendOps)

/-- R346: the suspension ends. -/
def execTdeadSuspendEnd (node : BitVec 12) (s : State) : Res :=
  if s.remote.ops.any (fun o => o.req.dst = node ∧ o.suspended) then
    .next { s with remote := { s.remote with ops := s.remote.ops.map (fun (o : ROp) =>
      if o.req.dst = node then { o with suspended := false } else o) } }
  else .refused .notPending

/-! ## Training (R323, R324, R326 to R328, R606) -/

/-- The port goes into full training at the highest generation it may use. -/
def State.train (s : State) (p : Nat) : State :=
  let s := s.reenter p
  let x := s.port p
  s.setPort p { x with st := .training, gen := s.fld (fMAXGEN p), width := 0, fail := 0, eqFails := 0, fast := none, furled := false }

/-- After D3hot, READY is set and the crew is woken once no port trains any longer (R556, R557). -/
def State.d0Check (s : State) : State :=
  if s.pw.d0Wait ∧ ¬ (List.range 16).any (fun p => (s.port p).st == PState.training) then
    (State.setFld { s with pw := { s.pw with d0Wait := false } } fREADY 1).broadcast .wake
  else s

/-- R328: a SETUP requests full training. The register map names no register for the request, so the port is the command's
operand. A port that the class in force lacks is never trained, one in standby that it holds is; one that is UP is trained only in the job
set-up window (R606). -/
def State.runTrain (p : Nat) (d : DRef) (_ : InDesc) (s : State) : State :=
  let s := s.wakeSelf
  let st := (s.port p).st
  if ¬ s.portOn p then s.finish d stOK 0
  else if st = .down ∨ st = .standby then (s.train p).finish d stOK 0
  else if st = .up then
    if s.flag fJOBLOCK ∨ s.stepOpen then s.finish d stMODE_REFUSED 0x1402 else (s.train p).finish d stOK 0
  else s.finish d stOK 0

def execPortTrainRequest (d : DRef) (p : Fin 16) (s : State) : Res := s.start d (fun o => o = 2) (State.runTrain p.val d)

/-- R324: full training ends, UP at the highest generation that both ends advertise, or equalisation fails there: the third failure steps
down one generation, or leaves the port DOWN at Gen A. -/
def execPortTrainingDone (p : Fin 16) (r : TrainEnd) (s : State) : Res :=
  let x := s.port p.val
  if x.st ≠ .training then .refused .notPending
  else match r with
    | .up peer width delay coefs =>
      let s := s.setPort p.val { x with st := .up, gen := min x.gen peer.val, width := width.val, delay := delay % 65536, coefs := coefs,
                                        eqFails := 0, fail := 0, txSeq := 0, rxSeq := 0, retry := [], credits := [], due := [],
                                        ackDue := false, nakDue := false, served := [], uncor := [] }
      .next ((s.notice p.val true).resumeOps.d0Check)
    | .eqFail peer =>
      let g := min x.gen peer.val
      if x.eqFails < 2 then .next (s.setPort p.val { x with gen := g, eqFails := x.eqFails + 1 })
      else if g = 0 then .next (s.setPort p.val { x with st := .down, gen := 0, eqFails := 0 }).d0Check
      else .next ((s.setPort p.val { x with gen := g - 1, eqFails := 0 }).fire 0x102 (0xA0 + p.val) (g - 1))

end Sys2Proof.Machine
end

