-- ==== Sys2Proof/Machine/Beat.lean ====
section
/-! DEFINITION. Beats and the schedule table (chapter 13), and deadlines of factor engines (R282). -/

namespace Sys2Proof.Machine

/-- The nominal period P (R425). -/
def State.period (s : State) : Nat := s.fld fBEATPER

/-- A candidate at time `c` comes before t_last + 0.75 P (R427). -/
def State.isGlitch (s : State) (last c : Nat) : Bool := decide (4 * c < 4 * last + 3 * s.period)

/-- Beat packets through every port of the mask that is UP (R348, R349). -/
def State.sendBeat (s : State) (b : BeatPkt) : State :=
  (s.upAmong (s.fld fBEATMASK)).foldl (fun s p => s.send ⟨4, 0, BitVec.ofNat 16 (2 ^ p), 32, .beat b⟩) s

/-- A beat is applied at a time: the counter moves and beat-basis entries fire (R426, R436, R437). -/
def State.applyBeat (s : State) (num time : Nat) : State :=
  let old := s.fld fBEATCNT
  State.beatEntries { s.setFld fBEATCNT num with beatLast := time } old num

/-- A candidate is applied: BEATLOST clears (R428). -/
def State.applyCandidate (s : State) (num time : Nat) : State :=
  let s : State := State.applyBeat { s with flywheel := 0 } num time
  if s.flag fBEATLOST then (s.setFld fBEATLOST 0).fire 0x201 0xF0 (num % 2 ^ 32) else s

/-- The model's clock follows the times that commands carry. -/
def State.atTime (s : State) (t : Nat) : State := { s with now := max s.now t }

/-- R424, R427, R348: a BEAT_IN edge. A follower ignores it; a source sends the beat and applies it after D_beat. -/
def execBeatInEdge (t : Nat) (s : State) : Res :=
  let s := s.atTime t
  let role := s.fld fBEATROLE
  if role = 2 then .next s
  else if role = 1 then
    let c := t + 1000 * s.fld fDBEAT
    let last := (s.beatWait.getLast?.map BeatPkt.delay).getD s.beatLast
    if s.isGlitch last c then .next (s.incFld fGLITCH)
    else
      let num := s.fld fBEATCNT + s.beatWait.length + 1
      let job := BitVec.ofNat 16 (s.fld fJOBSTAMP)
      .next (State.sendBeat { s with beatWait := s.beatWait ++ [⟨num, c, job, 0⟩] } ⟨num, 0, job, 0⟩)
  else if s.isGlitch s.beatLast t then .next (s.incFld fGLITCH)
  else .next (s.applyCandidate (s.fld fBEATCNT + 1) t)

/-- R341, R349, R350, R429: a fabric beat. The first of its number is taken, forwarded with its delay added, and waits for its
application time, which `delay` of the waiting packet holds; `residence` is the time until it is forwarded. -/
def execFabricBeat (port : Fin 16) (b : BeatPkt) (t residence : Nat) (s : State) : Res :=
  let s := (s.atTime t).arrived (.beat b)
  if b.job.toNat ≠ s.fld fJOBSTAMP then
    .next ((s.incFld (fPcnt port.val 11)).fire 0x103 (0xA0 + port.val) (b.job.toNat <<< 16))
  else if s.fld fBEATROLE ≠ 2 then .next s
  else
    if b.num ≤ max (s.fld fBEATCNT) s.beatTaken then .next s
    else
      let s : State := { s with beatTaken := b.num }
      let link := (s.port port.val).delay
      let c := t + 1000 * s.fld fDBEAT - (b.delay + link)
      let s := if b.hops < 7 then s.sendBeat { b with delay := b.delay + residence + link, hops := b.hops + 1 } else s
      let s := if c < t then s.incFld fLATE else s
      .next { s with beatWait := s.beatWait ++ [⟨b.num, max c t, b.job, b.hops⟩] }

/-- R350, R427, R429: a waiting beat's time has come. -/
def execBeatApply (t : Nat) (s : State) : Res :=
  match s.beatWait with
  | [] => .refused .notPending
  | b :: bs =>
    if t < b.delay then .refused .notPending
    else
      let s : State := { s.atTime t with beatWait := bs }
      if s.isGlitch s.beatLast b.delay then .next (s.incFld fGLITCH)
      else if s.fld fBEATROLE = 2 then
        .next (if s.fld fBEATCNT < b.num then s.applyCandidate b.num b.delay else s)
      else .next (s.applyCandidate (s.fld fBEATCNT + 1) b.delay)

/-- R427 to R429: no candidate by 1.5 P after the last beat, or by P after a flywheel beat. -/
def execFlywheelBeat (t : Nat) (s : State) : Res :=
  let c := s.beatLast + (if s.flywheel = 0 then s.period * 3 / 2 else s.period)
  if t < c then .refused .notPending
  else
    let s : State := s.atTime t
    let num := s.fld fBEATCNT + 1
    let s : State := State.applyBeat { s with flywheel := s.flywheel + 1 } num c
    let s : State := s.fire 0x101 0xF0 (num % 2 ^ 32)
    let s : State := if s.flywheel = s.fld fHOLD then (s.setFld fBEATLOST 1).fire 0x001 0xF0 (s.fld fHOLD) else s
    .next (if s.fld fBEATROLE = 1 then State.sendBeat s ⟨num, 0, BitVec.ofNat 16 (s.fld fJOBSTAMP), 0⟩ else s)

/-- R282: the beat counter has reached c0 + d before a descriptor with DLBEATS d finished. -/
def execDeadlineMiss (e : Fin 4) (s : State) : Res :=
  let g := SM.getD ({} : Engine) s.eng e.val
  if g.run.isSome ∧ g.deadline ≠ 0 ∧ g.start.toNat + g.deadline ≤ s.fld fBEATCNT then .next (s.missDeadline e.val)
  else .refused .notPending

/-- The entry breaks R433, R435 or R519. -/
def State.badEntry (s : State) (e : BitVec 128) : Bool :=
  let arg := eArg e
  decide (getBits e.toNat 6 2 ≠ 0) || (match eAction e with
    | 1 => s.isCrew || decide (2 ≤ arg)
    | 2 => s.isCrew || decide (1024 ≤ arg)
    | 3 => !([0x01, 0x02, 0x03, 0x04, 0x10].contains arg)
    | 4 => decide (1024 ≤ arg)
    | 5 => decide (16 ≤ arg) || !eBeat e
    | _ => true)

/-- R432: SCHED_LOAD. -/
def State.runSched (ev : List HwEv) (d : DRef) (x : InDesc) (s : State) : State :=
  let a := dArg x.raw 0
  let i := getBits a 0 8
  let n := getBits a 8 9
  if dMask x.raw ≠ 0 ∨ 2 ^ 17 ≤ a ∨ dArg x.raw 1 ≠ 0 ∨ dArg x.raw 2 ≠ 0 ∨ dArg x.raw 3 ≠ 0 ∨ n = 0 ∨ 256 < i + n
      ∨ dProg x.raw % 16 ≠ 0 then s.execError d 0x0D01
  else if s.touchesLow (dProg x.raw) (16 * n) then s.execError d causeLOW_HALF
  else match s.read (dProg x.raw) (16 * n) with
    | .error .wait => s
    | .error e => s.execError d (e.cause 0x0D01 0x0D01)
    | .ok bs =>
      let (s, ok) := s.hwEvs x.step ev
      if ¬ ok then s else
      let es := (chunks 16 n bs).map (fun b => BitVec.ofNat 128 (leNat b))
      if es.any s.badEntry then s.execError d 0x0D01
      else (es.zipIdx.foldl (fun s p => s.trs x.step (.sched (i + p.2) p.1)) s).finish d stOK 0

def execSchedLoad (d : DRef) (ev : List HwEv) (s : State) : Res := s.start d (fun o => o = 0x020) (State.runSched ev d)

end Sys2Proof.Machine
end

