-- ==== Sys2Proof/Machine/Functions.lean ====
section
/-! DEFINITION. The correctly rounded functions of the element engine (R167, R168): each is evaluated in fixed point with
at least 200 bits beyond FP32's rounding position, and rounded once. -/

namespace Sys2Proof.Fp

/-- The fraction bits of the fixed-point evaluation. -/
def fxP : Nat := 400

/-- Powers `c^(2k+1) / (2k+1)` of `1/d`, summed with alternating or equal signs: the series of arctangent and its
hyperbolic form. `t` is the running power. -/
def atanSeries (alt : Bool) (d2 : Nat) : Nat → Nat → Nat → Int
  | 0, _, _ => 0
  | n + 1, k, t => ((t / (2 * k + 1) : Nat) : Int) + (if alt then -1 else 1) * atanSeries alt d2 n (k + 1) (t / d2)

/-- ln 2 = 2 artanh(1/3), in `fxP` fraction bits. -/
def ln2Fx : Nat := (2 * atanSeries false 9 140 0 (2 ^ fxP / 3)).toNat

/-- π by Machin's formula, in `fxP` fraction bits. -/
def piFx : Nat := (16 * atanSeries true 25 100 0 (2 ^ fxP / 5) - 4 * atanSeries true 57121 40 0 (2 ^ fxP / 239)).toNat

/-- `e^r` for a fixed-point `r` in [0, 1): the exponential series from the term `t` on. -/
def expSeries (r : Nat) : Nat → Nat → Nat → Nat
  | 0, _, _ => 0
  | n + 1, k, t => t + expSeries r n (k + 1) (t * r / 2 ^ fxP / (k + 1))

/-- `e^x` of a fixed-point integer: a fixed-point value in [1, 2) and the power of two it is scaled by. -/
def expFx (x : Int) : Nat × Int :=
  let n := x / (ln2Fx : Int)
  let r := (x - n * ln2Fx).toNat
  (expSeries r 100 0 (2 ^ fxP), n)

/-- A finite value in fixed point (floor of the magnitude). -/
def toFx (neg : Bool) (m : Nat) (e : Int) : Int :=
  let s := e + fxP
  let a : Int := if 0 ≤ s then ((m <<< s.toNat : Nat) : Int) else ((m >>> (-s).toNat : Nat) : Int)
  if neg then -a else a

/-- ln f of a fixed-point `f` in [1, 2): 2 artanh((f − 1)/(f + 1)). -/
def lnSeries (t2 : Nat) : Nat → Nat → Nat → Nat
  | 0, _, _ => 0
  | n + 1, k, t => t / (2 * k + 1) + lnSeries t2 n (k + 1) (t * t2 / 2 ^ fxP)

def lnFx (f : Nat) : Nat :=
  let t := (f - 2 ^ fxP) * 2 ^ fxP / (f + 2 ^ fxP)
  2 * lnSeries (t * t / 2 ^ fxP) 140 0 t

/-- ln of `m × 2^e`, in fixed point. -/
def lnOf (m : Nat) (e : Int) : Int :=
  let f := if m.log2 ≤ fxP then m <<< (fxP - m.log2) else m >>> (m.log2 - fxP)
  ((m.log2 : Int) + e) * ln2Fx + lnFx f

/-- Rounding of an inexact fixed-point value to FP32. -/
def rnd32 (neg : Bool) (m : Nat) (e : Int) : Res := roundTo .fp32 .rne neg m e true

/-- The result of an inexact function just inside `m × 2^e` in magnitude. -/
def justBelow (neg : Bool) (m : Nat) (e : Int) : Res := rnd32 neg ((m <<< 200) - 1) (e - 200)

def one32 : Val := .fin false 1 0

/-- The magnitude of the argument is at least `2^k`. -/
def absGe (m : Nat) (e : Int) (k : Int) : Bool := decide (m ≠ 0) && decide (k ≤ (m.log2 : Int) + e)

def fExp (a : Val) : Res :=
  match a with
  | .nan _ => ⟨.qnan, 0⟩
  | .inf s => ⟨if s then .zero else .inf false, 0⟩
  | .fin s m e =>
    if m = 0 then ⟨one32, 0⟩
    else if absGe m e 9 then (if s then rnd32 false 1 (-400) else rnd32 false 1 400)
    else
      let (v, n) := expFx (toFx s m e)
      rnd32 false v (n - fxP)

def fExp2 (a : Val) : Res :=
  match a with
  | .nan _ => ⟨.qnan, 0⟩
  | .inf s => ⟨if s then .zero else .inf false, 0⟩
  | .fin s m e =>
    if m = 0 then ⟨one32, 0⟩
    else if absGe m e 9 then (if s then rnd32 false 1 (-400) else rnd32 false 1 400)
    else
      let x := toFx s m e
      let n := x / ((2 ^ fxP : Nat) : Int)
      let f := (x - n * ((2 ^ fxP : Nat) : Int)).toNat
      if f = 0 then roundTo .fp32 .rne false 1 n false
      else rnd32 false (expSeries (f * ln2Fx / 2 ^ fxP) 100 0 (2 ^ fxP)) (n - fxP)

/-- A logarithm of a positive number: `base2` divides by ln 2. -/
def fLog (base2 : Bool) (a : Val) : Res :=
  match a with
  | .nan _ => ⟨.qnan, 0⟩
  | .inf true => invalidRes
  | .inf false => ⟨.inf false, 0⟩
  | .fin s m e =>
    if m = 0 then ⟨.inf true, fDIVZERO⟩
    else if s then invalidRes
    else if m = 2 ^ m.log2 ∧ (base2 ∨ (m.log2 : Int) + e = 0) then ⟨if base2 then ofInt ((m.log2 : Int) + e) else .zero, 0⟩
    else
      let l := lnOf m e
      let l := if base2 then l * ((2 ^ fxP : Nat) : Int) / ln2Fx else l
      rnd32 (decide (l < 0)) l.natAbs (-fxP)

def fTanh (a : Val) : Res :=
  match a with
  | .nan _ => ⟨.qnan, 0⟩
  | .inf s => ⟨.fin s 1 0, 0⟩
  | .fin s m e =>
    if m = 0 then ⟨a, 0⟩
    else if !absGe m e (-60) then justBelow s m e
    else if absGe m e 6 then justBelow s 1 0
    else
      let (v, n) := expFx (2 * toFx false m e)
      let E := if 0 ≤ n then v <<< n.toNat else v >>> (-n).toNat
      rnd32 s ((E - 2 ^ fxP) * 2 ^ fxP / (E + 2 ^ fxP)) (-fxP)

def fSigm (a : Val) : Res :=
  match a with
  | .nan _ => ⟨.qnan, 0⟩
  | .inf s => ⟨if s then .zero else one32, 0⟩
  | .fin s m e =>
    if m = 0 then ⟨.fin false 1 (-1), 0⟩
    else if absGe m e 8 then (if s then rnd32 false 1 (-300) else justBelow false 1 0)
    else
      let (v, n) := expFx (toFx false m e)
      let E := if 0 ≤ n then v <<< n.toNat else v >>> (-n).toNat
      if s then rnd32 false ((2 ^ fxP * 2 ^ fxP * 2 ^ fxP) / (E + 2 ^ fxP)) (-2 * (fxP : Int))
      else rnd32 false (E * 2 ^ fxP / (E + 2 ^ fxP)) (-fxP)

/-- Σ (−1)^n x2^n / (n! (2n + 1)), from the term `t` = x2^n / n!. -/
def erfSeries (x2 : Nat) : Nat → Nat → Nat → Int
  | 0, _, _ => 0
  | n + 1, k, t => ((t / (2 * k + 1) : Nat) : Int) - erfSeries x2 n (k + 1) (t * x2 / 2 ^ fxP / (k + 1))

/-- 2 / √π in `fxP` fraction bits. -/
def erfC : Nat := isqrt (2 ^ (3 * fxP) * 4 / piFx)

def fErf (a : Val) : Res :=
  match a with
  | .nan _ => ⟨.qnan, 0⟩
  | .inf s => ⟨.fin s 1 0, 0⟩
  | .fin s m e =>
    if m = 0 then ⟨a, 0⟩
    else if absGe m e 3 then justBelow s 1 0
    else
      let x := (toFx false m e).toNat
      rnd32 s (m * erfC * (erfSeries (x * x / 2 ^ fxP) 330 0 (2 ^ fxP)).toNat) (e - 2 * (fxP : Int))

def fRsqrt (a : Val) : Res :=
  match a with
  | .nan _ => ⟨.qnan, 0⟩
  | .inf true => invalidRes
  | .inf false => ⟨.zero, 0⟩
  | .fin s m e =>
    if m = 0 then ⟨.inf s, fDIVZERO⟩
    else if s then invalidRes
    else
      let k : Nat := if e % 2 = 0 then 400 else 401
      let q := 2 ^ k / m
      let r := isqrt q
      roundTo .fp32 .rne false r (-((k : Int) + e) / 2) (decide (2 ^ k % m ≠ 0 ∨ r * r ≠ q))

end Sys2Proof.Fp
end

