-- ==== Sys2Proof/Machine/Ep.lean ====
section
/-! DEFINITION. Element programs as pure functions: the program's words and their check (R159, R160, R179), the operations
of a lane (R165 to R168), passes (R155 to R157), output rows (R164, R169) and reductions (R170 to R173). -/

namespace Sys2Proof.Ep
open Sys2Proof.Fp

/-! ## The header and the operation words -/

def hNops (h : Nat) : Nat := getBits h 0 6
def hOutfmt (h : Nat) : Nat := getBits h 6 3
def hOutsr (h : Nat) : Bool := h.testBit 9
def hRed (h : Nat) : Nat := getBits h 10 2
def hRedop (h : Nat) : Nat := getBits h 12 2
def hOutreg (h : Nat) : Nat := getBits h 14 4
def hRedreg (h : Nat) : Nat := getBits h 18 4
def hWide (h : Nat) : Bool := h.testBit 22
def hPitch (h : Nat) : Nat := 32 * getBits h 24 16
def hRows (h : Nat) : Nat := if getBits h 40 7 = 0 then 128 else getBits h 40 7
def hCols (h : Nat) : Nat := if getBits h 47 7 = 0 then 64 else getBits h 47 7

def oOpc (w : Nat) : Nat := getBits w 0 8
def oDst (w : Nat) : Nat := getBits w 8 4
def oSa (w : Nat) : Nat := getBits w 12 5
def oSb (w : Nat) : Nat := getBits w 17 5
def oSc (w : Nat) : Nat := getBits w 22 5
def oSr (w : Nat) : Bool := w.testBit 27
def oImm (w : Nat) : Nat := getBits w 32 32

/-- How many sources an operation reads, its slots, and whether WIDE allows it; none for a reserved opcode (R165). -/
def opInfo (opc : Nat) : Option (Nat × Nat × Bool) :=
  match opc with
  | 0x00 => some (0, 1, true) | 0x01 => some (1, 1, true) | 0x02 => some (2, 1, true) | 0x03 => some (2, 1, true)
  | 0x04 => some (2, 1, true) | 0x05 => some (3, 1, true) | 0x06 => some (2, 1, true) | 0x07 => some (2, 1, true)
  | 0x08 => some (1, 1, true) | 0x09 => some (1, 1, true) | 0x0A => some (2, 1, true) | 0x0B => some (2, 1, true)
  | 0x0C => some (3, 1, true) | 0x0D => some (3, 1, true)
  | 0x10 => some (1, 2, false) | 0x11 => some (1, 2, false) | 0x12 => some (1, 2, false) | 0x13 => some (2, 2, false)
  | 0x14 => some (1, 2, false) | 0x15 => some (1, 2, false) | 0x16 => some (1, 2, false) | 0x17 => some (1, 2, false)
  | 0x18 => some (1, 2, false) | 0x19 => some (1, 2, false) | 0x1A => some (1, 2, false)
  | 0x20 => some (1, 1, true) | 0x21 => some (1, 1, false) | 0x22 => some (0, 1, false)
  | _ => none

/-- Whether an operation reads a source code. -/
def reads (w code : Nat) : Bool :=
  match opInfo (oOpc w) with
  | some (n, _, _) => (decide (0 < n) && oSa w == code) || (decide (1 < n) && oSb w == code) || (decide (2 < n) && oSc w == code)
  | none => false

/-- The formats of the matrix format codes that an output may have. -/
inductive OFmt where
  | s (f : Fmt) | b (f : BFmt) | none_
  deriving DecidableEq, Repr

def ofmt (code : Nat) : OFmt :=
  match code with
  | 0 => .s .fp64 | 1 => .s .fp32 | 2 => .s .eq16 | 3 => .s .eq8a | 4 => .s .eq8b | 5 => .b .eb8 | 6 => .b .eb4 | _ => .none_

/-- BAD_PROGRAM, BAD_WIDE and BAD_OUTPUT (R179): the check when a program loads. `pair` is set when the register named
was last closed as an FP64 pair, `oddTr` when a WIDE program names an odd register. -/
def check (h : Nat) (ops : List Nat) (pair oddTr : Bool) : Option Nat :=
  let badOp := fun (w : Nat) =>
    (opInfo (oOpc w)).isNone || decide (24 ≤ oSa w) || decide (24 ≤ oSb w) || decide (24 ≤ oSc w)
      || decide (getBits w 28 4 ≠ 0) || (oSr w && oOpc w != 0x21)
      || (oOpc w == 0x21 && !(decide (2 ≤ getBits w 32 3) && decide (getBits w 32 3 ≤ 4)))
  if hNops h = 0 || decide (32 < hNops h) || h.testBit 23 || decide (getBits h 54 10 ≠ 0) || ops.any badOp then some 0x0501
  else if (hWide h && ops.any (fun w => match opInfo (oOpc w) with
      | some (_, _, ok) => !ok
      | none => true)) || (hWide h != pair) || (hWide h && oddTr) then some 0x0502
  else if (hWide h && decide (hOutfmt h ≠ 7) && decide (1 < hOutfmt h))
      || (hOutsr h && !(decide (2 ≤ hOutfmt h) && decide (hOutfmt h ≤ 4)))
      || decide (64 < hCols h)
      || (match ofmt (hOutfmt h) with
        | .b f => decide (hCols h % f.n ≠ 0)
        | _ => false) then some 0x0503
  else none

/-! ## The operations of a lane -/

/-- What the lanes read beside their registers. -/
structure Inp where
  acc : Val
  acc2 : Val
  rowv : Val
  colv : Val
  row : Nat
  col : Nat
  deriving DecidableEq, Repr

/-- The state of a lane in a pass. -/
structure Lane where
  inp : Inp
  v : List Val
  ctx : RngCtx
  deriving DecidableEq, Repr

/-- A source's value (R160, R161). -/
def src (ln : Lane) (imm code : Nat) : Val :=
  if code < 16 then ln.v.getD code .zero
  else match code with
    | 16 => ln.inp.acc | 17 => ln.inp.acc2 | 18 => ln.inp.rowv | 19 => ln.inp.colv
    | 20 => decode .fp32 imm | 21 => ofInt ln.inp.row | 22 => ofInt ln.inp.col
    | _ => .zero

/-- The result of an operation: the value, the flags, and why it is a NaN event (R106) if it is one. -/
structure OpRes where
  v : Val
  fl : Nat
  ev : Option Nat
  deriving DecidableEq, Repr

/-- A result with its NaN event: an operand NaN is propagated, otherwise the operation was invalid. DESIGN CHOICE (log 44): a signalling NaN
operand counts as an invalid operation, CAUSE 0, since the table of R106 gives no precedence. -/
def mk (ops : List Val) (r : Res) : OpRes :=
  if r.v.isNan then ⟨.qnan, r.fl ||| fNANSEEN, some (if ops.any Val.isNan ∧ ¬ r.fl.testBit 0 then 1 else 0)⟩
  else ⟨r.v, r.fl, none⟩

/-- A quiet result of NaN operands, or else `v`. -/
def minMax (a b : Val) (v : Val) : OpRes := if a.isNan || b.isNan then mk [a, b] (nanRes [a, b]) else ⟨v, 0, none⟩

/-- The smaller of two numbers, −0 below +0. -/
def minV (a b : Val) : Val :=
  match cmp a b with
  | some i => if i < 0 then a else if 0 < i then b else if a.neg then a else b
  | none => .qnan
/-- The larger of two numbers, +0 above −0. -/
def maxV (a b : Val) : Val :=
  match cmp a b with
  | some i => if i < 0 then b else if 0 < i then a else if a.neg then b else a
  | none => .qnan

def one : Val := .fin false 1 0

/-- One operation (R165 to R168), with the draw `d` for RAND and CVTR with SR. -/
def op (f : Fmt) (w : Nat) (ln : Lane) (d : Nat) : OpRes :=
  let imm := oImm w
  let a := src ln imm (oSa w)
  let b := src ln imm (oSb w)
  let c := src ln imm (oSc w)
  match oOpc w with
  | 0x01 => ⟨a, 0, none⟩
  | 0x02 => mk [a, b] (add f .rne a b)
  | 0x03 => mk [a, b] (sub f .rne a b)
  | 0x04 => mk [a, b] (mul f .rne a b)
  | 0x05 => mk [a, b, c] (fma f .rne a b c)
  | 0x06 => minMax a b (minV a b)
  | 0x07 => minMax a b (maxV a b)
  | 0x08 => mk [a] ⟨a.abs, 0⟩
  | 0x09 => mk [a] ⟨a.negate, 0⟩
  | 0x0A => ⟨if cmp a b = some (-1) then one else .zero, if (cmp a b).isNone then fINVALID else 0, none⟩
  | 0x0B => ⟨if cmp a b = some 0 then one else .zero, if a == .nan true || b == .nan true then fINVALID else 0, none⟩
  | 0x0C => ⟨if !a.isNan && !a.isZero then b else c, 0, none⟩
  | 0x0D =>
    let m := minMax a b (maxV a b)
    let r := minMax m.v c (minV m.v c)
    ⟨r.v, m.fl ||| r.fl, if m.ev.isSome then m.ev else r.ev⟩
  | 0x10 => mk [a] (if a.isNan then ⟨.qnan, 0⟩ else div f .rne one a)
  | 0x11 => mk [a] (fRsqrt a)
  | 0x12 => mk [a] (if a.isNan then ⟨.qnan, 0⟩ else sqrt f .rne a)
  | 0x13 => mk [a, b] (if a.isNan || b.isNan then ⟨.qnan, 0⟩ else div f .rne a b)
  | 0x14 => mk [a] (fExp2 a)
  | 0x15 => mk [a] (fExp a)
  | 0x16 => mk [a] (fLog true a)
  | 0x17 => mk [a] (fLog false a)
  | 0x18 => mk [a] (fTanh a)
  | 0x19 => mk [a] (fSigm a)
  | 0x1A => mk [a] (fErf a)
  | 0x20 => mk [a] (roundVal f .rne (a.scale (sext 32 imm)))
  | 0x21 =>
    let g : Fmt := if getBits imm 0 3 = 2 then .eq16 else if getBits imm 0 3 = 3 then .eq8a else .eq8b
    mk [a] (if oSr w then roundSr g d a else roundVal g .rne a)
  | 0x22 => ⟨.fin false d (-24), 0, none⟩
  | _ => ⟨.zero, 0, none⟩

/-- Whether an operation draws. -/
def draws (w : Nat) : Bool := oOpc w == 0x22 || (oOpc w == 0x21 && oSr w)

/-- One operation in one lane, with its draw (R213). -/
def stepLane (f : Fmt) (key w : Nat) (ln : Lane) : Lane × OpRes :=
  let (d, ctx) := if draws w then Rng.draw key ln.ctx else (0, ln.ctx)
  let d := if oOpc w = 0x22 then d >>> 8 else d >>> 16
  let r := op f w ln d
  ({ ln with ctx, v := if oOpc w = 0 then ln.v else ln.v.set (oDst w) r.v }, r)

/-- A NaN event: element, INSTR, PC and CAUSE (R106, R661). -/
structure Hit where
  elem : Nat
  instr : Nat
  pc : Nat
  cause : Nat
  deriving DecidableEq, Repr

/-- What a program has done so far, with its passes. -/
structure Out where
  rows : List (Nat × List Byte) := []
  red : Option (List Byte) := none
  fl : Nat := 0
  uf : Nat := 0
  hits : List Hit := []
  stop : Bool := false
  np : Nat := 0
  deriving DecidableEq, Repr

/-- The operations of one pass, stopping after the first that writes a NaN under NaN watch (R105). -/
def runOps (f : Fmt) (key : Nat) (watch : Bool) : List (Nat × Nat) → List Lane → Out → List Lane × Out
  | [], lns, o => (lns, o)
  | (w, pc) :: ws, lns, o =>
    if o.stop then (lns, o) else
      let rs := lns.map (stepLane f key w)
      let fl := rs.foldl (fun n r => n ||| r.2.fl) o.fl
      let hits := rs.filterMap (fun r => r.2.ev.map (fun c =>
        (⟨r.1.inp.row * 64 + r.1.inp.col, w % 2 ^ 32, pc, c⟩ : Hit)))
      runOps f key watch ws (rs.map (·.1))
        { o with fl, hits := o.hits ++ hits, stop := watch && !hits.isEmpty }

/-! ## Output rows -/

/-- One converted element: its bytes, flags, and cause if it is a NaN event. In the program's own format it is only moved. -/
def convOut (pf g : Fmt) (sr : Bool) (d : Nat) (v : Val) : List Byte × Nat × Option Nat :=
  let r : Res := if pf = g then ⟨v, 0⟩ else if sr then roundSr g d v else roundVal g .rne v
  let isConv := pf != g
  (leBytes (g.width / 8) (encode g r.v), r.fl ||| (if v.isNan && isConv then fNANSEEN else 0),
    if v.isNan && isConv then some (if v == .nan true then 0 else 1) else none)

/-- One output row: its values (first OCOLS columns) with their 16-bit draws (R164, R169). -/
def rowOut (pf : Fmt) (h aclass : Nat) (vs : List (Val × Nat)) : List Byte × Nat × Nat × List (Nat × Nat) :=
  match ofmt (hOutfmt h) with
  | .s g =>
    vs.zipIdx.foldl (fun a p =>
      let (b, fl, ev) := convOut pf g (hOutsr h) p.1.2 p.1.1
      (a.1 ++ b, a.2.1 ||| fl, a.2.2.1, match ev with
        | some c => a.2.2.2 ++ [(p.2, c)]
        | none => a.2.2.2)) ([], 0, 0, [])
  | .b g =>
    let bl := (chunks g.n (vs.length / g.n + 1) (vs.map (·.1))).map (encodeBlock g aclass)
    let bytes := bl.flatMap (·.bytes)
    (bytes ++ List.replicate ((32 - bytes.length % 32) % 32) 0#8, bl.foldl (fun n b => n ||| b.fl) 0,
      bl.foldl (fun n b => n + b.uf) 0, vs.zipIdx.filterMap (fun p => if p.1.1.isNan then some (p.2, 3) else none))
  | .none_ => ([], 0, 0, [])

/-! ## Reductions -/

/-- One node of a reduction: the sum rounds once; the others are exact, with INVALID for a signalling NaN (R88, R170, R173). -/
def redNode (f : Fmt) (redop : Nat) (a b : Option Val × Nat) : Option Val × Nat :=
  match a.1, b.1 with
  | none, _ => (b.1, a.2 ||| b.2)
  | _, none => (a.1, a.2 ||| b.2)
  | some x, some y =>
    if redop = 0 then
      let r := add f .rne x y
      (some r.v, a.2 ||| b.2 ||| r.fl)
    else if x.isNan || y.isNan then (some .qnan, a.2 ||| b.2 ||| (nanRes [x, y]).fl)
    else if redop = 2 then (some (minV x y), a.2 ||| b.2)
    else (some (maxV x y), a.2 ||| b.2)

/-- Neighbours combined in pairs: one level of the tree. -/
def pairUp {α : Type} (g : α → α → α) : List α → List α
  | a :: b :: t => g a b :: pairUp g t
  | l => l

/-- A pairwise tree of at most `n` levels. -/
def tree {α : Type} (g : α → α → α) : Nat → List α → List α
  | 0, l => l
  | n + 1, l => tree g n (pairUp g l)

/-- An input of a reduction: the magnitude for REDOP 3, none where masked. -/
def redIn (redop : Nat) (v : Option Val) : Option Val × Nat :=
  (v.map (fun x => if redop = 3 then (if x.isNan then x else x.abs) else x), 0)

/-- The tree over the inputs of one result within a pass. -/
def redTree (f : Fmt) (redop : Nat) (vs : List (Option Val × Nat)) : Option Val × Nat :=
  ((tree (redNode f redop) 8 vs).head?).getD (none, 0)

/-- The axis unit over the pass results of one value (R172). -/
def axis (f : Fmt) (redop : Nat) (pairwise : Bool) (vs : List (Option Val × Nat)) : Option Val × Nat :=
  if pairwise then ((tree (redNode f redop) 7 vs).head?).getD (none, 0)
  else vs.foldl (redNode f redop) (none, 0)

/-! ## A whole program -/

/-- What a program runs with: register contents, vectors, keys and modes. -/
structure Env where
  h : Nat
  ops : List Nat
  acc : Nat → Val
  acc2 : Nat → Val
  rowv : Nat → Val
  colv : Nat → Val
  key : Nat
  aclass : Nat
  pairwise : Bool
  watch : Bool

/-- Columns per row in the order of lanes is 64; lanes (or quads) per pass. -/
def lanesPer (h : Nat) : Nat := if hWide h then 128 else 512
def rowsPer (h : Nat) : Nat := if hWide h then 2 else 8
def passes (h : Nat) : Nat := if hWide h then 64 else 16

/-- The running result of the passes: contexts, output, row results, and per-pass partial results. -/
structure Acc where
  ctxs : SM RngCtx
  out : Out
  rowRes : List (Option Val × Nat)
  parts : List (List (Option Val × Nat))

def defCtx : RngCtx := ⟨0, 0, 0, false⟩

/-- One pass (R155 to R157, R164, R170, R171). -/
def pass (e : Env) (p : Nat) (a : Acc) : Acc :=
  if a.out.stop then a else
    let f : Fmt := if hWide e.h then .fp64 else .fp32
    let n := lanesPer e.h
    let rp := rowsPer e.h
    let lns : List Lane := (List.range n).map (fun l =>
      let row := rp * p + l / 64
      let col := l % 64
      ⟨⟨e.acc (row * 64 + col), e.acc2 (row * 64 + col), e.rowv row, e.colv col, row, col⟩,
        List.replicate 16 .zero, SM.getD defCtx a.ctxs l⟩)
    let (lns, o) := runOps f e.key e.watch e.ops.zipIdx lns { a.out with np := a.out.np + 1 }
    let back := fun (ls : List Lane) => ls.zipIdx.foldl (fun m x => SM.setD defCtx m x.2 x.1.ctx) a.ctxs
    if o.stop then { a with ctxs := if e.ops.any draws then back lns else a.ctxs, out := o } else
      let drawn := lns.map (fun ln => if hOutsr e.h then
        let (d, c) := Rng.draw e.key ln.ctx
        ({ ln with ctx := c }, d >>> 16) else (ln, 0))
      let ctxs := if e.ops.any draws || hOutsr e.h then back (drawn.map (·.1)) else a.ctxs
      let rows := (List.range rp).filterMap (fun r =>
        if rp * p + r < hRows e.h ∧ hOutfmt e.h ≠ 7 then
          some (rp * p + r, rowOut f e.h e.aclass
            (((drawn.drop (64 * r)).take (hCols e.h)).map (fun x => (x.1.v.getD (hOutreg e.h) .zero, x.2))))
        else none)
      let hits := rows.flatMap (fun r => r.2.2.2.2.map (fun x => (⟨r.1 * 64 + x.1, e.h % 2 ^ 32, hNops e.h, x.2⟩ : Hit)))
      let o := { o with
        rows := o.rows ++ rows.map (fun r => (r.1, r.2.1))
        fl := rows.foldl (fun m r => m ||| r.2.2.1) o.fl
        uf := rows.foldl (fun m r => m + r.2.2.2.1) o.uf
        hits := o.hits ++ hits
        stop := e.watch && !hits.isEmpty }
      let rv : List (List (Option Val × Nat)) := (List.range rp).map (fun r =>
        (List.range 64).map (fun c => redIn (hRedop e.h)
          (if rp * p + r < hRows e.h ∧ c < hCols e.h then
            (drawn.getD (64 * r + c) (⟨⟨.zero, .zero, .zero, .zero, 0, 0⟩, [], defCtx⟩, 0)).1.v[hRedreg e.h]? else none)))
      let rowRes := if hRed e.h = 1 then rv.map (redTree f (hRedop e.h)) else []
      let parts := if hRed e.h = 2 then (List.range 64).map (fun c => redTree f (hRedop e.h) (rv.map (fun r => r.getD c (none, 0))))
        else if hRed e.h = 3 then [redTree f (hRedop e.h) (rv.map (redTree f (hRedop e.h)))] else []
      { ctxs, out := o, rowRes := a.rowRes ++ rowRes, parts := a.parts ++ [parts] }

/-- A program over a register (R155 to R173): its output rows, reduction bytes, flags, events and contexts. -/
def run (e : Env) (ctxs : SM RngCtx) : Out × SM RngCtx :=
  let f : Fmt := if hWide e.h then .fp64 else .fp32
  let a := (List.range (passes e.h)).foldl (fun a p => pass e p a) ⟨ctxs, {}, [], []⟩
  if a.out.stop || hRed e.h == 0 then (a.out, a.ctxs) else
    let res : List (Option Val × Nat) :=
      if hRed e.h = 1 then a.rowRes
      else (List.range (if hRed e.h = 2 then hCols e.h else 1)).map (fun c =>
        axis f (hRedop e.h) e.pairwise (a.parts.map (fun p => p.getD c (none, 0))))
    let fin := res.filter (fun r => r.1.isSome)
    let vals := fin.filterMap (fun r => r.1)
    let hits := fin.zipIdx.filterMap (fun x => if (x.1.1.getD .zero).isNan then
      some (⟨if hRed e.h = 1 then x.2 * 64 else if hRed e.h = 2 then x.2 else 0, e.h % 2 ^ 32, hNops e.h,
        if x.1.2.testBit 0 then 0 else 1⟩ : Hit) else none)
    ({ a.out with
        red := some (vals.flatMap (fun v => leBytes (f.width / 8) (encode f v)))
        fl := res.foldl (fun n r => n ||| r.2) a.out.fl ||| (if hits.isEmpty then 0 else fNANSEEN)
        hits := a.out.hits ++ hits
        stop := e.watch && !hits.isEmpty }, a.ctxs)

end Sys2Proof.Ep
end

