-- ==== Sys2Proof/Machine/Vxt.lean ====
section
/-! DEFINITION. Tile programs: threads and queues (R180 to R182), addresses and registers of the tile core (R145), the weight-version
scoreboard that starts them (R194 to R200), how a program starts, halts, faults and traps (R105, R148, R152), and the shell
of every engine instruction. -/

namespace Sys2Proof.Machine

/-! ## Threads and registers -/

/-- The threads that run program descriptors of a stream (R180, R408). -/
def queueThreads (stream : Nat) : List Nat :=
  match stream with
  | 0 => [0, 1, 2, 3] | 1 => [4, 5, 6, 7] | 2 => [8, 9] | 3 => [10, 11] | 4 => [10, 11] | 5 => [12, 13, 14] | _ => []

def State.thr (s : State) (t th : Nat) : VThread := SM.getD {} s.vthr (t * 16 + th)
def State.setThr (s : State) (t th : Nat) (x : VThread) : State := { s with vthr := SM.setD {} s.vthr (t * 16 + th) x }
def State.updThr (s : State) (t th : Nat) (f : VThread → VThread) : State := s.setThr t th (f (s.thr t th))

/-- A general register of a tile-core thread. -/
def State.greg (s : State) (t th n : Nat) : Nat := (SM.getD 0 (s.thr t th).g n).toNat
def State.setGreg (s : State) (t th n : Nat) (v : BitVec 64) : State :=
  s.updThr t th (fun x => { x with g := SM.setD 0 x.g n v })

/-- A word of R145: whether it names node memory, and the address; none where its reserved bits are set. -/
def locOf (w : Nat) : Option (Bool × Nat) := if getBits w 48 15 ≠ 0 then none else some (w.testBit 63, getBits w 0 48)

/-- One byte of a tile's scratchpad or of node memory. -/
def State.locByte (s : State) (t : Nat) (node : Bool) (a : Nat) : Byte :=
  if node then s.rdByte a else SM.getD 0 s.spad (spadKey t a)

/-- Bytes of a tile's scratchpad or of node memory. -/
def State.locBytes (s : State) (t : Nat) (node : Bool) (a n : Nat) : List Byte :=
  (List.range n).map (fun i => s.locByte t node (a + i))

/-- The cause for which an access by a tile's programs faults (R152, R192, R305, R316, R319), with the RANGE code of its
chapter. -/
def State.locFault (s : State) (t : Nat) (wr node : Bool) (a n range : Nat) : Option Nat :=
  if node then
    match (if wr then s.wrCheck a n else s.rdCheck a n) with
    | some e => some (e.cause range range)
    | none => if s.touchesLow a n then some causeLOW_HALF else none
  else if s.stageBase t < a + n then some range else none

/-- Writes of a tile's programs to its scratchpad or to node memory; the error is a cause. -/
def State.locWrite (s : State) (t : Nat) (node : Bool) (w : Writer) (a : Nat) (bs : List Byte) (range : Nat) : Except (State × Nat) State :=
  if node then
    match s.write w a bs with
    | .ok s => .ok s
    | .error e => .error (s.noteErr e, e.cause range range)
  else .ok (s.spadWrite t a bs)

/-! ## Use words (R194 to R198) -/

def useReg (u : Nat) : Nat := getBits u 0 6
def useUpd (u : Nat) : Bool := u.testBit 6
def useVer (u : Nat) : Nat := getBits u 8 16
def useCount (u : Nat) : Nat := getBits u 24 8

/-- The use words in force of a descriptor. -/
def usesOf (raw : BitVec 512) : List Nat :=
  let l :=
    if dOp raw = 0x101 then
      [getBits (dArg raw 2) 0 32, getBits (dArg raw 2) 32 32, getBits (dArg raw 3) 0 32, getBits (dArg raw 3) 32 32]
    else if dOp raw = 0x102 ∨ dOp raw = 0x104 ∨ dOp raw = 0x105 then [getBits (dArg raw 0) 0 32]
    else []
  l.filter (fun u => u.testBit 7)

/-- A region of the live table. -/
def State.region (s : State) (w : Nat) : Region := SM.getD applyTr.emptyRegion s.live.regions w

/-- Whether version `v` is behind a region's (R195). -/
def behind (r : Region) (v : Nat) : Bool :=
  let d := (r.ver.toNat + 65536 - v % 65536) % 65536
  decide (1 ≤ d) && decide (d ≤ 32767)

/-- A running descriptor with a use of region `w`. -/
def State.usedBy (s : State) (w : Nat) (upd : Bool) (not : DRef) : Bool :=
  s.descs.any (fun x => x.st == .running && x.ref != not && (usesOf x.raw).any (fun u => useReg u == w && useUpd u == upd))

/-- Finished reads of the present version that count for a step (R197). -/
def readsFor (r : Region) (tag : BitVec 64) : Nat :=
  (r.reads.filter (fun p => p.1 ≤ tag.toNat)).foldl (fun n p => n + p.2) 0

/-- What the scoreboard says of a descriptor's uses. -/
inductive Score where
  | go | wait | fault (cause : Nat)
  deriving DecidableEq, Repr

/-- The scoreboard's conditions for a descriptor to start (R196 to R198). -/
def State.score (s : State) (x : InDesc) : Score :=
  let us := usesOf x.raw
  let upd := us.filter useUpd
  let regs := us.map useReg
  let bad := (dStream x.raw ≠ 2 ∧ upd ≠ []) ∨ 1 < upd.length ∨ regs.eraseDups.length ≠ regs.length
    ∨ us.any (fun u => (s.region (useReg u)).count = 0) ∨ us.any (fun u => !useUpd u && useCount u != 0)
    ∨ ((dOp x.raw = 0x102 ∨ dOp x.raw = 0x104) ∧ upd = []) ∨ (dOp x.raw = 0x105 ∧ (us = [] ∨ upd ≠ []))
  if bad then .fault 0x0605
  else if us.any (fun u => behind (s.region (useReg u)) (useVer u)) then .fault 0x0602
  else if us.all (fun u =>
      let r := s.region (useReg u)
      r.ver.toNat == useVer u
        && (if useUpd u then decide (useCount u ≤ readsFor r x.step) && !s.usedBy (useReg u) false x.ref && !s.usedBy (useReg u) true x.ref
            else !s.usedBy (useReg u) true x.ref)) then .go
  else .wait

/-- The finished read of each read use, on `n` tiles (R196). -/
def State.scoreReads (s : State) (x : InDesc) (n : Nat) : State :=
  ((usesOf x.raw).filter (fun u => !useUpd u)).foldl (fun s u =>
    if (s.region (useReg u)).ver.toNat = useVer u then
      (List.range n).foldl (fun s _ => s.trs x.step (.regionRead (useReg u) x.step.toNat (BitVec.ofNat 16 (useVer u)))) s
    else s) s

/-- The end of an update use on every tile (R197). -/
def State.scoreUpd (s : State) (x : InDesc) : State :=
  ((usesOf x.raw).filter useUpd).foldl (fun s u => s.trs x.step (.regionUpd (useReg u) (BitVec.ofNat 16 (useVer u + 1)))) s

/-! ## How programs end -/

/-- The first fault or trap of a running program descriptor decides its status (R105, R152). -/
def State.outcome (s : State) (d : DRef) (status result : Nat) : State :=
  s.updDesc d (fun x => if x.status = 0 then { x with status := BitVec.ofNat 16 status, result := BitVec.ofNat 32 result } else x)

/-- Finishes a program descriptor once nothing of it is left (R148, R197, R370). -/
def State.progCheck (s : State) (d : DRef) : State :=
  match s.desc? d with
  | some x =>
    if s.progReady x then
      let o := s.progOutcome x
      ((s.progClean d).scoreUpd x).finish d o.1 o.2
    else s
  | none => s

/-- A thread whose program has ended gives up the descriptor once its transfers are done: the descriptor has finished on
that tile. -/
def State.release (s : State) (t th : Nat) : State :=
  let x := s.thr t th
  match x.run with
  | some d =>
    if x.halted ∧ x.xfers = [] then
      let s := s.setThr t th { x with run := none, halted := false }
      let s := match s.desc? d with
        | some y => (s.updDesc d (fun z => { z with left := z.left &&& (2 ^ 32 - 1 - 2 ^ t) })).scoreReads y 1
        | none => s
      s.progCheck d
    else s
  | none => s

/-- The program of a thread halts. -/
def State.haltThr (s : State) (t th : Nat) : State := (s.updThr t th (fun x => { x with halted := true })).release t th

/-- The tile core stops a thread's program with a status and RESULT (R152). -/
def State.stopProgram (s : State) (t th : Nat) (d : DRef) (status result : Nat) : State :=
  (s.outcome d status result).haltThr t th

/-- RESULT of a fault on a tile (R152). -/
def tileResult (t cause : Nat) : Nat := cause ||| t <<< 16

/-- The NaN events of an instruction of a stream on a unit, under NaN watch (R105): the record, and the stopped stream. Each
hit is (ELEMENT, INSTR, PC, CAUSE); hits of one cycle count from the lowest ELEMENT. -/
def State.nanHits (s : State) (tag : BitVec 64) (unit stream thread : Nat) (hits : List (Nat × Nat × Nat × Nat)) : State :=
  if hits.isEmpty ∨ ¬ s.flag fNANWATCH then s
  else
    let s := (sortBy (fun (a b : Nat × Nat × Nat × Nat) => decide (a.1 ≤ b.1)) hits).foldl
      (fun s h => s.nanEvent tag unit stream thread h.1 h.2.1 h.2.2.1 h.2.2.2) s
    if s.isStopped unit stream thread then s else s.stopStream tag unit stream thread

/-- Stops the other programs of a stopped stream on a tile with STREAM_STOPPED; `th` is the thread that wrote the NaN, if
any. -/
def State.stopOthers (s : State) (t stream : Nat) (th : Option Nat) : State :=
  (queueThreads stream).foldl (fun s k =>
    match (s.thr t k).run with
    | some e => if th ≠ some k ∧ ((s.desc? e).map (fun x => dStream x.raw)) = some stream then s.stopProgram t k e stSTOPPED 0 else s
    | none => s) s

/-- Stops every program of a stopped stream on a tile: the one that wrote the NaN with NAN_TRAP. -/
def State.trapTile (s : State) (t th : Nat) (d : DRef) (stream : Nat) : State :=
  (s.stopProgram t th d stNAN_TRAP 0).stopOthers t stream (some th)

/-- After an instruction of a tile program: its flags, underflows and NaN events; a trap stops the program. -/
def State.progFlags (s : State) (t th : Nat) (d : DRef) (fl uf : Nat) (hits : List (Nat × Nat × Nat × Nat)) : State :=
  match s.desc? d with
  | none => s
  | some x =>
    let s := s.tileFlags x.step t (if hits.isEmpty then fl else fl ||| Fp.fNANSEEN) uf
    let stream := dStream x.raw
    let s' := s.nanHits x.step t stream 0 hits
    if hits.isEmpty ∨ ¬ s.flag fNANWATCH then s' else s'.trapTile t th d stream

/-! ## Starting programs -/

/-- A tile under BLOCK reset, or stopped at reef level 4 (R7), issues nothing. -/
def State.tileOff (s : State) (t : Nat) : Bool := s.inBlk t || s.reefStop t
def State.tileClosed (s : State) (raw : BitVec 512) : Bool := (tilesOf raw).any s.tileOff

/-- The lowest free thread of a stream's queue on a tile. -/
def State.freeThr (s : State) (t stream : Nat) : Option Nat := (queueThreads stream).find? (fun k => (s.thr t k).run.isNone)

/-- The cause for which PROG faults on a tile (R148, R192). -/
def State.progFault (s : State) (t prog : Nat) : Option Nat :=
  match locOf prog with
  | none => some 0x0407
  | some (node, a) =>
    if a % 8 ≠ 0 then some 0x0407
    else if node then (match s.rdCheck a 8 with
      | some .wait => none
      | some e => some (e.cause 0x0408 0x0408)
      | none => if s.touchesLow a 8 then some causeLOW_HALF else none)
    else if s.stageBase t < a + 8 then some 0x0408 else none

/-- Starts a program on one tile (R148): on a thread with g1 to g5 set; `halts` says that it runs no engine instruction. -/
def State.startTile (s : State) (d : DRef) (x : InDesc) (halts : BitVec 32) (t : Nat) : State :=
  match s.freeThr t (dStream x.raw) with
  | none => s
  | some th =>
    let g := (List.range 4).foldl (fun g k => SM.setD 0 g (k + 1) (BitVec.ofNat 64 (dArg x.raw k))) (s.thr t th).g
    let s := s.setThr t th { g := SM.setD 0 g 5 (BitVec.ofNat 64 t), run := some d, pc := BitVec.ofNat 64 (dProg x.raw), xfers := [], halted := false }
    match s.progFault t (dProg x.raw) with
    | some c => s.stopProgram t th d stEXEC_ERROR (tileResult t c)
    | none => if halts.getLsbD t then s.haltThr t th else s

/-- The tiles of `todo` on which a program descriptor can start now (R182): a thread of its queue is free, the tile issues, and every
descriptor that R44 puts before it has started there. -/
def State.startable (s : State) (x : InDesc) (todo : Nat) : List Nat :=
  (setBits 32 todo).filter (fun t => !s.tileOff t && (s.freeThr t (dStream x.raw)).isSome
    && !(s.earlier x).any (fun y => dStream y.raw = dStream x.raw && y.todo.testBit t))

/-- Starts a program descriptor on the tiles where it can start; where its stream has been stopped meanwhile, its part there ends
(R105). -/
def State.startParts (s : State) (d : DRef) (x : InDesc) (halts : BitVec 32) (todo : Nat) : State :=
  let dead := (setBits 32 todo).filter (fun t => s.isStopped t (dStream x.raw) 0)
  let ts := (s.startable x todo).filter (fun t => !dead.contains t)
  let clear := fun (n : Nat) => (dead ++ ts).foldl (fun n t => n &&& (2 ^ 32 - 1 - 2 ^ t)) n
  let s := s.updDesc d (fun y => { y with todo := clear todo, left := dead.foldl (fun n t => n &&& (2 ^ 32 - 1 - 2 ^ t)) y.left })
  let s := if dead = [] then s else s.outcome d stSTOPPED 0
  (ts.foldl (fun s t => s.startTile d x halts t) s).progCheck d

/-- What R182 asks of a descriptor of a tile queue beside its own conditions: a place in the queue, fences, order, the scoreboard. -/
def State.tileStart (s : State) (d : DRef) (op : Nat) (k : InDesc → Res) : Res :=
  match s.desc? d with
  | none => .refused .notPending
  | some x =>
    if x.st ≠ .waiting ∨ dOp x.raw ≠ op then .refused .notPending
    else if s.queueFull x then .next s
    else if ¬ s.orderOk x then .next s
    else match s.score x with
      | .fault c => .next (s.execError d c)
      | .wait => .next s
      | .go => k x

/-- The same for a descriptor that acts on all its tiles at once. -/
def State.rowStart (s : State) (d : DRef) (op : Nat) (k : InDesc → Res) : Res :=
  s.tileStart d op (fun x => if s.tileClosed x.raw then .next s else k x)

/-- A program descriptor starts tile by tile (R182), and completes at once where a tile's stream is stopped (R105); the command starts it
where it can, also on the tiles that are left when it has begun. -/
def State.progStart (s : State) (d : DRef) (halts : BitVec 32) (op : Nat) : Res :=
  match s.desc? d with
  | none => .refused .notPending
  | some x =>
    if x.st = .running ∧ dOp x.raw = op ∧ x.todo ≠ 0 then .next (s.startParts d x halts x.todo)
    else s.tileStart d op (fun x =>
      if (tilesOf x.raw).any (fun t => s.isStopped t (dStream x.raw) 0) then .next (s.finish d stSTOPPED 0)
      else if s.startable x (dMask x.raw) = [] ∧ tilesOf x.raw ≠ [] then .next s
      else .next ((s.running d (dMask x.raw)).startParts d x halts (dMask x.raw)))

/-- R148. -/
def execTileRun (d : DRef) (halts : BitVec 32) (s : State) : Res := s.progStart d halts 0x100

/-- R194: as TILE_RUN, with use words in ARG2 and ARG3. -/
def execTrainRun (d : DRef) (halts : BitVec 32) (s : State) : Res := s.progStart d halts 0x101

/-! ## The shell of an engine instruction -/

/-- What an engine instruction answers: done, a fault with its cause (0: not yet), or not yet. -/
inductive VRes where
  | ok (s : State)
  | fault (s : State) (cause : Nat)
  | wait
  deriving DecidableEq, Repr

/-- What a write makes of an instruction: one that waits for an image slot (R470) leaves the instruction to be issued again. -/
def vresOf : Except (State × Nat) State → VRes
  | .ok s => .ok s
  | .error (s, c) => if c = 0 then .wait else .fault s c

/-- One scalar instruction of a thread (R316, R319): a load is zero-extended; an access that faults stops the program. -/
def State.scalar (s : State) (t th : Nat) (d : DRef) : Scalar → VRes
  | .reg g v => .ok (s.updThr t th (fun x => { x with g := SM.setD 0 x.g g.val v }))
  | .load g w n => match locOf w.toNat with
    | none => .fault s 0x0407
    | some (node, a) => match s.locFault t false node a (2 ^ n.val) 0x0408 with
      | some 0 => .wait
      | some c => .fault s c
      | none => .ok (s.updThr t th (fun x => { x with g := SM.setD 0 x.g g.val (BitVec.ofNat 64 (leNat (s.locBytes t node a (2 ^ n.val)))) }))
  | .store w n v => match locOf w.toNat with
    | none => .fault s 0x0407
    | some (node, a) => match s.locFault t true node a (2 ^ n.val) 0x0408 with
      | some 0 => .wait
      | some c => .fault s c
      | none => vresOf (s.locWrite t node (s.writer d t) a (leBytes (2 ^ n.val) v.toNat) 0x0408)

/-- What a thread's scalar instructions do, in order, up to the first that faults or waits. -/
def State.scalars (s : State) (t th : Nat) (d : DRef) (l : List Scalar) : VRes :=
  l.foldl (fun r x => match r with
    | .ok s => s.scalar t th d x
    | r => r) (.ok s)

/-- The shell of every VXT instruction. The named thread runs a program and issues a word whose OP is the row's; the
registers hold what its scalar instructions wrote. A fault stops the program (R152); after its last instruction it halts. -/
def State.vxt (s : State) (i : VxtIssue) (op : Nat → Bool) (k : State → DRef → VRes) : Res :=
  let t := i.tile.val
  let th := i.thread.val
  let x := s.thr t th
  match x.run with
  | none => .refused .notPending
  | some d =>
    if x.halted ∨ ¬ op (i.word.toNat % 256) then .refused .notPending
    else if s.reefStop t ∨ s.remote.ops.any (fun o => o.by_ = .tile t th && o.waits) then .next s
    else
      let go := fun (s : State) => k (s.updThr t th (fun x => { x with pc := i.pc })) d
      match (match s.scalars t th d i.scalars with
        | .ok s => go s
        | r => r) with
      | .wait => .next s
      | .fault s' c => .next (if c = 0 then s else s'.stopProgram t th d stEXEC_ERROR (tileResult t c))
      | .ok s => .next (if i.last then s.haltThr t th else s)

end Sys2Proof.Machine
end

