-- ==== Sys2Proof/Machine/Matrix.lean ====
section
/-! DEFINITION. The matrix engine's instructions (chapter 04): MZERO, MMA, MCLOSE, MLOAD and MSTORE over tile registers, wide
accumulators and chains. -/

namespace Sys2Proof.Machine
open Sys2Proof.Fp Sys2Proof.Mx

/-! ## The instruction word (R144) -/

def mCmask (w : Nat) : Nat := getBits w 8 4
def mTr (w : Nat) : Nat := getBits w 12 2
def mFa (w : Nat) : Nat := getBits w 14 3
def mFb (w : Nat) : Nat := getBits w 17 3
def mTa (w : Nat) : Bool := w.testBit 20
def mTb (w : Nat) : Bool := w.testBit 21
def mLa (w : Nat) : Bool := w.testBit 22
def mLb (w : Nat) : Bool := w.testBit 23
def mSplit (w : Nat) : Bool := w.testBit 24
def mGang (w : Nat) : Bool := w.testBit 25
def mZero (w : Nat) : Bool := w.testBit 26
def mCtgt (w : Nat) : Bool := w.testBit 27
def mGa (w : Nat) : Nat := getBits w 32 5
def mGb (w : Nat) : Nat := getBits w 37 5
def mGs (w : Nat) : Nat := getBits w 42 5
/-- A reserved bit is set. -/
def mReserved (w : Nat) : Bool := getBits w 28 4 ≠ 0 || getBits w 47 17 ≠ 0
/-- The cores that CMASK selects, rising. -/
def mCores (w : Nat) : List Nat := setBits 4 (mCmask w)

/-! ## Registers, chains and wide accumulators -/

def trKey (t c r : Nat) : Nat := ((t * 4 + c) * 4 + r) * 8192
def waKey (t c k : Nat) : Nat := ((t * 4 + c) * 2 + k) * 8192
def chKey (t c r : Nat) : Nat := (t * 4 + c) * 4 + r

def State.chain? (s : State) (t c r : Nat) : ChainSt := SM.getD {} s.chain (chKey t c r)
def State.setChain (s : State) (t c r : Nat) (x : ChainSt) : State := { s with chain := SM.setD {} s.chain (chKey t c r) x }

/-- The pattern of element `e` of a register, or of a pair (R113). -/
def State.trPat (s : State) (t c r : Nat) (pair : Bool) (e : Nat) : Nat :=
  (SM.getD 0 s.tr (trKey t c r + e)).toNat + (if pair then (SM.getD 0 s.tr (trKey t c (r + 1) + e)).toNat <<< 32 else 0)

/-- A pattern written to element `e` of a register, or of a pair. -/
def State.setTr (s : State) (t c r : Nat) (pair : Bool) (e p : Nat) : State :=
  let m := SM.setD 0 s.tr (trKey t c r + e) (BitVec.ofNat 32 p)
  { s with tr := if pair then SM.setD 0 m (trKey t c (r + 1) + e) (BitVec.ofNat 32 (p >>> 32)) else m }

/-- Element `e` of a wide accumulator (R114). -/
def State.waElt (s : State) (t c k e : Nat) : WAcc :=
  let x := SM.getD (⟨0, false, 0⟩ : WElt) s.wa (waKey t c k + e)
  ⟨x.n, x.nan, x.res⟩

def State.setWa (s : State) (t c k e : Nat) (w : WAcc) : State :=
  { s with wa := SM.setD ⟨0, false, 0⟩ s.wa (waKey t c k + e) ⟨w.n, w.nan, w.res⟩ }

/-- The wide accumulators bound on a core (R114). -/
def State.waBound (s : State) (t c : Nat) : List Nat :=
  (List.range 4).filterMap (fun r => match (s.chain? t c r).c with
    | .wide k _ => some k
    | _ => none)

/-- Ends whatever chain a register holds, with both halves of an open pair: its wide accumulator is released and cleared (R146). An odd
register's new chain ends the closed pair that it was half of. -/
def State.dropChain (s : State) (t c r : Nat) : State :=
  let x := s.chain? t c r
  let s : State := match x.c with
    | .wide k _ => { s with wa := SM.clear s.wa (waKey t c k) 8192 }
    | _ => s
  let s := s.setChain t c r {}
  if r % 2 = 1 then
    let y := s.chain? t c (r - 1)
    let s : State := match y.pair, y.c with
      | true, .wide k _ => { s with wa := SM.clear s.wa (waKey t c k) 8192 }
      | _, _ => s
    if y.pair then s.setChain t c (r - 1) {} else s
  else if x.pair && x.c != .closed then s.setChain t c (r + 1) {} else s

/-- A new chain on a register or a pair (R131, R146). -/
def State.openChain (s : State) (t c r : Nat) (pair : Bool) (x : Chain) : State :=
  let s := s.dropChain t c r
  let s := if pair then (s.dropChain t c (r + 1)).setChain t c (r + 1) ⟨x, false⟩ else s
  s.setChain t c r ⟨x, pair⟩

/-- MZERO of one core's register or pair. -/
def State.zeroTr (s : State) (t c r : Nat) (pair : Bool) : State :=
  let s := s.openChain t c r pair .cleared
  let m := SM.clear s.tr (trKey t c r) 8192
  { s with tr := if pair then SM.clear m (trKey t c (r + 1)) 8192 else m }

/-- A register whose chain is open (R147). -/
def State.isOpen (s : State) (t c r : Nat) : Bool := (s.chain? t c r).c != .closed

/-- A register, or its pair, that a handoff keeps busy on one of the cores (R147, R150). -/
def State.trBusy (s : State) (t : Nat) (cores : List Nat) (r : Nat) (pair : Bool) : Bool :=
  s.coll.hands.any (fun h => !h.ran && h.tile == t && cores.contains h.core
    && (h.tr == r || (h.pair && h.tr + 1 == r) || (pair && (h.tr == r + 1))))

/-! ## Hardware checks (R137 to R143) -/

/-- The check slice of a core: its lowest free jury slice (R138); and the slice that recomputes: the next free one, or the check slice
itself (R142). A slice taken by a repair is not free, so it neither checks nor votes (R20). -/
def State.checkSlices (s : State) (t c : Nat) : Option (Nat × Nat) :=
  match freeSlices s.mapNow (t / 8 + 1) (t % 8) c with
  | [] => none
  | [x] => some (x, x)
  | x :: y :: _ => some (x, y)

/-- The slice that carries a logical column of a core (R137). -/
def State.sliceUnit (s : State) (t c j : Nat) : UnitId :=
  tileUnit 1 t c (physOf s.mapNow 1 (fun e => meDie e == t / 8 + 1 && mePos e == t % 8 && getBits e.toNat 16 2 == c) 4 j)

/-- By how much a value is off. -/
def offBy (l : List (Nat × Int)) (j : Nat) : Int := ((l.find? (fun p => p.1 = j)).map (·.2)).getD 0

/-- Elements that no two values agree on, as (core, element), hold an open value: the step fails its checks (R142). -/
def State.openElems (s : State) (t r : Nat) (pair : Bool) (es : List (Nat × Nat)) : State :=
  es.foldl (fun (s : State) x =>
    let v := Config.freeWord s.freeCtr
    let s : State := { s with freeCtr := s.freeCtr + 1 }
    match (s.chain? t x.1 r).c with
    | .wide k _ => s.setWa t x.1 k (x.2 % 8192) { n := v.toInt, nan := false, res := (v.toInt % 15).toNat }
    | _ => s.setTr t x.1 r pair (x.2 % 8192) v.toNat) s

/-! ## MMA (R116 to R136) -/

/-- An MMA's word with its register contents: operand addresses and shape (R145). -/
structure MmaOp where
  w : Nat
  a : Nat
  b : Nat
  k : Nat
  m : Nat
  n : Nat
  pa : Nat
  pb : Nat
  deriving DecidableEq, Repr

def State.mmaOp (s : State) (t th w : Nat) : MmaOp :=
  let sh := s.greg t th (mGs w)
  ⟨w, s.greg t th (mGa w), s.greg t th (mGb w), getBits sh 0 17, getBits sh 17 9, getBits sh 26 8,
    32 * getBits sh 34 15, 32 * getBits sh 49 15⟩

/-- The operands as the fetch reads them, with their base addresses. -/
def MmaOp.opnds (o : MmaOp) (fa fb : MFmt) : Opnd × Opnd :=
  (⟨fa, mLa o.w, mTa o.w, getBits o.a 0 48, o.pa⟩, ⟨fb, mLb o.w, mTb o.w, getBits o.b 0 48, o.pb⟩)

/-- The cause of a layout that R122 to R126 and R146 do not allow. -/
def mmaLayoutBad (w : Nat) (fa : MFmt) : Bool :=
  let blk := match fa with
    | .b _ => true
    | .s _ => false
  (mSplit w && mGang w) || (mGang w && mCmask w != 15) || mCmask w == 0 || (mTa w && !mLa w) || (mTb w && !mLb w)
    || (blk && (mTa w || mTb w || mLa w || mLb w))

/-- The chain that an MMA finds on a core's register. -/
def State.mmaChain (s : State) (t c : Nat) (w : Nat) : ChainSt :=
  if mZero w then ⟨.cleared, false⟩ else s.chain? t c (mTr w)

/-- The cores on whose registers results land (R146). -/
def mmaTargets (w : Nat) : List Nat := if mSplit w then (mCores w).take 1 else mCores w

/-- The fault that the chain state gives an MMA (R130, R131), the lowest cause first. -/
def State.mmaChainFault (s : State) (t : Nat) (acc : Acc) (o : MmaOp) : Option Nat :=
  let r := mTr o.w
  let wide := acc = .wide
  let opens := fun c => wide && (match (s.mmaChain t c o.w).c with
    | .wide _ _ => false
    | _ => true)
  let limit := (mmaTargets o.w).any (fun c => match (s.mmaChain t c o.w).c with
    | .wide _ n => wide && decide (2 ^ 24 < n + o.k)
    | _ => wide && decide (2 ^ 24 < o.k))
  let busy := (mCores o.w).any (fun c =>
    let own := match (s.chain? t c r).c with
      | .wide _ _ => 1
      | _ => 0
    wide && (opens c || mSplit o.w) && decide (2 ≤ (s.waBound t c).length - own))
  let bad := (mmaTargets o.w).any (fun c =>
    let x := s.mmaChain t c o.w
    match x.c with
    | .closed => wide || (acc == .fp64 && s.isOpen t c (r + 1))
    | .cleared => !wide && !mZero o.w && (x.pair != (acc == .fp64) || (r % 2 == 1 && (s.chain? t c (r - 1)).pair))
    | .loaded => wide || x.pair != (acc == .fp64) || (r % 2 == 1 && (s.chain? t c (r - 1)).pair)
    | .fp32 => acc != .fp32
    | .fp64 => acc != .fp64 || !x.pair
    | .wide _ _ => !wide)
  if limit then some 0x0404
  else if busy then some 0x0405
  else if bad ∨ (acc = .fp64 ∧ r % 2 = 1) then some 0x0406
  else none

/-- The high range of a region that a read touches without the use that R199 asks for. -/
def State.undeclared (s : State) (d : DRef) (a n : Nat) : Bool :=
  s.live.regions.any (fun p => (hiRanges p.2).any (fun q => overlaps a n q.1 q.2)
    && (!((s.desc? d).map (fun x => (usesOf x.raw).any (fun u => useReg u == p.1))).getD false || s.usedBy p.1 true d))

/-- The fault of one operand's access (R119, R145, R152, R192, R199). -/
def State.opndFault (s : State) (t : Nat) (d : DRef) (w : Nat) (ext : List (Nat × Nat)) : Option Nat :=
  match locOf w with
  | none => some 0x0407
  | some (node, a) =>
    if a % 32 ≠ 0 then some 0x0407
    else
      let fs := ext.filterMap (fun e => match s.locFault t false node e.1 e.2 0x0408 with
        | some c => some c
        | none => if node && s.undeclared d e.1 e.2 then some 0x0604 else none)
      fs.foldl (fun m c => match m with
        | none => some c
        | some x => some (min x c)) none

/-- The fault of an MMA, none when it runs: the lowest of the causes that apply. DESIGN CHOICE: the manual gives no order. -/
def State.mmaFault (s : State) (t : Nat) (d : DRef) (o : MmaOp) : Option Nat :=
  let lim := fun (x : Nat) => if mGang o.w then 2 * x else x
  if mReserved o.w then some 0x0401
  else match fmtOf (mFa o.w), fmtOf (mFb o.w) with
  | some fa, some fb =>
    if ¬ pairOk fa fb then some 0x0401
    else if o.k < 32 ∨ 65536 < o.k ∨ o.k % 32 ≠ 0 ∨ o.m = 0 ∨ lim 128 < o.m ∨ o.n = 0 ∨ lim 64 < o.n then some 0x0402
    else if mmaLayoutBad o.w fa then some 0x0403
    else match s.mmaChainFault t (accOf s.exact fa) o with
      | some c => some c
      | none =>
        let (a, b) := o.opnds fa fb
        match s.opndFault t d o.a (a.extents false o.m o.k), s.opndFault t d o.b (b.extents true o.n o.k) with
        | some x, some y => some (min x y)
        | some x, none => some x
        | none, y => y
  | _, _ => some 0x0401

/-- What an MMA leaves beside the registers. -/
structure MmaOut where
  st : State
  fl : Nat
  hits : List (Nat × Nat)
  deriving DecidableEq, Repr

/-- One element of an MMA whose chain has an FP accumulator (R127, R135). -/
def mmaElem (acc : Acc) (g : Nat) (is8 exact : Bool) (parts : List (Nat × Nat)) (order : List Nat) (init : Nat)
    (as bs : List Val) : MRes :=
  let i : MRes := ⟨decode acc.fmt init, 0, none⟩
  if parts.isEmpty then fastDot acc g is8 i as bs
  else
    let ps := parts.map (fun p => fastDot acc g is8 ⟨Val.zero, 0, none⟩ ((as.drop p.1).take p.2) ((bs.drop p.1).take p.2))
    mergeParts acc i ((mergeOrder exact ps.length order).map (fun j => ps.getD j ⟨Val.zero, 0, none⟩))

/-- The MMA of one core (R126, R127, R132): rows `ro` and columns `co` up. -/
def State.mmaCore (t : Nat) (acc : Acc) (fa : MFmt) (o : MmaOp) (parts : List (Nat × Nat)) (order : List Nat)
    (al bl : List (List Val)) (x : MmaOut) (c : Nat) : MmaOut :=
  let s := x.st
  let r := mTr o.w
  let pair := acc = .fp64
  let (ro, co) := if mGang o.w then (128 * (c / 2), 64 * (c % 2)) else (0, 0)
  let cells := (List.range (min 128 (o.m - ro))).flatMap (fun i => (List.range (min 64 (o.n - co))).map (fun j => (i, j)))
  let s := if mZero o.w then s.zeroTr t c r pair else s
  if acc = .wide then
    let (s, k, n) := match (s.chain? t c r).c with
      | .wide k n => (s, k, n)
      | _ => (s, if (s.waBound t c).contains 0 then 1 else 0, 0)
    let s := s.setChain t c r { s.chain? t c r with c := .wide k (n + o.k) }
    let s := if r % 2 = 1 then s.setChain t c (r - 1) { s.chain? t c (r - 1) with pair := false } else s
    { x with st := cells.foldl (fun s p =>
        let e := p.1 * 64 + p.2
        s.setWa t c k e (wideDot (s.waElt t c k e) (al.getD (ro + p.1) []) (bl.getD (co + p.2) []))) s }
  else
    let ch : Chain := if pair then .fp64 else .fp32
    let s : State := match (s.chain? t c r).c with
      | .closed => s.openChain t c r pair ch
      | _ => (if pair then s.setChain t c (r + 1) ⟨ch, false⟩ else s).setChain t c r ⟨ch, pair⟩
    cells.foldl (fun y p =>
      let e := p.1 * 64 + p.2
      let v := mmaElem acc (kGroup fa) fa.is8 y.st.exact parts order (y.st.trPat t c r pair e) (al.getD (ro + p.1) []) (bl.getD (co + p.2) [])
      { st := y.st.setTr t c r pair e (encode acc.fmt v.v), fl := y.fl ||| v.fl,
        hits := match v.cause with
          | some u => y.hits ++ [(e, u)]
          | none => y.hits }) { x with st := s }

/-- The register of a core that SPLITK leaves undefined (R146): every element is an open value, and no chain is open. -/
def State.spoilTr (s : State) (t c r : Nat) (pair : Bool) : State :=
  let s := s.dropChain t c r
  let s := if pair then s.dropChain t c (r + 1) else s
  let f := s.freeCtr
  let m := SM.splice 0 s.tr (trKey t c r) 8192 (fun i => (Config.freeWord (f + i)).setWidth 32)
  { s with
    freeCtr := s.freeCtr + 16384
    tr := if pair then SM.splice 0 m (trKey t c (r + 1)) 8192 (fun i => (Config.freeWord (f + 8192 + i)).setWidth 32) else m }

/-- The operand lines of an MMA, and the chunks of its split K. -/
def State.mmaLines (s : State) (t : Nat) (o : MmaOp) (fa fb : MFmt) : List (List Val × Nat) × List (List Val × Nat) :=
  let (a, b) := o.opnds fa fb
  ((List.range o.m).map (fun i => a.line (s.locByte t (o.a.testBit 63)) false i o.k),
    (List.range o.n).map (fun j => b.line (s.locByte t (o.b.testBit 63)) true j o.k))
def State.mmaParts (s : State) (acc : Acc) (o : MmaOp) : List (Nat × Nat) :=
  if mSplit o.w && acc != .wide then splitChunks o.k (splitKc s.exact (s.fld fPLAN) o.k (mCores o.w).length) else []

/-- Where a k-group of an MMA is computed: the core, the core that holds the element, the first k of its chunk (R126, R135). -/
def State.mmaPlace (s : State) (acc : Acc) (o : MmaOp) (core k0 : Nat) : Option (Nat × Nat × Nat) :=
  if mSplit o.w then
    let kc := splitKc s.exact (s.fld fPLAN) o.k (mCores o.w).length
    let l := mCores o.w
    if kc = 0 then none else some (l.getD (k0 / kc % l.length) 0, l.headD 0, if acc = .wide then 0 else k0 / kc * kc)
  else if (mCores o.w).contains core then some (core, core, 0) else none

/-- One check of an MMA (R128, R138 to R142): which checker compares at that k-group, what it compares, the decision, and the elements on which
no two values agree. A checker that the formats, the mode or the column do not give (R139 to R141) finds nothing. -/
def State.mmaCheck (s : State) (tag : BitVec 64) (t : Nat) (fa : MFmt) (o : MmaOp) (al bl : List (List Val)) (u : Upset) :
    State × List (Nat × Nat) :=
  let acc := accOf s.exact fa
  let g := kGroup fa
  let k0 := u.group * g
  match s.mmaPlace acc o u.core.val k0, s.checkSlices t ((s.mmaPlace acc o u.core.val k0).getD (0, 0, 0)).1 with
  | some (c, h, first), some (chk, rec) =>
    let (ro, co) := if mGang o.w then (128 * (c / 2), 64 * (c % 2)) else (0, 0)
    let cols := List.range (min 64 (o.n - co))
    if min 128 (o.m - ro) ≤ u.row ∨ o.k ≤ k0 then (s, [])
    else
      let row := al.getD (ro + u.row) []
      let col := fun (j : Nat) => bl.getD (co + j) []
      let grp := fun (l : List Val) => (l.drop k0).take g
      let cnt := fun k => fMxChk t c k
      let fin := fun (v : Finding) (bad : List Nat) =>
        (s.found tag cnt u.by_.val v (bad.map (s.sliceUnit t c)) (tileUnit 1 t c chk) (tileUnit 1 t c rec),
          if v = .noTwo then bad.map (fun j => (h, u.row * 64 + j)) else [])
      let at_ := fun (j n : Nat) =>
        let init : MRes := ⟨decode acc.fmt (s.trPat t h (mTr o.w) (decide (acc = .fp64)) (u.row * 64 + j)), 0, none⟩
        chainAt acc g fa.is8 (if mSplit o.w then ⟨Val.zero, 0, none⟩ else init) (row.drop first) ((col j).drop first) (n - first / g)
      let j := ((u.r ++ u.n).headD (0, 0)).1
      let wide8 := fa.is8 || (match fa with
        | .b _ => true
        | .s _ => false)
      if u.by_.val = 0 ∧ wide8 then
        let part := fun (l : List Val) => if fa = .b .eb4 then ((grp l).drop (8 * u.run)).take 8 else grp l
        let cv := checkVal fa
        let bs := cols.map (fun j => part (col j))
        let val := fun (off : List (Nat × Int)) (j : Nat) => sliceSum cv (part row) (part (col j)) + offBy off j
        let total := fun (off : List (Nat × Int)) => cols.foldl (fun n j => n + val off j) 0
        let want := checksum cv (part row) bs + u.c
        let bad := cols.filter (fun j => val u.n j != val u.r j)
        fin (judge (total u.r != want) bad.isEmpty (total u.n == want)) bad
      else if u.by_.val = 1 ∧ ¬ wide8 then
        let j := SM.getD 0 s.closes (t * 4 + c) % 64
        let v : Int := encode acc.fmt (at_ j (u.group + 1)).v
        if cols.contains j then fin (judgeEq (v + offBy u.r j) (v + u.c) (v + offBy u.n j)) [j] else (s, [])
      else if u.by_.val = 2 ∧ acc = .wide ∧ cols.contains j then
        let w0 := match (s.mmaChain t h o.w).c with
          | .wide k _ => s.waElt t h k (u.row * 64 + j)
          | _ => {}
        let before := wideDot w0 (row.take k0) ((col j).take k0)
        let after := wideDot before (grp row) (grp (col j))
        fin (judgeRes (after.n + offBy u.r j) (after.res + u.c) (after.n + offBy u.n j)) [j]
      else if u.by_.val = 2 ∧ acc = .fp32 ∧ ¬ s.exact ∧ cols.contains j then
        let x := alignedSum (at_ j u.group).v ((exactDot ((grp row).zip (grp (col j)))).getD .zero)
        fin (judgeRes (x.1 + offBy u.r j) (x.2 + u.c) (x.1 + offBy u.n j)) [j]
      else (s, [])
  | _, _ => (s, [])

/-- The checks of an MMA that find something. -/
def State.mmaChecks (s : State) (tag : BitVec 64) (t : Nat) (o : MmaOp) (ev : List HwEv) : State × List (Nat × Nat) :=
  match fmtOf (mFa o.w), fmtOf (mFb o.w) with
  | some fa, some fb => ev.foldl (fun a e => match e with
    | .upset u =>
      let l := s.mmaLines t o fa fb
      let r := a.1.mmaCheck tag t fa o (l.1.map (·.1)) (l.2.map (·.1)) u
      (r.1, a.2 ++ r.2)
    | _ => a) (s, [])
  | _, _ => (s, [])

/-- An MMA that does not fault. -/
def State.mma (s : State) (t : Nat) (order : List Nat) (o : MmaOp) : MmaOut :=
  match fmtOf (mFa o.w), fmtOf (mFb o.w) with
  | some fa, some fb =>
    let acc := accOf s.exact fa
    let (al, bl) := s.mmaLines t o fa fb
    let fl := (al ++ bl).foldl (fun n x => n ||| x.2) 0
    let parts := s.mmaParts acc o
    let x := (mmaTargets o.w).foldl (State.mmaCore t acc fa o parts order (al.map (·.1)) (bl.map (·.1))) ⟨s, fl, []⟩
    { x with st := (if mSplit o.w then (mCores o.w).drop 1 else []).foldl (fun s c => s.spoilTr t c (mTr o.w) (acc = .fp64)) x.st }
  | _, _ => ⟨s, 0, []⟩

/-- The step tag of a descriptor's work. -/
def State.tagOf (s : State) (d : DRef) : BitVec 64 := ((s.desc? d).map (·.step)).getD 0

/-- NaN events of an instruction, by element and cause. -/
def nanList (w pc : Nat) (hits : List (Nat × Nat)) : List (Nat × Nat × Nat × Nat) :=
  hits.map (fun h => (h.1, w % 2 ^ 32, pc, h.2))

/-- Reserved matrix opcodes, which fault with BAD_FORMAT (R152). -/
def mxReserved (op : Nat) : Bool := decide (0x45 ≤ op) && decide (op ≤ 0x4F) && op != 0x48

/-- R146, with the happenings that the checks of R138 to R143 find. A reserved matrix opcode faults here. -/
def State.runMma (i : VxtIssue) (order : List Nat) (ev : List HwEv) (s : State) (d : DRef) : VRes :=
  let t := i.tile.val
  if i.word.toNat % 256 ≠ 0x41 then .fault s 0x0401
  else
    let o := s.mmaOp t i.thread.val i.word.toNat
    match s.mmaFault t d o with
    | some c => .fault s c
    | none =>
      if s.trBusy t (mCores o.w) (mTr o.w) (decide (mFa o.w = 0)) then .wait else
      let (s, ok) := s.hwEvs (s.tagOf d) ev
      if ¬ ok then .ok s
      else
        let (s, es) := s.mmaChecks (s.tagOf d) t o ev
        let x := s.mma t order o
        let s := x.st.openElems t (mTr o.w) (decide (mFa o.w = 0)) es
        .ok (s.progFlags t i.thread.val d x.fl 0 (nanList o.w i.pc.toNat x.hits))

def execMma (i : VxtIssue) (order : List Nat) (ev : List HwEv) (s : State) : Res :=
  s.vxt i (fun op => op = 0x41 || mxReserved op) (State.runMma i order ev)

/-! ## MZERO and MCLOSE -/

/-- R146. -/
def State.runMzero (i : VxtIssue) (s : State) (_ : DRef) : VRes :=
  let w := i.word.toNat
  if mReserved w then .fault s 0x0401
  else if mCmask w = 0 then .fault s 0x0403
  else if mCtgt w ∧ mTr w % 2 = 1 then .fault s 0x0406
  else if s.trBusy i.tile.val (mCores w) (mTr w) (mCtgt w) then .wait
  else .ok ((mCores w).foldl (fun s c => s.zeroTr i.tile.val c (mTr w) (mCtgt w)) s)

def execMzero (i : VxtIssue) (s : State) : Res := s.vxt i (fun op => op = 0x40) (State.runMzero i)

/-- The close of one core's register (R133, R146), which counts toward its shadow column (R140). A chain that was begun on a pair ends on both
halves. -/
def State.closeCore (t r : Nat) (ctgt : Bool) (x : MmaOut) (c : Nat) : MmaOut :=
  let s := x.st
  let count := fun (s : State) => ({ s with closes := SM.setD 0 s.closes (t * 4 + c) (SM.getD 0 s.closes (t * 4 + c) + 1) } : State)
  match (s.chain? t c r).c with
  | .closed => x
  | .wide k _ =>
    let f : Fmt := if ctgt then .fp64 else .fp32
    let y := (List.range 8192).foldl (fun (y : MmaOut) e =>
      let v := wideClose f (s.waElt t c k e)
      { st := y.st.setTr t c r ctgt e (encode f v.v), fl := y.fl ||| v.fl,
        hits := match v.cause with
          | some u => y.hits ++ [(e, u)]
          | none => y.hits }) x
    { y with st := count (y.st.openChain t c r ctgt .closed) }
  | _ =>
    let ch := s.chain? t c r
    let s := if ch.pair && r % 2 == 0 then s.setChain t c (r + 1) {} else s
    { x with st := count (s.setChain t c r { ch with c := .closed }) }

/-- Whether a register is the odd half of an open pair. -/
def State.oddHalf (s : State) (t c r : Nat) : Bool :=
  r % 2 == 1 && (s.chain? t c (r - 1)).pair && (s.chain? t c (r - 1)).c != .closed

/-- The fault of a close (R152): an odd register that is half of an open pair, or that an exact chain is to close into as a pair. -/
def State.closeFault (s : State) (t w : Nat) : Option Nat :=
  if mCmask w = 0 then some 0x0403
  else if (mCores w).any (fun c => s.oddHalf t c (mTr w)) then some 0x0406
  else if mCtgt w ∧ mTr w % 2 = 1 ∧ (mCores w).any (fun c => match (s.chain? t c (mTr w)).c with
      | .wide _ _ => true
      | _ => false) then some 0x0406
  else none

/-- MCLOSE on the cores listed. -/
def State.closeAll (s : State) (t r : Nat) (ctgt : Bool) (cores : List Nat) : MmaOut :=
  cores.foldl (State.closeCore t r ctgt) ⟨s, 0, []⟩

/-- R133. -/
def State.runMclose (i : VxtIssue) (s : State) (d : DRef) : VRes :=
  let w := i.word.toNat
  if mReserved w then .fault s 0x0401
  else match s.closeFault i.tile.val w with
    | some c => .fault s c
    | none =>
      let x := s.closeAll i.tile.val (mTr w) (mCtgt w) (mCores w)
      .ok (x.st.progFlags i.tile.val i.thread.val d x.fl 0 (nanList w i.pc.toNat x.hits))

def execMclose (i : VxtIssue) (s : State) : Res := s.vxt i (fun op => op = 0x42) (State.runMclose i)

/-! ## MLOAD and MSTORE -/

/-- The faults that MLOAD and MSTORE share (R152): the word, the one core, the pair, the address. -/
def State.mlsFault (s : State) (t th w : Nat) (wr : Bool) : Option Nat :=
  let n := if mCtgt w then 65536 else 32768
  let op := s.greg t th (mGa w)
  if mReserved w then some 0x0401
  else if (mCores w).length ≠ 1 then some 0x0403
  else if mCtgt w ∧ mTr w % 2 = 1 then some 0x0406
  else if wr ∧ (s.isOpen t ((mCores w).headD 0) (mTr w) ∨ (mCtgt w ∧ s.isOpen t ((mCores w).headD 0) (mTr w + 1))) then some 0x0406
  else match locOf op with
    | none => some 0x0407
    | some (node, a) => if a % 32 ≠ 0 then some 0x0407 else s.locFault t wr node a n 0x0408

/-- R146: a load, which begins a new chain. -/
def State.runMload (i : VxtIssue) (ev : List HwEv) (s : State) (d : DRef) : VRes :=
  let t := i.tile.val
  let w := i.word.toNat
  match s.mlsFault t i.thread.val w false with
  | some c => .fault s c
  | none =>
    let op := s.greg t i.thread.val (mGa w)
    let node := op.testBit 63
    let a := getBits op 0 48
    let c := (mCores w).headD 0
    let r := mTr w
    if s.trBusy t [c] r (mCtgt w) then .wait else
    let (s, ok) := s.hwEvs (s.tagOf d) ev
    if ¬ ok then .ok s
    else
      let s := s.openChain t c r (mCtgt w) .loaded
      let sz := if mCtgt w then 8 else 4
      let pat := fun (e off : Nat) => BitVec.ofNat 32 (leNat (s.locBytes t node (a + e * sz + off) 4))
      let m := SM.splice 0 s.tr (trKey t c r) 8192 (fun e => pat e 0)
      .ok { s with tr := if mCtgt w then SM.splice 0 m (trKey t c (r + 1)) 8192 (fun e => pat e 4) else m }

def execMload (i : VxtIssue) (ev : List HwEv) (s : State) : Res := s.vxt i (fun op => op = 0x43) (State.runMload i ev)

/-- R146: a store of a closed register or pair. -/
def State.runMstore (i : VxtIssue) (s : State) (d : DRef) : VRes :=
  let t := i.tile.val
  let w := i.word.toNat
  match s.mlsFault t i.thread.val w true with
  | some c => .fault s c
  | none =>
    let op := s.greg t i.thread.val (mGa w)
    let c := (mCores w).headD 0
    let sz := if mCtgt w then 8 else 4
    let bs := (List.range 8192).flatMap (fun e => leBytes sz (s.trPat t c (mTr w) (mCtgt w) e))
    vresOf (s.locWrite t (op.testBit 63) (s.writer d t) (getBits op 0 48) bs 0x0408)

def execMstore (i : VxtIssue) (s : State) : Res := s.vxt i (fun op => op = 0x44) (State.runMstore i)

end Sys2Proof.Machine
end

