-- ==== Sys2Proof/Machine/Element.lean ====
section
/-! DEFINITION. The element engine's programs as instructions issue them (chapter 05), the lane generators' contexts (R211 to
R215), transfers of the tile core (R314, R315) and FENCE (R185). -/

namespace Sys2Proof.Machine
open Sys2Proof.Fp

/-! ## Lane generators -/

/-- Keys of the generator contexts of a stream on a tile: one for each lane. -/
def rngBase (stream t : Nat) : Nat := (stream * 32 + t) * 512

/-- The lane key in force (R211). -/
def State.laneKey (s : State) : Nat := Rng.laneKey s.live.key.toNat (s.fld fRANK)

/-- A lane's context as a drawing program of a descriptor finds it (R214, R215): derived afresh where the descriptor draws on the tile for the
first time in exact mode, and once in fast mode. -/
def State.laneCtx (s : State) (x : InDesc) (t lane : Nat) : RngCtx :=
  let c := SM.getD Ep.defCtx s.live.rng (rngBase (dStream x.raw) t + lane)
  if c.derived ∧ (¬ s.exact ∨ (SM.getD none x.drew t).isSome) then c
  else ⟨BitVec.ofNat 128 (Rng.derive x.step.toNat (ringNo x.ref) x.ord (dStream x.raw) t lane), 0, 0, true⟩

/-- The contexts of all lanes, by lane. -/
def State.laneCtxs (s : State) (x : InDesc) (t : Nat) : SM RngCtx :=
  (List.range 512).map (fun l => (l, s.laneCtx x t l))

/-- Draws of one lane in a program. -/
def progDraws (h : Nat) (ops : List Nat) : Nat :=
  Ep.passes h * ((ops.filter Ep.draws).length + (if Ep.hOutsr h then 1 else 0))

/-- Whether `n` more draws of a descriptor on a tile pass 2^26 blocks in a lane in exact mode (R215), with those of its fused programs that
have still to run. -/
def State.rngLimit (s : State) (x : InDesc) (t n : Nat) : Bool :=
  let due := (s.coll.hands.filter (fun h => h.desc = x.ref && h.tile = t && !h.ran)).foldl (fun m h => m + progDraws h.head h.ops) 0
  s.exact && n != 0 && decide (2 ^ 28 < (SM.getD none x.drew t).getD 0 + due + n)

/-- The contexts after a program, as transitions of its step. -/
def State.putCtxs (s : State) (x : InDesc) (t : Nat) (m : SM RngCtx) : State :=
  m.foldl (fun s p => s.trs x.step (.rng (rngBase (dStream x.raw) t + p.1) p.2)) s

/-! ## Loading and checking a program (R158, R159, R179) -/

/-- The header and operation words at a scratchpad offset. -/
def State.epLoad (s : State) (t off : Nat) : Nat × List Nat :=
  let word := fun (k : Nat) => leNat (s.spadRead t (off + 8 * k) 8)
  let h := word 0
  (h, (List.range (min 32 (Ep.hNops h))).map (fun k => word (k + 1)))

/-- Bytes of one output row. -/
def rowBytes (h : Nat) : Nat :=
  match Ep.ofmt (Ep.hOutfmt h) with
  | .s f => Ep.hCols h * Mx.eltBytes f
  | .b f => (Ep.hCols h / f.n * f.bytes + 31) / 32 * 32
  | .none_ => 0

/-- Bytes of the reduction result (R171). -/
def redBytes (h : Nat) : Nat :=
  (if Ep.hRed h = 1 then Ep.hRows h else if Ep.hRed h = 2 then Ep.hCols h else if Ep.hRed h = 3 then 1 else 0)
    * (if Ep.hWide h then 8 else 4)

/-- The fault of an address word of R145 and the ranges from it. -/
def State.outFault (s : State) (t w : Nat) (ranges : List (Nat × Nat)) : Option Nat :=
  match locOf w with
  | none => some 0x0504
  | some (node, a) =>
    if a % 32 ≠ 0 then some 0x0504
    else (ranges.filterMap (fun r => s.locFault t true node (a + r.1) r.2 0x0505)).head?

/-- The fault of a scratchpad offset that a program reads `n` bytes from. -/
def State.vecFault (s : State) (t off n : Nat) : Option Nat :=
  if off % 32 ≠ 0 then some 0x0504 else if s.stageBase t < off + n then some 0x0505 else none

/-- A program as an instruction names it: core, registers with their pair state, program offset, vectors, and the output
and reduction addresses (none for an MMAF). -/
structure EpCall where
  core : Nat
  tr : Nat
  tr2 : Option Nat
  pair : Bool
  pair2 : Bool
  prog : Nat
  gv : Nat
  outs : Option (Nat × Nat)
  deriving DecidableEq, Repr

/-- Whether a register is the half of a closed pair. -/
def State.inPair (s : State) (t c r : Nat) : Bool := (s.chain? t c (r / 2 * 2)).pair

/-- The fault of a program when it loads (R179, R210, R215, R253); the program's own address comes first. -/
def State.epFault (s : State) (t : Nat) (d : DRef) (e : EpCall) : Option Nat :=
  match s.vecFault t e.prog 8 with
  | some c => some c
  | none =>
    let (h, ops) := s.epLoad t e.prog
    match s.vecFault t e.prog (8 * (ops.length + 1)) with
    | some c => some c
    | none =>
      let wide := Ep.hWide h
      let sz := if wide then 8 else 4
      let draws := progDraws h ops ≠ 0
      let checks : List (Option Nat) := [
        Ep.check h ops e.pair (e.tr % 2 = 1),
        (match e.tr2 with
          | some r => if wide ≠ e.pair2 ∨ (wide ∧ r % 2 = 1) then some 0x0502 else none
          | none => none),
        (match e.outs with
          | some (o, r) =>
            let a := if Ep.hOutfmt h = 7 then none
              else s.outFault t o ((List.range (Ep.hRows h)).map (fun k => (k * Ep.hPitch h, rowBytes h)))
            if a.isSome then a else if Ep.hRed h = 0 then none else s.outFault t r [(0, redBytes h)]
          | none => if Ep.hRed h ≠ 0 ∨ Ep.hOutfmt h = 7 then some 0x0601 else none),
        (if ops.any (fun w => Ep.reads w 18) then s.vecFault t (getBits e.gv 0 32) (128 * sz) else none),
        (if ops.any (fun w => Ep.reads w 19) then s.vecFault t (getBits e.gv 32 32) (64 * sz) else none),
        (if ops.any (fun w => Ep.reads w 17) && e.tr2.isNone then some 0x0506 else none),
        (match s.desc? d, d with
          | some x, .ring _ _ =>
            if s.rngLimit x t (progDraws h ops) then some 0x060A else none
          | _, .child _ => if draws then some 0x070A else none
          | none, _ => none)]
      checks.foldl (fun m c => if m.isSome then m else c) none

/-! ## Running a program -/

/-- Open bytes, and the counter after them. -/
def State.freeBytes (s : State) (n : Nat) : List Byte × State :=
  ((List.range n).map (fun i => (Config.freeWord (s.freeCtr + i)).setWidth 8), { s with freeCtr := s.freeCtr + n })

/-- The jury lane that recomputes, the lowest free one, and the shadow lane, the second-lowest (R175, R176). -/
def State.juryLanes (s : State) (t : Nat) : Nat × Nat :=
  let l := freeLanes s.mapNow (t / 8 + 1) (t % 8)
  (l.headD 512, l.getD 1 512)

/-- One check of an element engine in a pass of `n` lanes (or quads), of which `np` passes have gone before (R174 to R176): the residue of any
lane, and the shadow lane's comparison for lane j_s alone. It gives the pass and lane on which no two values agree. The unit of a residue check
is the lane itself. -/
def State.eeCheck (s : State) (tag : BitVec 64) (t n np : Nat) (u : Upset) : State × List (Nat × Nat) :=
  let lane := u.row
  let (redo, shadow) := s.juryLanes t
  let phys := physOf s.mapNow 2 (fun e => meDie e == t / 8 + 1 && mePos e == t % 8) 16
  let q := 512 / n
  let fin := fun (v : Finding) (chk : Nat) =>
    (s.found tag (fEeChk t) u.by_.val v [tileUnit 2 t 0 (phys (lane * q))] (tileUnit 2 t 0 chk) (tileUnit 2 t 0 redo),
      if v = .noTwo then [(u.group, lane)] else [])
  if n ≤ lane then (s, [])
  else if u.by_.val = 3 then fin (judgeRes (offBy u.r lane) u.c (offBy u.n lane)) (phys (lane * q))
  else if u.by_.val = 4 ∧ (np + u.group) % 512 / q = lane then fin (judgeEq (offBy u.r lane) u.c (offBy u.n lane)) shadow
  else (s, [])

/-- The checks of an element engine's work of `m` passes that find something, and the passes counted (R175). -/
def State.eeChecks (s : State) (tag : BitVec 64) (t n m : Nat) (ev : List HwEv) : State × List (Nat × Nat) :=
  let np := SM.getD 0 s.passes t
  let (s, l) := ev.foldl (fun a e => match e with
    | .upset u => if u.group < m then (let r := a.1.eeCheck tag t n np u; (r.1, a.2 ++ r.2)) else a
    | _ => a) (s, ([] : List (Nat × Nat)))
  ({ s with passes := SM.setD 0 s.passes t (np + m) }, l)

/-- Some bytes of a row become open. -/
def State.openAt (s : State) (bs : List Byte) (at_ n : Nat) : List Byte × State :=
  let (fs, s) := s.freeBytes n
  ((bs.take at_ ++ fs ++ bs.drop (at_ + n)).take bs.length, s)

/-- The bytes (offset, count) of an output row that hold column `c`: the element, or its whole block. -/
def rowPart (h c : Nat) : Nat × Nat :=
  match Ep.ofmt (Ep.hOutfmt h) with
  | .s f => (c * Mx.eltBytes f, Mx.eltBytes f)
  | .b f => (c / f.n * f.bytes, f.bytes)
  | .none_ => (0, 0)

/-- What leaves the engine where no two values agree on elements (row, column): those elements, and the reduction results that they feed, are
open (R142, R176). -/
def State.epOpen (s : State) (h : Nat) (es : List (Nat × Nat)) (o : Ep.Out) : Ep.Out × State :=
  (es.filter (fun e => decide (e.1 < Ep.hRows h) && decide (e.2 < Ep.hCols h))).foldl (fun (a : Ep.Out × State) e =>
    let (rows, s) := a.1.rows.foldl (fun (b : List (Nat × List Byte) × State) r =>
      if r.1 = e.1 then (let x := b.2.openAt r.2 (rowPart h e.2).1 (rowPart h e.2).2; (b.1 ++ [(r.1, x.1)], x.2)) else (b.1 ++ [r], b.2)) ([], a.2)
    match a.1.red with
    | some b =>
      let sz := if Ep.hWide h then 8 else 4
      let (x, s) := s.openAt b ((if Ep.hRed h = 1 then e.1 else if Ep.hRed h = 2 then e.2 else 0) * sz) sz
      ({ a.1 with rows, red := some x }, s)
    | none => ({ a.1 with rows }, s)) (o, s)

/-- A program, given as header and words, over a closed register (R155 to R173): what it writes, and the state with the generator contexts
advanced. -/
def State.epExec (s : State) (t : Nat) (d : DRef) (e : EpCall) (h : Nat) (ops : List Nat) (ev : List HwEv) : Ep.Out × State :=
  let wide := Ep.hWide h
  let f : Fmt := if wide then .fp64 else .fp32
  let sz := if wide then 8 else 4
  let vec := fun (off : Nat) (i : Nat) => decode f (leNat (s.spadRead t (off + i * sz) sz))
  let env : Ep.Env := {
    h := h, ops := ops,
    acc := fun x => decode f (s.trPat t e.core e.tr wide x),
    acc2 := fun x => decode f (s.trPat t e.core (e.tr2.getD 0) wide x),
    rowv := vec (getBits e.gv 0 32), colv := vec (getBits e.gv 32 32),
    key := s.laneKey, aclass := s.aclass, pairwise := s.exact && s.fld fPLAN == 2, watch := s.flag fNANWATCH }
  match s.desc? d with
  | none => ({}, s)
  | some x =>
    let draws := progDraws h ops ≠ 0
    let (o, m) := Ep.run env (if draws then s.laneCtxs x t else [])
    let s := if draws then (s.putCtxs x t m).updDesc d (fun y => { y with
      drew := SM.setD none y.drew t (some ((SM.getD none y.drew t).getD 0 + progDraws h ops)) }) else s
    let (s, es) := s.eeChecks x.step t (Ep.lanesPer h) o.np ev
    s.epOpen h (es.map (fun e => (Ep.rowsPer h * e.1 + e.2 / 64, e.2 % 64))) o

/-- The program in scratchpad, copied as its instruction issues (R158). -/
def State.epRun (s : State) (t : Nat) (d : DRef) (e : EpCall) (ev : List HwEv) : Ep.Out × State :=
  s.epExec t d e (s.epLoad t e.prog).1 (s.epLoad t e.prog).2 ev

/-- NaN events of a program for the trap record. -/
def epHits (o : Ep.Out) : List (Nat × Nat × Nat × Nat) := o.hits.map (fun h => (h.elem, h.instr, h.pc, h.cause))

/-! ## EPRUN (R162) -/

def epCall (s : State) (t th w : Nat) : EpCall :=
  let c := getBits w 8 2
  let r := getBits w 10 2
  let r2 := getBits w 12 2
  ⟨c, r, if w.testBit 14 then some r2 else none, s.inPair t c r, s.inPair t c r2, s.greg t th (getBits w 32 5),
    s.greg t th (getBits w 42 5), some (s.greg t th (getBits w 37 5), s.greg t th (getBits w 47 5))⟩

/-- The rows and the reduction as writes to the output addresses. -/
def State.epWrite (s : State) (t : Nat) (w : Writer) (h : Nat) (outs : Nat × Nat) (o : Ep.Out) : Except (State × Nat) State :=
  let rows := o.rows.map (fun r => (outs.1, r.1 * Ep.hPitch h, r.2))
  let red := match o.red with
    | some b => [(outs.2, 0, b)]
    | none => []
  (rows ++ red).foldl (fun r x => match r with
    | .ok s' => (match s'.locWrite t (x.1.testBit 63) w (getBits x.1 0 48 + x.2.1) x.2.2 0x0505 with
      | .ok s'' => .ok s''
      | .error (_, c) => .error (s.noteErr (if c = 0x0F01 then .snapFull else .range), c))
    | .error e => .error e) (.ok s : Except (State × Nat) State)

def State.runEprun (i : VxtIssue) (ev : List HwEv) (s : State) (d : DRef) : VRes :=
  let t := i.tile.val
  let w := i.word.toNat
  let e := epCall s t i.thread.val w
  if s.isOpen t e.core e.tr ∨ (e.pair ∧ s.isOpen t e.core (e.tr / 2 * 2 + 1))
      ∨ (e.tr2.isSome ∧ s.isOpen t e.core (e.tr2.getD 0)) then .fault s 0x0406
  else if getBits w 15 17 ≠ 0 ∨ getBits w 52 12 ≠ 0 then .fault s 0x0501
  else match s.epFault t d e with
    | some c => .fault s c
    | none =>
      let (s1, ok) := s.hwEvs (s.tagOf d) ev
      if ¬ ok then .ok s1
      else
        let (o, s2) := s1.epRun t d e ev
        match s2.epWrite t (s2.writer d t) (s.epLoad t e.prog).1 (e.outs.getD (0, 0)) o with
        | .ok s3 => .ok (s3.progFlags t i.thread.val d o.fl o.uf (epHits o))
        | .error (_, 0) => .wait
        | .error (s3, c) => .fault s3 c

def execEprun (i : VxtIssue) (ev : List HwEv) (s : State) : Res := s.vxt i (fun op => op = 0x50) (State.runEprun i ev)

/-! ## XFER (R314, R315) -/

/-- The fault of an XFER when it issues. -/
def State.xferFault (s : State) (t w src dst len : Nat) : Option Nat :=
  if getBits w 8 24 ≠ 0 ∨ getBits w 47 17 ≠ 0 ∨ len % 32 ≠ 0 ∨ len < 32 ∨ 2 ^ 24 < len then some 0x0903
  else match locOf src, locOf dst with
    | some (ns, a), some (nd, b) =>
      if a % 32 ≠ 0 ∨ b % 32 ≠ 0 then some 0x0407
      else match s.locFault t false ns a len 0x0408, s.locFault t true nd b len 0x0408 with
        | some x, some y => some (min x y)
        | some x, none => some x
        | none, y => y
    | _, _ => some 0x0407

def State.runXfer (i : VxtIssue) (ev : List HwEv) (s : State) (d : DRef) : VRes :=
  let t := i.tile.val
  let th := i.thread.val
  let w := i.word.toNat
  let src := s.greg t th (getBits w 32 5)
  let dst := s.greg t th (getBits w 37 5)
  let len := getBits (s.greg t th (getBits w 42 5)) 0 25
  match s.xferFault t w src dst len with
  | some c => .fault s c
  | none =>
    match (List.range 8).find? (fun k => (SM.getD none (s.thr t th).xfers k).isNone) with
    | none => .wait
    | some k =>
      let s := s.updThr t th (fun x => { x with
        xfers := SM.setD none x.xfers k (some ⟨BitVec.ofNat 64 src, BitVec.ofNat 64 dst, len⟩) })
      .ok (s.hwEvs (s.tagOf d) ev).1

def execXfer (i : VxtIssue) (ev : List HwEv) (s : State) : Res := s.vxt i (fun op => op = 0x58) (State.runXfer i ev)

/-- R315: a transfer in flight is done. -/
def execXferComplete (tile : Fin 32) (thread : Fin 16) (slot : Nat) (ev : List HwEv) (s : State) : Res :=
  let t := tile.val
  let th := thread.val
  match (s.thr t th).run, SM.getD none (s.thr t th).xfers slot with
  | some d, some x =>
    let (s1, ok) := s.hwEvs (s.tagOf d) ev
    if ¬ ok then .next s1
    else
      let bs := s1.locBytes t (x.src.toNat.testBit 63) (getBits x.src.toNat 0 48) x.len
      let done := fun (s : State) => s.updThr t th (fun y => { y with xfers := SM.setD none y.xfers slot none })
      match s1.locWrite t (x.dst.toNat.testBit 63) (s1.writer d t) (getBits x.dst.toNat 0 48) bs 0x0408 with
      | .ok s2 => .next ((done s2).release t th)
      | .error (_, 0) => .next s
      | .error (s2, c) => .next ((done s2).stopProgram t th d stEXEC_ERROR (tileResult t c))
  | _, _ => .refused .notPending

/-! ## FENCE (R185) -/

/-- What a FENCE still waits for: this thread's transfers (RD, WR), its loads to local memory (RD, R361), its handoffs (HAND). -/
def State.fenceWaits (s : State) (t th w : Nat) : Bool :=
  ((w.testBit 8 || w.testBit 9) && !(s.thr t th).xfers.isEmpty)
    || (w.testBit 9 && s.remote.ops.any (fun o => o.by_ = .tile t th && o.local_.isSome && o.req.rop = 0))
    || (w.testBit 10 && s.coll.hands.any (fun h => h.tile = t && h.thread = th && !h.ran))

def State.runFence (i : VxtIssue) (s : State) (_ : DRef) : VRes :=
  let w := i.word.toNat
  if getBits w 11 53 ≠ 0 then .fault s 0x060C
  else if s.fenceWaits i.tile.val i.thread.val w then .wait else .ok s

def execFence (i : VxtIssue) (s : State) : Res := s.vxt i (fun op => op = 0x5C) (State.runFence i)

end Sys2Proof.Machine
end

