-- ==== Sys2Proof/Machine/Training.lean ====
section
/-! DEFINITION. Weight regions, the update engine and the conversions of the X stream (chapter 06): WREGION, UPDATE, WSPLIT, WJOIN,
WV_TIMEOUT, XCONV and XSTAT. -/

namespace Sys2Proof.Machine
open Sys2Proof.Fp

/-- What an engine descriptor's work ends in: finished with a status and RESULT (EXEC_ERROR with cause 0: not yet, R537), cut off by an uncorrectable error that the
coming rollback answers (R48, R303), or held back by a full snapshot area (R470). -/
inductive EngOut where
  | done (s : State) (status result : Nat)
  | stuck (s : State)
  | wait
  deriving DecidableEq, Repr

/-- The shell of an engine descriptor of a tile queue (R181, R182): once it may start it does its whole work; its uses end with
it whatever its status (R196, R197). -/
def State.engRow (s : State) (d : DRef) (op : Nat) (k : InDesc → State → EngOut) : Res :=
  s.rowStart d op (fun x =>
    if (tilesOf x.raw).any (fun t => s.isStopped t (dStream x.raw) 0) then .next (s.finish d stSTOPPED 0)
    else match k x (s.running d 0) with
      | .wait => .next s
      | .stuck s => .next s
      | .done s' st re => .next (if st = stEXEC_ERROR ∧ re % 65536 = 0 then s else ((s'.scoreReads x (tilesOf x.raw).length).scoreUpd x).finish d st re))

/-- Of two faults with their tiles, the one with the lower cause (log 24). -/
def lowerCause (a b : Option Nat) : Option Nat :=
  match a, b with
  | some x, some y => if y % 65536 < x % 65536 then b else a
  | none, _ => b
  | _, none => a

/-- A fault of an engine descriptor, with the tile it falls on (R152, R217): of a row or block, the tile that works on it; of a field, 0. -/
def engFault (s : State) (t cause : Nat) : EngOut := .done s stEXEC_ERROR (tileResult t cause)

/-! ## Regions (R187 to R191) -/

def causeBAD_REGION : Nat := 0x0607

/-- The address of the `k`-byte entry of element `e` in a range of a region (R189, R190). -/
def regionAt (r : Region) (base k e : Nat) : Nat :=
  if r.shard then
    let c := 1024 * shardBlocks r
    base + (shardTiles r).getD (e / c) 0 * tileStride + k * (e % c)
  else base + k * e

/-- A base or array that a sharded region allows (R190). -/
def State.shardBase (s : State) (a : Nat) : Bool := getBits a 34 5 == 0 && !(s.fld fSPREAD).testBit (groupOf a)

/-- The master value of element `e` (R189). -/
def State.master (s : State) (r : Region) (e : Nat) : Nat :=
  leNat (s.rdBytes (regionAt r r.lo 2 e) 2) + leNat (s.rdBytes (regionAt r r.hi 2 e) 2) <<< 16

/-- The first range, each with the tile that works on it, that lies outside node memory allowed to the job or holds a lost page: its cause and
tile. -/
def State.rangesFault (s : State) (wr : Bool) (range : Nat) (l : List (Nat × Nat × Nat)) : Option Nat :=
  (l.filterMap (fun q => (if wr then s.wrCheck q.2.1 q.2.2 else s.rdCheck q.2.1 q.2.2).bind (fun e =>
    if e.cause range range = 0 then none else some (tileResult q.1 (e.cause range range))))).head?

/-- The region that a WREGION describes, with its digest yet to be formed. -/
def wregionOf (raw : BitVec 512) : Region :=
  let shard := (dArg raw 0).testBit 6
  ⟨dProg raw, shard, if shard then BitVec.ofNat 32 (dMask raw) else 0, dArg raw 1, dArg raw 2, dArg raw 3, 0, [], 0⟩

/-- The weight digest of a region's contents (R523, R524). -/
def State.digestOf (s : State) (w : Nat) (r : Region) : Nat :=
  let key := Rng.digestKey w s.live.key.toNat
  (List.range (1024 * r.count)).foldl (fun n e => (n + Rng.digTerm key e (s.master r e)) % Rng.p127) 0

/-- R187, R188: any descriptor with a use of the region that waits or runs keeps it busy. -/
def State.runWregion (ev : List HwEv) (d : DRef) (x : InDesc) (s : State) : EngOut :=
  let raw := x.raw
  let w := getBits (dArg raw 0) 0 6
  let r := wregionOf raw
  let busy := s.descs.any (fun y => y.ref != d && y.st != .finished && (usesOf y.raw).any (fun u => useReg u == w))
  let ranges := loRanges r ++ hiRanges r ++ stRanges r
  let others := s.live.regions.flatMap (fun p => if p.1 = w then [] else loRanges p.2 ++ hiRanges p.2 ++ stRanges p.2)
  let clash := fun (i : Nat) (q : Nat × Nat) => ((ranges.drop (i + 1)) ++ others).any (fun p => overlaps q.1 q.2 p.1 p.2)
  if dArg raw 0 / 128 ≠ 0 ∨ 2 ^ 24 < dProg raw ∨ dMask raw = 0 then engFault s 0 causeBAD_REGION
  else if busy then engFault s 0 0x0606
  else if dProg raw = 0 then .done (s.trs x.step (.regionDef w applyTr.emptyRegion)) stOK 0
  else if r.hi % 4096 ≠ 0 ∨ r.lo % 4096 ≠ 0 ∨ r.st % 4096 ≠ 0 then engFault s 0 causeBAD_REGION
  else if r.shard ∧ (r.count % (shardTiles r).length ≠ 0 ∨ ¬ s.shardBase r.hi ∨ ¬ s.shardBase r.lo ∨ ¬ s.shardBase r.st) then
    engFault s 0 causeBAD_REGION
  else if ranges.zipIdx.any (fun q => clash q.2 q.1) ∨ ranges.any (fun q => (match s.rdCheck q.1 q.2 with
      | some .range => true
      | some .area => true
      | _ => false)) then engFault s 0 causeBAD_REGION
  else match s.rangesFault false 0x0408 ((loRanges r ++ hiRanges r).map (fun q => ((tilesOf raw).headD 0, q))) with
    | some c => engFault s 0 c
    | none =>
      let (s, ok) := s.hwEvs x.step ev
      if ¬ ok then .stuck s
      else .done (s.trs x.step (.regionDef w { r with dig := s.digestOf w r })) stOK 0

def execWregion (d : DRef) (ev : List HwEv) (s : State) : Res := s.engRow d 0x103 (State.runWregion ev d)

/-! ## The update engine (R193, R202 to R204) -/

/-- The tile whose update engine takes relative block `j`, region block `b` (R190, R202); none where no selected tile does. -/
def blockTile (r : Region) (sel : List Nat) (j b : Nat) : Option Nat :=
  if r.shard then
    let t := (shardTiles r).getD (b / shardBlocks r) 32
    if sel.contains t then some t else none
  else if sel.isEmpty then none else sel[j % sel.length]?

/-- The optimiser record (R202) as FP32 values. -/
def State.optrec (s : State) (a : Nat) : List Val :=
  (List.range 16).map (fun i => decode .fp32 (leNat (s.rdBytes (a + 4 * i) 4)))

/-- A record that R204 refuses. -/
def optBad (o : List Val) : Bool :=
  let fin := fun (v : Val) => !v.isNan && !v.isInf
  !((o.drop 1).all fin) || !((o.drop 9).all Val.isZero)

/-- One element's results: the new master and moments, the flags. -/
structure UpdRes where
  w : Val
  m1 : Val
  m2 : Val
  fl : Nat
  deriving DecidableEq, Repr

/-- `update_element` (R203). -/
def updElem (kernel : Nat) (nest : Bool) (o : List Val) (w g m1 m2 : Val) : UpdRes :=
  let f : Fmt := .fp32
  let p := fun (i : Nat) => o.getD i Val.zero
  let clip := fun (v : Val) =>
    if (p 1).isZero then (⟨v, 0⟩ : Fp.Res)
    else if v.isNan then nanRes [v]
    else ⟨Ep.minV (Ep.maxV v (p 1).negate) (p 1), 0⟩
  let g1 := mul f .rne g (p 0)
  let g2 := clip g1.v
  let w1 := fma f .rne (p 8).negate w w
  let a1 := mul f .rne (p 3) g2.v
  let n1 := fma f .rne (p 2) m1 a1.v
  let gg := mul f .rne g2.v g2.v
  let a2 := mul f .rne (p 5) gg.v
  let n2 := fma f .rne (p 4) m2 a2.v
  let sq := sqrt f .rne n2.v
  let de := add f .rne sq.v (p 7)
  let base := g1.fl ||| g2.fl ||| w1.fl
  let f1 := a1.fl ||| n1.fl
  let f2 := gg.fl ||| a2.fl ||| n2.fl
  let fin := fun (d : Val) (fl : Nat) (x1 x2 : Val) =>
    let w2 := fma f .rne (p 6).negate d w1.v
    (⟨w2.v, x1, x2, fl ||| w2.fl⟩ : UpdRes)
  if kernel = 0 then
    if nest then
      let d := fma f .rne (p 2) n1.v g2.v
      fin d.v (base ||| f1 ||| d.fl) n1.v m2
    else fin n1.v (base ||| f1) n1.v m2
  else if kernel = 1 then
    let d := div f .rne n1.v de.v
    fin d.v (base ||| f1 ||| f2 ||| sq.fl ||| de.fl ||| d.fl) n1.v n2.v
  else
    let d := div f .rne g2.v de.v
    fin d.v (base ||| f2 ||| sq.fl ||| de.fl ||| d.fl) m1 n2.v

/-- One block of an update. -/
structure UpdBlock where
  new : List (Nat × UpdRes)
  stop : Bool
  deriving DecidableEq, Repr

/-- Whether an element's result is a NaN write, and its CAUSE. -/
def updNan (kernel : Nat) (u : UpdRes) : Option Nat :=
  if u.w.isNan || (kernel != 2 && u.m1.isNan) || (kernel != 0 && u.m2.isNan) then some (if u.fl.testBit 0 then 0 else 1) else none

/-- The elements of a block in order, up to the first that writes a NaN under NaN watch (R204). -/
def State.updBlock (s : State) (r : Region) (kernel : Nat) (nest : Bool) (o : List Val) (grad gb b : Nat) (watch : Bool) : UpdBlock :=
  (List.range 1024).foldl (fun (a : UpdBlock) i =>
    if a.stop then a
    else
      let e := 1024 * b + i
      let w := decode .fp32 (s.master r e)
      let g := decode (if gb = 2 then .eq16 else .fp32) (leNat (s.rdBytes (regionAt r grad gb e) gb))
      let m := fun (base : Nat) => decode .fp32 (leNat (s.rdBytes (regionAt r base 4 e) 4))
      let u := updElem kernel nest o w g (m r.st) (m (r.st + 4096 * shardBlocks r))
      { new := a.new ++ [(e, u)], stop := watch && (updNan kernel u).isSome }) ⟨[], false⟩

/-- The writes of a block: the low range and the state it uses, and the sectors of the high range that change (R204). -/
def State.updWrites (s : State) (r : Region) (kernel b : Nat) (new : List (Nat × UpdRes)) : List (Nat × List Byte) :=
  let e0 := 1024 * b
  let pat := fun (u : UpdRes) => encode .fp32 u.w
  let lo := (regionAt r r.lo 2 e0, new.flatMap (fun p => leBytes 2 (pat p.2)))
  let m1 := if kernel = 2 then [] else [(regionAt r r.st 4 e0, new.flatMap (fun p => leBytes 4 (encode .fp32 p.2.m1)))]
  let m2 := if kernel = 0 then [] else
    [(regionAt r (r.st + 4096 * shardBlocks r) 4 e0, new.flatMap (fun p => leBytes 4 (encode .fp32 p.2.m2)))]
  let hs := new.flatMap (fun p => leBytes 2 (pat p.2 >>> 16))
  let ha := regionAt r r.hi 2 e0
  let hi := (chunks 32 64 hs).zipIdx.filterMap (fun c =>
    let a := ha + 32 * c.2
    if s.rdBytes a c.1.length = c.1 then none else some (a, c.1))
  [lo] ++ m1 ++ m2 ++ hi

/-- The change of a region's digest by new masters (R524). -/
def State.digChange (s : State) (w : Nat) (r : Region) (new : List (Nat × Nat)) : Nat :=
  let key := Rng.digestKey w s.live.key.toNat
  new.foldl (fun n p => (n + Rng.digDelta key p.1 (s.master r p.1) p.2) % Rng.p127) 0

/-- What the blocks of an UPDATE have done so far. -/
structure UpdAcc where
  writes : List (Nat × Nat × List Byte) := []
  masters : List (Nat × Nat) := []
  fl : SM Nat := []
  hits : List (Nat × Nat × Nat) := []
  stopped : List Nat := []
  deriving DecidableEq, Repr

/-- All blocks of an UPDATE, in order; a tile that trapped takes no further block. -/
def State.updBlocks (s : State) (x : InDesc) (r : Region) (o : List Val) : UpdAcc :=
  let kernel := getBits (dArg x.raw 3) 0 4
  let nest := (dArg x.raw 3).testBit 7
  let gb := if getBits (dArg x.raw 3) 4 3 = 2 then 2 else 4
  let first := getBits (dArg x.raw 2) 0 32
  let watch := s.flag fNANWATCH
  (List.range (getBits (dArg x.raw 2) 32 32)).foldl (fun (a : UpdAcc) j =>
    match blockTile r (tilesOf x.raw) j (first + j) with
    | none => a
    | some t =>
      if a.stopped.contains t then a
      else
        let b := s.updBlock r kernel nest o (dArg x.raw 1) gb (first + j) watch
        let fl := b.new.foldl (fun n p => n ||| p.2.fl ||| (if (updNan kernel p.2).isSome then fNANSEEN else 0)) (SM.getD 0 a.fl t)
        { writes := a.writes ++ (s.updWrites r kernel (first + j) b.new).map (fun w => (t, w))
          masters := a.masters ++ b.new.map (fun p => (p.1, encode .fp32 p.2.w))
          fl := SM.setD 0 a.fl t fl
          hits := a.hits ++ b.new.filterMap (fun p => (updNan kernel p.2).map (fun c => (t, p.1, c)))
          stopped := if b.stop then a.stopped ++ [t] else a.stopped }) {}

/-- Writes by several units of one descriptor; an error comes with its tile. -/
def State.unitWrites (s : State) (d : DRef) : List (Nat × Nat × List Byte) → Except (Nat × MErr) State
  | [] => .ok s
  | (t, a, bs) :: l => match s.write (s.writer d t) a bs with
    | .ok s => s.unitWrites d l
    | .error e => .error (t, e)

/-- Traps on several tiles after an engine descriptor's work (R105); each hit is (tile, ELEMENT, INSTR, PC, CAUSE). -/
def State.engTraps (s : State) (tag : BitVec 64) (stream : Nat) (hits : List (Nat × Nat × Nat × Nat × Nat)) : State :=
  (hits.map (·.1)).eraseDups.foldl (fun s t =>
    let s' := s.nanHits tag t stream 0 ((hits.filter (fun h => h.1 = t)).map (·.2))
    if s.flag fNANWATCH then s'.stopOthers t stream none else s') s

/-- The faults of an UPDATE (R202, R204). -/
def State.updFault (s : State) (x : InDesc) (r : Region) : Option Nat :=
  let a3 := dArg x.raw 3
  let gb := if getBits a3 4 3 = 2 then 2 else 4
  let first := getBits (dArg x.raw 2) 0 32
  let n := getBits (dArg x.raw 2) 32 32
  let bs := (List.range n).map (fun j => (j, first + j))
  if n = 0 ∨ r.count < first + n ∨ r.st = 0 ∨ dMask x.raw = 0 ∨ (r.shard ∧ ¬ s.shardBase (dArg x.raw 1))
      ∨ bs.any (fun b => (blockTile r (tilesOf x.raw) b.1 b.2).isNone) then some causeBAD_REGION
  else if dProg x.raw % 64 ≠ 0 ∨ dArg x.raw 1 % 32 ≠ 0 then some 0x0407
  else match s.rangesFault false 0x0408 ([((tilesOf x.raw).headD 0, dProg x.raw, 64)] ++ bs.flatMap (fun b =>
      let t := (blockTile r (tilesOf x.raw) b.1 b.2).getD 0
      [(t, regionAt r (dArg x.raw 1) gb (1024 * b.2), 1024 * gb), (t, regionAt r r.hi 2 (1024 * b.2), 2048),
        (t, regionAt r r.lo 2 (1024 * b.2), 2048), (t, regionAt r r.st 4 (1024 * b.2), 4096),
        (t, regionAt r (r.st + 4096 * shardBlocks r) 4 (1024 * b.2), 4096)])) with
    | some c => some c
    | none =>
      if 2 < getBits a3 0 4 ∨ (getBits a3 4 3 ≠ 1 ∧ getBits a3 4 3 ≠ 2) ∨ a3 / 256 ≠ 0 ∨ optBad (s.optrec (dProg x.raw)) then
        some 0x060B
      else none

/-- R202 to R204. -/
def State.runUpdate (ev : List HwEv) (d : DRef) (x : InDesc) (s : State) : EngOut :=
  let w := useReg (getBits (dArg x.raw 0) 0 32)
  let r := s.region w
  match s.updFault x r with
  | some c => engFault s 0 c
  | none =>
    let (s, ok) := s.hwEvs x.step ev
    if ¬ ok then .stuck s
    else
      let a := s.updBlocks x r (s.optrec (dProg x.raw))
      match s.unitWrites d a.writes with
      | .error (_, .wait) => .wait
      | .error (t, e) => engFault (s.noteErr e) t (e.cause 0x0408 0x0408)
      | .ok s' =>
        let s' := (s'.trs x.step (.regionDig w (s.digChange w r a.masters))).updStep x.step (fun y =>
          { y with updated := if y.updated.contains w then y.updated else y.updated ++ [w] })
        let s' := a.fl.foldl (fun s p => s.tileFlags x.step p.1 p.2 0) s'
        let s' := s'.plainResidue x.step 5 (fun t => tileUnit 0x21 t 0 0) (ev.filter (fun e => match e with
          | .residue t _ _ _ => (tilesOf x.raw).contains t
          | _ => false))
        let s' := s'.engTraps x.step 2 (a.hits.map (fun h => (h.1, h.2.1 % 65536, dOp x.raw, h.2.1, h.2.2)))
        .done s' (if a.stopped.isEmpty then stOK else stNAN_TRAP) 0

def execUpdate (d : DRef) (ev : List HwEv) (s : State) : Res := s.engRow d 0x102 (State.runUpdate ev d)

/-- The faults that WSPLIT and WJOIN share (R193). -/
def State.moveFault (s : State) (x : InDesc) (r : Region) (split : Bool) : Option Nat :=
  let a := dArg x.raw 1
  let tile := fun (b : Nat) => (blockTile r (tilesOf x.raw) b b).getD 0
  let arr := (List.range r.count).map (fun b => (tile b, regionAt r a 4 (1024 * b), 4096))
  if dMask x.raw = 0 ∨ (r.shard ∧ (¬ s.shardBase a ∨ ¬ (shardTiles r).all (fun t => (dMask x.raw).testBit t))) then some causeBAD_REGION
  else if a % 32 ≠ 0 then some 0x0407
  else match s.rangesFault (!split) 0x0408 arr with
    | some c => some c
    | none => s.rangesFault split 0x0408 ((List.range r.count).flatMap (fun b =>
        [(tile b, regionAt r r.hi 2 (1024 * b), 2048), (tile b, regionAt r r.lo 2 (1024 * b), 2048)]))

/-- R193: an FP32 array into the region's halves, a move without arithmetic. -/
def State.runWsplit (ev : List HwEv) (d : DRef) (x : InDesc) (s : State) : EngOut :=
  let w := useReg (getBits (dArg x.raw 0) 0 32)
  let r := s.region w
  match s.moveFault x r true with
  | some c => engFault s 0 c
  | none =>
    let (s, ok) := s.hwEvs x.step ev
    if ¬ ok then .stuck s
    else
      let pat := fun (e : Nat) => leNat (s.rdBytes (regionAt r (dArg x.raw 1) 4 e) 4)
      let ws := (List.range r.count).flatMap (fun b =>
        let t := (blockTile r (tilesOf x.raw) b b).getD 0
        let es := (List.range 1024).map (fun i => 1024 * b + i)
        [(t, regionAt r r.hi 2 (1024 * b), es.flatMap (fun e => leBytes 2 (pat e >>> 16))),
          (t, regionAt r r.lo 2 (1024 * b), es.flatMap (fun e => leBytes 2 (pat e)))])
      match s.unitWrites d ws with
      | .error (_, .wait) => .wait
      | .error (t, e) => engFault (s.noteErr e) t (e.cause 0x0408 0x0408)
      | .ok s' =>
        let new := (List.range (1024 * r.count)).map (fun e => (e, pat e))
        .done (s'.trs x.step (.regionDig w (s.digChange w r new))) stOK 0

def execWsplit (d : DRef) (ev : List HwEv) (s : State) : Res := s.engRow d 0x104 (State.runWsplit ev d)

/-- R193: the region's masters as an FP32 array. -/
def State.runWjoin (ev : List HwEv) (d : DRef) (x : InDesc) (s : State) : EngOut :=
  let w := useReg (getBits (dArg x.raw 0) 0 32)
  let r := s.region w
  match s.moveFault x r false with
  | some c => engFault s 0 c
  | none =>
    let (s, ok) := s.hwEvs x.step ev
    if ¬ ok then .stuck s
    else
      let ws := (List.range r.count).map (fun b =>
        ((blockTile r (tilesOf x.raw) b b).getD 0, regionAt r (dArg x.raw 1) 4 (1024 * b),
          (List.range 1024).flatMap (fun i => leBytes 4 (s.master r (1024 * b + i)))))
      match s.unitWrites d ws with
      | .error (_, .wait) => .wait
      | .error (t, e) => engFault (s.noteErr e) t (e.cause 0x0408 0x0408)
      | .ok s => .done s stOK 0

def execWjoin (d : DRef) (ev : List HwEv) (s : State) : Res := s.engRow d 0x105 (State.runWjoin ev d)

/-- R200: MODE_WVTO has passed for a descriptor that waits on the scoreboard; its read uses count as finished. -/
def execWvTimeout (d : DRef) (s : State) : Res :=
  match s.desc? d with
  | none => .refused .notPending
  | some x =>
    if x.st ≠ .waiting ∨ ¬ s.orderOk x ∨ s.score x ≠ .wait then .refused .notPending
    else .next ((s.scoreReads x (tilesOf x.raw).length).execError d 0x0603)

/-! ## XCONV and XSTAT (R206 to R208) -/

/-- The pairs of formats that the X stream converts (R97). -/
def xPair (src dst : Nat) : Bool :=
  match src with
  | 0 => dst == 1 || dst == 2 || dst == 5
  | 1 => dst == 0 || (decide (2 ≤ dst) && decide (dst ≤ 6))
  | 2 => dst == 0 || dst == 1 || dst == 3 || dst == 4
  | 3 => decide (dst ≤ 2)
  | 4 => decide (dst ≤ 2)
  | 5 => decide (dst ≤ 2) || dst == 6
  | 6 => decide (dst ≤ 2) || dst == 5
  | _ => false

/-- The block length of a format code; 1 for a scalar format. -/
def blockLen (code : Nat) : Nat := if code = 5 then 16 else if code = 6 then 32 else 1

/-- Bytes of a row of `n` elements (R121, R206). -/
def xRowBytes (code n : Nat) : Nat :=
  match Ep.ofmt code with
  | .s f => n * Mx.eltBytes f
  | .b f => (n / f.n * f.bytes + 31) / 32 * 32
  | .none_ => 0

/-- A row's pitch in bytes: 0 stands for the row rounded up to a sector. -/
def xPitch (field bytes : Nat) : Nat := if field = 0 then (bytes + 31) / 32 * 32 else 32 * field

/-- The fields of an X descriptor (R206). -/
def xLen (raw : BitVec 512) : Nat := getBits (dArg raw 2) 0 24
def xRows (raw : BitVec 512) : Nat := getBits (dArg raw 2) 24 24
def xSrc (raw : BitVec 512) : Nat := getBits (dArg raw 3) 0 3
def xDst (raw : BitVec 512) : Nat := getBits (dArg raw 3) 3 3

/-- What both descriptors refuse with BAD_PAIR (R207). -/
def xBad (raw : BitVec 512) : Bool :=
  getBits (dArg raw 2) 48 16 ≠ 0 || getBits (dArg raw 3) 6 2 ≠ 0 || xRows raw == 0 || xLen raw == 0 || dMask raw == 0
    || xSrc raw == 7 || xLen raw % blockLen (xSrc raw) != 0

/-- The values of a source row and the flags of reading it. -/
def State.xRow (s : State) (code a n : Nat) : List Val × Nat :=
  match Ep.ofmt code with
  | .s f => ((List.range n).map (fun i => decode f (leNat (s.rdBytes (a + i * Mx.eltBytes f) (Mx.eltBytes f)))), 0)
  | .b f => (List.range (n / f.n)).foldl (fun acc b =>
      let r := decodeBlock f (s.rdBytes (a + b * f.bytes) f.bytes)
      (acc.1 ++ r.1, acc.2 ||| r.2)) ([], 0)
  | .none_ => ([], 0)

/-- A converted row: bytes, flags, underflows, elements that saturated or overflowed, NaN events (index, CAUSE). -/
structure XRow where
  bytes : List Byte
  fl : Nat
  uf : Nat
  over_ : Nat
  nans : List (Nat × Nat)
  deriving DecidableEq, Repr

/-- One row through the single rounding of R99. -/
def xConvRow (src dst aclass : Nat) (vs : List Val) : XRow :=
  let nans := vs.zipIdx.filterMap (fun p => if p.1.isNan then
      some (p.2, if 5 ≤ dst then 3 else if src = 3 ∨ src = 4 then 2 else if p.1 == .nan true then 0 else 1)
    else none)
  let fl0 := if nans.isEmpty then 0 else fNANSEEN
  match Ep.ofmt dst with
  | .s g =>
    let rs := vs.map (fun v => roundVal g .rne v)
    ⟨rs.flatMap (fun r => leBytes (Mx.eltBytes g) (encode g r.v)), rs.foldl (fun n r => n ||| r.fl) fl0, 0,
      (rs.filter (fun r => r.fl.testBit 5 || r.fl.testBit 2)).length, nans⟩
  | .b g =>
    let bl := (chunks g.n (vs.length / g.n + 1) vs).map (encodeBlock g aclass)
    let bytes := bl.flatMap (·.bytes)
    ⟨bytes ++ List.replicate ((32 - bytes.length % 32) % 32) 0#8, bl.foldl (fun n b => n ||| b.fl) fl0,
      bl.foldl (fun n b => n + b.uf) 0, bl.foldl (fun n b => n + b.satn) 0, nans⟩
  | .none_ => ⟨[], 0, 0, 0, []⟩

/-- The fault of the first source or destination row that has one, with the tile that converts the row (R206, R217). -/
def State.xFault (s : State) (wr : Bool) (a pitch bytes rows : Nat) (sel : List Nat) : Option Nat :=
  ((List.range rows).filterMap (fun r => (s.locFault 0 wr true (a + r * pitch) bytes 0x0505).bind (fun c =>
    if c = 0 then none else some (tileResult (sel.getD (r % sel.length) 0) c)))).head?

/-- What the rows of an XCONV have done so far. -/
structure XAcc where
  writes : List (Nat × Nat × List Byte) := []
  fl : SM Nat := []
  uf : SM Nat := []
  over_ : Nat := 0
  hits : List (Nat × Nat × Nat × Nat × Nat) := []
  stopped : List Nat := []
  deriving DecidableEq, Repr

/-- All rows of an XCONV, in order; a tile that trapped converts no further row (R105, R206). -/
def State.xRowsDone (s : State) (raw : BitVec 512) (sp dp : Nat) : XAcc :=
  let sel := tilesOf raw
  let k := sext 8 (getBits (dArg raw 3) 8 8)
  (List.range (xRows raw)).foldl (fun (a : XAcc) r =>
    let t := sel.getD (r % sel.length) 0
    if a.stopped.contains t then a
    else
      let (vs, fl) := s.xRow (xSrc raw) (dArg raw 0 + r * sp) (xLen raw)
      let y := xConvRow (xSrc raw) (xDst raw) s.aclass (vs.map (Val.scale k))
      { writes := a.writes ++ [(t, dArg raw 1 + r * dp, y.bytes)]
        fl := SM.setD 0 a.fl t (SM.getD 0 a.fl t ||| fl ||| y.fl)
        uf := SM.setD 0 a.uf t (SM.getD 0 a.uf t + y.uf)
        over_ := a.over_ + y.over_
        hits := a.hits ++ y.nans.map (fun n => (t, n.1 % 65536, dOp raw, r, n.2))
        stopped := if s.flag fNANWATCH && !y.nans.isEmpty then a.stopped ++ [t] else a.stopped }) {}

/-- The residue checks of the element engines that convert (R174, R206): an upset names the row in `run` and its lane in `row`. Where no two
values agree the row's bytes are open. -/
def State.xChecks (s : State) (tag : BitVec 64) (raw : BitVec 512) (dp : Nat) (ev : List HwEv) (a : XAcc) : XAcc × State :=
  ev.foldl (fun (b : XAcc × State) e => match e with
    | .upset u =>
      match b.1.writes.find? (fun w => w.2.1 = dArg raw 1 + u.run * dp) with
      | some w =>
        if u.by_.val ≠ 3 then b
        else
          let (s, l) := b.2.eeCheck tag w.1 512 0 u
          if l.isEmpty then (b.1, s)
          else
            let (bs, s) := s.freeBytes w.2.2.length
            ({ b.1 with writes := b.1.writes.map (fun y => if y = w then (w.1, w.2.1, bs) else y) }, s)
      | none => b
    | _ => b) (a, s)

/-- R206, R207. -/
def State.runXconv (ev : List HwEv) (d : DRef) (x : InDesc) (s : State) : EngOut :=
  let raw := x.raw
  let sb := xRowBytes (xSrc raw) (xLen raw)
  let db := xRowBytes (xDst raw) (xLen raw)
  let sp := xPitch (getBits (dArg raw 3) 16 24) sb
  let dp := xPitch (getBits (dArg raw 3) 40 24) db
  if xBad raw ∨ ¬ xPair (xSrc raw) (xDst raw) ∨ xLen raw % blockLen (xDst raw) ≠ 0 then engFault s 0 0x0608
  else match lowerCause (s.xFault false (dArg raw 0) sp sb (xRows raw) (tilesOf raw)) (s.xFault true (dArg raw 1) dp db (xRows raw) (tilesOf raw)) with
    | some c => engFault s 0 c
    | none =>
      let (s, ok) := s.hwEvs x.step ev
      if ¬ ok then .stuck s
      else
        let a := s.xRowsDone raw sp dp
        let (a, s) := s.xChecks x.step raw dp ev a
        match s.unitWrites d a.writes with
        | .error (_, .wait) => .wait
        | .error (t, e) => engFault (s.noteErr e) t (e.cause 0x0505 0x0505)
        | .ok s =>
          let s := (tilesOf raw).foldl (fun s t => s.tileFlags x.step t (SM.getD 0 a.fl t) (SM.getD 0 a.uf t)) s
          let s := s.engTraps x.step 4 a.hits
          if a.stopped.isEmpty then .done s stOK (min a.over_ (2 ^ 32 - 1)) else .done s stNAN_TRAP 0

def execXconv (d : DRef) (ev : List HwEv) (s : State) : Res := s.engRow d 0x300 (State.runXconv ev d)

/-- R208: the largest finite magnitude as FP64, the counts of NaNs and infinities. -/
def State.runXstat (ev : List HwEv) (d : DRef) (x : InDesc) (s : State) : EngOut :=
  let raw := x.raw
  let sb := xRowBytes (xSrc raw) (xLen raw)
  let sp := xPitch (getBits (dArg raw 3) 16 24) sb
  if xBad raw then engFault s 0 0x0608
  else match lowerCause (s.xFault false (dArg raw 0) sp sb (xRows raw) (tilesOf raw)) (s.xFault true (dArg raw 1) 32 32 1 (tilesOf raw)) with
    | some c => engFault s 0 c
    | none =>
      let (s, ok) := s.hwEvs x.step ev
      if ¬ ok then .stuck s
      else
        let sel := tilesOf raw
        let rows := (List.range (xRows raw)).map (fun r => (sel.getD (r % sel.length) 0, s.xRow (xSrc raw) (dArg raw 0 + r * sp) (xLen raw)))
        let vs := rows.flatMap (fun r => r.2.1)
        let big := amaxOf vs
        let cnt := fun (p : Val → Bool) => min (vs.filter p).length (2 ^ 32 - 1)
        let bs := leBytes 8 (encode .fp64 big) ++ leBytes 4 (cnt Val.isNan) ++ leBytes 4 (cnt Val.isInf) ++ List.replicate 16 0#8
        match s.write (s.writer d (sel.headD 0)) (dArg raw 1) bs with
        | .error .wait => .wait
        | .error e => engFault (s.noteErr e) 0 (e.cause 0x0505 0x0505)
        | .ok s =>
          let s := rows.foldl (fun s r => s.tileFlags x.step r.1 r.2.2 0) s
          .done s stOK (if big.isZero then 0x80000000 else wrapInt 32 (ilog2 big))

def execXstat (d : DRef) (ev : List HwEv) (s : State) : Res := s.engRow d 0x301 (State.runXstat ev d)

end Sys2Proof.Machine
end

