-- ==== Sys2Proof/Machine/CollPlan.lean ====
section
/-! DEFINITION. The pure part of collectives (chapter 12): the fields of CDEF and COLL, groups as lists of members, the homes
of a chunk (R409), the moves of each kind and plan (R410 to R413), and the arithmetic on chunks. -/

namespace Sys2Proof.Machine
open Sys2Proof.Fp

/-! ## COLL's fields (R394 to R396) -/

def cGroup (d : BitVec 512) : Nat := getBits (dArg d 0) 0 10
def cKind (d : BitVec 512) : Nat := getBits (dArg d 0) 10 3
def cRop (d : BitVec 512) : Nat := getBits (dArg d 0) 13 2
def cEfmt (d : BitVec 512) : Nat := getBits (dArg d 0) 15 3
def cRfmt (d : BitVec 512) : Nat := getBits (dArg d 0) 18 3
def cSrch (d : BitVec 512) : Bool := (dArg d 0).testBit 21
def cRoot (d : BitVec 512) : Nat := getBits (dArg d 0) 22 12
def cCpn (d : BitVec 512) : Nat := getBits (dArg d 0) 34 6
/-- Chunks: a BARRIER has one, of zero length (R409). -/
def cNchunk (d : BitVec 512) : Nat := if cKind d = 5 then 1 else getBits (dArg d 2) 0 24
/-- The reduction kinds (R396). -/
def cRed (d : BitVec 512) : Bool := cKind d == 0 || cKind d == 1 || cKind d == 4
/-- The partial format (R396). -/
def cPf (d : BitVec 512) : Fmt := if cEfmt d = 0 then .fp64 else .fp32
/-- A scalar matrix format code. -/
def scalarOf (code : Nat) : Fmt :=
  match code with
  | 0 => .fp64 | 1 => .fp32 | 2 => .eq16 | 3 => .eq8a | _ => .eq8b

/-- Elements of a chunk of a reduction. -/
def cElems (d : BitVec 512) (log : Nat) : Nat := 2 ^ log / Mx.eltBytes (cPf d)

/-- A COLL that breaks a field rule (R394 to R396, R423), on a group with `n` members and tile mask `mask`. -/
def collBad (d : BitVec 512) (n mask : Nat) : Bool :=
  dArg d 0 / 2 ^ 40 != 0 || dArg d 2 / 2 ^ 24 != 0 || dArg d 3 != 0 || dMask d != mask || decide (5 < cKind d)
    || decide (n ≤ cRoot d)
    || (if cSrch d then !cRed d || cCpn d == 0 || decide (32 < cCpn d) || dProg d != 0 else cCpn d != 0)
    || (cKind d != 5 && (getBits (dArg d 2) 0 24 == 0 || (cSrch d && decide (65536 < getBits (dArg d 2) 0 24))))
    || (cRed d && (decide (2 < cEfmt d) || !(scalarOf (cRfmt d) == cPf d || cRfmt d == (if cEfmt d = 0 then 1 else 2))
      || decide (2 < cRfmt d)))
    || ((cKind d == 2 || cKind d == 3) && (cEfmt d != cRfmt d || decide (4 < cEfmt d)))

/-! ## Groups (R388, R389) -/

/-- TRAY and RACK of a member entry, as one number in the order of R389. -/
def entPlace (e : BitVec 32) : Nat := getBits e.toNat 16 16
def entRack (e : BitVec 32) : Nat := getBits e.toNat 24 8

/-- A member list outside R389's rules other than the last, given the nodes it names. -/
def membersBad (es : List (BitVec 32)) (nodes : List (BitVec 12)) : Bool :=
  es.any (fun e => getBits e.toNat 13 3 != 0 || (e.getLsbD 12 && getBits e.toNat 6 6 != 0))
    || (es.zip (es.drop 1)).any (fun p => decide (entPlace p.2 < entPlace p.1))
    || es.any (fun a => es.any (fun b => getBits a.toNat 16 8 == getBits b.toNat 16 8 && entRack a != entRack b))
    || es.any (fun a => decide (8 < (es.filter (fun b => entPlace b == entPlace a)).length)
        || decide (64 < (es.filter (fun b => entRack b == entRack a)).length))
    || nodes.eraseDups.length != nodes.length

/-- The first 8 bytes of a SHA-384 digest over 32-bit words, little-endian (R391, R397). -/
def words32Digest (ws : List Nat) : BitVec 64 :=
  BitVec.ofNat 64 (leNat ((Sha.sha384 (ws.flatMap (leBytes 4))).take 8))

/-! ## Homes (R409) -/

/-- The ranks that share a rank's tray, or its rack. -/
def trayOf (es : List (BitVec 32)) (r : Nat) : List Nat :=
  (List.range es.length).filter (fun x => entPlace (es.getD x 0) == entPlace (es.getD r 0))
def rackOf (es : List (BitVec 32)) (r : Nat) : List Nat :=
  (List.range es.length).filter (fun x => entRack (es.getD x 0) == entRack (es.getD r 0))

/-- The first rank of each tray of a rank's rack, and of each rack. -/
def trayHeads (es : List (BitVec 32)) (r : Nat) : List Nat := (rackOf es r).filter (fun x => (trayOf es x).head? == some x)
def rackHeads (es : List (BitVec 32)) : List Nat := (List.range es.length).filter (fun x => (rackOf es x).head? == some x)

def trayHome (es : List (BitVec 32)) (r c : Nat) : Nat := let l := trayOf es r; l.getD (c % l.length) r
def rackHome (es : List (BitVec 32)) (r c : Nat) : Nat := let l := trayHeads es r; trayHome es (l.getD (c % l.length) r) c
def spanHome (es : List (BitVec 32)) (c : Nat) : Nat := let l := rackHeads es; rackHome es (l.getD (c % l.length) 0) c

/-- The home of a chunk at a stage (1 tray, 2 rack, 3 span), seen from a rank. -/
def homeAt (es : List (BitVec 32)) (st r c : Nat) : Nat :=
  match st with
  | 1 => trayHome es r c | 2 => rackHome es r c | _ => spanHome es c

/-- The highest stage at which a rank is the home of a chunk. -/
def homeLevel (es : List (BitVec 32)) (r c : Nat) : Nat :=
  if spanHome es c = r then 3 else if rackHome es r c = r then 2 else if trayHome es r c = r then 1 else 0

/-- The ranks whose terms a home takes at a stage. -/
def kidsAt (es : List (BitVec 32)) (st r c : Nat) : List Nat :=
  (match st with
    | 1 => trayOf es r
    | 2 => (trayHeads es r).map (fun x => trayHome es x c)
    | _ => (rackHeads es).map (fun x => rackHome es x c)).filter (· != r)

/-- The ranks that a home of a stage stands for toward the next. -/
def subAt (es : List (BitVec 32)) (st r : Nat) : List Nat :=
  match st with
  | 1 => [r] | 2 => trayOf es r | _ => rackOf es r

/-! ## Moves -/

/-- How a chunk's value is formed: by homes (R410, R413), by the fold of plan 0x0001, by the tree of plan 0x0002 (R411), or
copied from one contributor. -/
inductive Scheme where
  | homes | fold | pair | copy
  deriving DecidableEq, Repr

def CollOp.scheme (o : CollOp) : Scheme :=
  if cKind o.raw = 2 ∨ cKind o.raw = 3 then .copy
  else if cRed o.raw ∧ cRop o.raw = 0 ∧ o.exact then (if o.plan = 2 then .pair else .fold)
  else .homes

def CollOp.n (o : CollOp) : Nat := o.ents.length

/-- The rank that contributes a chunk of a copied kind (R395). -/
def CollOp.source (o : CollOp) (c : Nat) : Nat := if cKind o.raw = 2 then c % o.n else cRoot o.raw

def CollOp.contributes (o : CollOp) (r c : Nat) : Bool := o.scheme != .copy || o.source c == r

/-- Whether a rank takes a chunk's result (R395). -/
def CollOp.takes (o : CollOp) (r c : Nat) : Bool :=
  match cKind o.raw with
  | 1 => c % o.n == r | 4 => cRoot o.raw == r | _ => true

/-- The rank that holds a block of the tree of plan 0x0002: `2^l` places from `a`. DESIGN CHOICE: bit `l` of the chunk index
says which half's holder adds (R412 asks only that the work be spread by chunk index). -/
def holder (n c : Nat) : Nat → Nat → Nat
  | 0, a => a
  | l + 1, a => if n ≤ a + 2 ^ l ∨ ¬ c.testBit l then holder n c l a else holder n c l (a + 2 ^ l)

/-- Levels of that tree. -/
def pairLevels (n : Nat) : Nat := if n ≤ 1 then 0 else (n - 1).log2 + 1

def blockBase (r l : Nat) : Nat := r / 2 ^ l * 2 ^ l

/-- What a rank receives in the tree, level by level, and to whom its partial goes. -/
def pairUps (n c r : Nat) : List Nat :=
  (List.range (pairLevels n)).filterMap (fun l =>
    let b := blockBase r l ^^^ 2 ^ l
    if holder n c (l + 1) (blockBase r (l + 1)) = r ∧ b < n then some (holder n c l b) else none)
def pairTo (n c r : Nat) : Option Nat :=
  (List.range (pairLevels n)).findSome? (fun l =>
    let h := holder n c (l + 1) (blockBase r (l + 1))
    if holder n c l (blockBase r l) = r ∧ h ≠ r then some h else none)

/-- The terms that a rank receives for a chunk, in the order of reduction: (rank, stage). -/
def CollOp.ups (o : CollOp) (r c : Nat) : List (Nat × Nat) :=
  match o.scheme with
  | .homes => ((List.range (homeLevel o.ents r c)).map (· + 1)).flatMap (fun st => (kidsAt o.ents st r c).map (fun k => (k, st)))
  | .fold => if r = 0 then [] else [(r - 1, 0)]
  | .pair => (pairUps o.n c r).map (fun k => (k, 0))
  | .copy => []

/-- The rank that forms the final value. -/
def CollOp.former (o : CollOp) (c : Nat) : Nat :=
  match o.scheme with
  | .homes => spanHome o.ents c | .fold => o.n - 1 | .pair => holder o.n c (pairLevels o.n) 0 | .copy => o.source c

/-- Where a rank's partial goes; the former's goes to the span home (R412). None: it becomes the final value here, or there is
none. -/
def CollOp.upTo (o : CollOp) (r c : Nat) : Option (Nat × Nat) :=
  if o.former c = r then (if spanHome o.ents c = r then none else some (spanHome o.ents c, 0))
  else match o.scheme with
    | .homes => let l := homeLevel o.ents r c + 1; some (homeAt o.ents l r c, l)
    | .fold => some (r + 1, 0)
    | .pair => (pairTo o.n c r).map (fun k => (k, 0))
    | .copy => none

/-- From whom the final value of a chunk comes to a rank. -/
def CollOp.finFrom (o : CollOp) (r c : Nat) : Option (Nat × Nat) :=
  if spanHome o.ents c = r then (if o.former c = r then none else some (o.former c, 0))
  else
    let l := homeLevel o.ents r c + 1
    if (subAt o.ents l r).any (fun x => o.takes x c) then some (homeAt o.ents l r c, l) else none

/-- To whom a rank passes the final value on (R410). -/
def CollOp.downs (o : CollOp) (r c : Nat) : List (Nat × Nat) :=
  ((List.range (homeLevel o.ents r c)).map (· + 1)).flatMap (fun st =>
    ((kidsAt o.ents st r c).filter (fun k => (subAt o.ents st k).any (fun x => o.takes x c))).map (fun k => (k, st)))

/-- Whether a rank has a value of its own to pass up. -/
def CollOp.joins (o : CollOp) (r c : Nat) : Bool := o.scheme != .copy || o.source c == r

/-! ## Arithmetic on chunks (R411 to R414) -/

/-- A value as bytes with flags and NaN events (element, cause). -/
structure CVal where
  bytes : List Byte
  fl : Nat
  hits : List (Nat × Nat)
  deriving DecidableEq, Repr

/-- The elements of a chunk. -/
def eltsOf (f : Fmt) (bs : List Byte) : List Val :=
  (chunks (Mx.eltBytes f) bs.length bs).map (fun b => decode f (leNat b))

def patBytes (f : Fmt) (v : Val) : List Byte := leBytes (Mx.eltBytes f) (encode f v)

/-- A contribution in the partial format: EQ16 widens exactly; a maximum magnitude takes magnitudes (R173). -/
def toPartial (d : BitVec 512) (bs : List Byte) : List Byte :=
  let pf := cPf d
  let wide := if cEfmt d = 2 then (eltsOf .eq16 bs).flatMap (patBytes .fp32) else bs
  if cRop d = 3 then (eltsOf pf wide).flatMap (fun v => patBytes pf (if v.isNan then v else v.abs)) else wide

/-- The flags of that conversion: INVALID for a signalling NaN (R88, R100). -/
def wideFlags (d : BitVec 512) (bs : List Byte) : Nat :=
  if cRed d ∧ cEfmt d = 2 then (nanRes (eltsOf .eq16 bs)).fl else 0

/-- An addition or comparison, element by element. -/
def chunkOp (d : BitVec 512) (a b : List Byte) : CVal :=
  let pf := cPf d
  let rs := List.zipWith (fun x y => Ep.redNode pf (cRop d) (some x, 0) (some y, 0)) (eltsOf pf a) (eltsOf pf b)
  ⟨rs.flatMap (fun r => patBytes pf (r.1.getD Val.zero)), rs.foldl (fun n r => n ||| r.2) 0,
    rs.zipIdx.filterMap (fun r => if (r.1.1.getD Val.zero).isNan then some (r.2, if r.1.2.testBit 0 then 0 else 1) else none)⟩

/-- An accumulating value takes a term; the first is unchanged. -/
def chunkAcc (d : BitVec 512) (a : Option CVal) (b : List Byte) : CVal :=
  match a with
  | none => ⟨b, 0, []⟩
  | some x => let y := chunkOp d x.bytes b; { y with fl := x.fl ||| y.fl, hits := x.hits ++ y.hits }

/-- A node of the pairwise tree with absent places masked. -/
def chunkNode (d : BitVec 512) (a b : Option CVal) : Option CVal :=
  match a, b with
  | none, _ => b
  | _, none => a
  | some x, some y => let z := chunkAcc d (some x) y.bytes; some { z with fl := z.fl ||| y.fl, hits := y.hits ++ z.hits }

/-- The tiles of a rank at places 0 to 31, combined by the tree of R170 (R411). -/
def tileTree (d : BitVec 512) (own : List (Nat × List Byte)) : Option CVal :=
  ((Ep.tree (chunkNode d) 5 ((List.range 32).map (fun t => (own.find? (fun p => p.1 = t)).map (fun p => ⟨p.2, 0, []⟩)))).head?).join

/-- The final value in RFMT (R414), with what its NaNs say to NaN watch. -/
def finish16 (d : BitVec 512) (bs : List Byte) : CVal :=
  if cRed d then
    let rf := scalarOf (cRfmt d)
    let vs := eltsOf (cPf d) bs
    let rs := vs.map (fun v => if rf = cPf d then (⟨v, 0⟩ : Fp.Res) else roundVal rf .rne v)
    ⟨rs.flatMap (fun r => patBytes rf r.v), rs.foldl (fun n r => n ||| r.fl) 0,
      rs.zipIdx.filterMap (fun r => if r.1.v.isNan then some (r.2, if r.1.fl.testBit 0 then 0 else 1) else none)⟩
  else ⟨bs, 0, []⟩

/-! ## Places in node memory -/

/-- Chunk `c`'s contribution in SRC: address and length (R395, R396). -/
def CollOp.srcAt (o : CollOp) (c : Nat) : Nat × Nat :=
  match cKind o.raw with
  | 2 => (dProg o.raw + (c / o.n) * 2 ^ o.chunkLog, 2 ^ o.chunkLog)
  | 3 => (dProg o.raw + c * 2 ^ o.chunkLog, 2 ^ o.chunkLog)
  | 5 => (0, 0)
  | _ => let k := cElems o.raw o.chunkLog * Mx.eltBytes (scalarOf (cEfmt o.raw)); (dProg o.raw + c * k, k)

/-- Chunk `c`'s result at DST: address and length. -/
def CollOp.dstAt (o : CollOp) (c : Nat) : Nat × Nat :=
  match cKind o.raw with
  | 2 => (dArg o.raw 1 + c * 2 ^ o.chunkLog, 2 ^ o.chunkLog)
  | 3 => (dArg o.raw 1 + c * 2 ^ o.chunkLog, 2 ^ o.chunkLog)
  | 5 => (0, 0)
  | k =>
    let z := cElems o.raw o.chunkLog * Mx.eltBytes (scalarOf (cRfmt o.raw))
    (dArg o.raw 1 + (if k = 1 then c / o.n else c) * z, z)

/-- How many of a kind's chunks fall to rank `r` when they go round the ranks. -/
def shareOf (nchunk n r : Nat) : Nat := if r < nchunk then (nchunk - 1 - r) / n + 1 else 0

/-- The whole contribution range and result range of this node; length 0 where it has none. -/
def CollOp.srcRange (o : CollOp) : Nat × Nat :=
  let nc := cNchunk o.raw
  if cSrch o.raw ∨ cKind o.raw = 5 then (0, 0)
  else match cKind o.raw with
    | 2 => (dProg o.raw, shareOf nc o.n o.rank * 2 ^ o.chunkLog)
    | 3 => (dProg o.raw, if cRoot o.raw = o.rank then nc * 2 ^ o.chunkLog else 0)
    | _ => (dProg o.raw, nc * (o.srcAt 0).2)
def CollOp.dstRange (o : CollOp) : Nat × Nat :=
  let nc := cNchunk o.raw
  match cKind o.raw with
  | 1 => (dArg o.raw 1, shareOf nc o.n o.rank * (o.dstAt 0).2)
  | 4 => (dArg o.raw 1, if cRoot o.raw = o.rank then nc * (o.dstAt 0).2 else 0)
  | 5 => (0, 0)
  | _ => (dArg o.raw 1, nc * (o.dstAt 0).2)

end Sys2Proof.Machine
end

