-- ==== Sys2Proof/Machine/Recover.lean ====
section
/-! DEFINITION. Commit, rollback, takeover, buddy trails, checkpoints and the locker (chapter 15). -/

namespace Sys2Proof.Machine

/-! ## Locally done and step-done (R61, R417, R460, R471, R506) -/

/-- R61 with R417: the first seal's count has finished, every descriptor of the step that was fetched has finished, its seal among them,
no check has failed, and every marker due has come. -/
def State.localDone (s : State) (x : Step) : Bool :=
  (match x.sealCnt with
    | some n => decide (n ≤ x.finished)
    | none => false)
  && (s.descs.filter (fun d => d.step = x.tag)).all (fun d => d.st == .finished)
  && !x.failed && x.recvFrom.all (fun n => s.coll.markers.contains (x.tag, n))

/-- The conditions of R471 beside local doneness and the trails: earlier records posted, log entries written, the digest exchange
ended (R526), and no Brace on a crew node (R472). -/
def State.sendsDone (s : State) : Bool :=
  !s.recs.any (fun r => !r.imm) && (decide (s.fld fRMODE = 0) || s.logQ.isEmpty) && s.rec_.digGroups.isEmpty
    && !(s.isCrew && s.flag fBRACE)

/-- Every trail of a committed step is secured at each buddy that is not being rebuilt (R471, R481). -/
def State.trailsSecured (s : State) : Bool := s.trails.all (fun t => s.rec_.rebuild.contains t.buddy)

/-- The replay comparison when the node is locally done (R460). -/
def State.replayDone (s : State) (x : Step) : State :=
  if s.fld fRMODE = 2 ∧ x.expTag ≠ 0 then
    let g := s.stepDigest x
    let ne := fun (lo : Nat) (m : BitVec 6) => if g.extractLsb' lo 64 = x.expDig.extractLsb' lo 64 then 0 else m
    s.diverge x.tag (ne 0 8 ||| ne 64 16 ||| ne 192 32)
  else s

/-- The masthead takes a step-done (R446, R472). -/
def State.takeDone (s : State) (idx rank : Nat) (tag : BitVec 64) (drain : Bool) (fbid bid : BitVec 64) : State :=
  let s := if fbid = s.bidHash true then s
    else ((s.setFld ⟨0x30038, 0, 1⟩ 1).fire 0x005 0xF0 idx)
  { s with mh := { s.mh with
      dones := (s.mh.dones.filter (fun (d : Nat × Nat × BitVec 64 × Bool) => ¬ (d.1 = idx ∧ d.2.2.1 = tag))) ++ [(idx, rank, tag, drain)],
      ranks := SM.setD 4095 s.mh.ranks idx rank, rankBid := SM.setD 0 s.mh.rankBid rank bid } }

/-- The masthead commits the oldest step for which it holds a step-done from every rank (R472), unless it is in Brace or the fleet
waits. -/
def State.tryCommit (s : State) : State :=
  match s.mh.dones with
  | [] => s
  | (_, _, t, _) :: _ =>
    if s.mh.committing.isSome ∨ s.flag fBRACE ∨ s.mh.unsecured ∨ s.rec_.waitGo ∨ s.role ≠ 1 then s
    else if (List.range s.fleetSize).all (fun r => s.mh.dones.any (fun d => d.2.1 == r && d.2.2.1 == t)) then
      let x := (s.step? t).getD { tag := t }
      let drains := ((s.mh.dones.filter (fun d => d.2.2.1 == t && d.2.2.2)).map (·.1)) ++ x.drains
      let (s, ms) := s.marksFor x drains
      { s with mh := { s.mh with committing := some t, marks := ms, drains := drains } }.broadcast (.commit t ms)
    else s

/-- R471: the rank holder sends step-done for its oldest step when every condition holds; a step-done held back by a trail alone is
counted once. -/
def execStepDone (tag : BitVec 64) (s : State) : Res :=
  match s.steps.head? with
  | none => .refused .notPending
  | some x =>
    if x.tag ≠ tag then (if s.steps.any (fun y => y.tag = tag) then .next s else .refused .notPending)
    else if ¬ s.holdsRank ∨ x.doneSent ∨ ¬ s.localDone x ∨ ¬ s.sendsDone ∨ s.rec_.waitGo then .next s
    else if ¬ s.trailsSecured then
      .next (if x.stalled then s else (s.incFld fTRAILHOLD).updStep tag (fun y => { y with stalled := true }))
    else
      let s := s.replayDone x
      let s := s.updStep tag (fun y => { y with doneSent := true })
      let drain := s.flag fFLAGGED && !s.flag fBRACE
      if s.isCrew then
        .next (s.fleetTo 0 (.stepDone s.myIdx (s.fld fRANK) tag drain (s.bidHash true) s.bidHash))
      else if s.isMast then
        .next (s.takeDone s.myIdx (s.fld fRANK) tag drain (s.bidHash true) s.bidHash).tryCommit
      else .next s

/-- R472: the masthead takes a member's step-done. -/
def execStepDoneReceive (idx : Fin 64) (rank : Nat) (tag : BitVec 64) (drain : Bool) (fbid bid : BitVec 64) (s : State) : Res :=
  let s := s.arrived (.fleet (.stepDone idx.val rank tag drain fbid bid))
  if s.isMast then .next (s.takeDone idx.val rank tag drain fbid bid).tryCommit else .refused .notPending

/-! ## Loss and rollback (R473, R479, R482, R483) -/

/-- An unsecured loss: nothing is fetched until host software resumes the fleet (R482). -/
def State.unsecuredLoss (s : State) : State :=
  State.vector ({ s with mh := { s.mh with unsecured := true } }.setFld fUNSECURED 1) 21

/-- The node's part of a ROLLBACK: R479, with FAB_DEAD cleared (R379), pages fetched from a buddy (R303), and a node whose step
failed while it is flagged drained (R506). -/
def State.selfRollback (s : State) (epoch : Nat) : State :=
  let failed := s.steps.any (·.failed)
  let s := s.rollback epoch
  let s : State := { s with rec_ := { s.rec_ with waitGo := true }, mh := { s.mh with dones := [], committing := none } }
  let s := (List.range 64).foldl (fun s k => s.setWord (0x20400 + 8 * k) 0) s
  let s := s.rec_.needPages.foldl (fun s p =>
    let dst := s.nodeAt (s.idxOfRank (buddyRank s.fleetSize (s.fld fRANK) 0))
    s.send ⟨5, dst, 0xFFFF, 32, .trail (s.trailHdr 3 dst s.comm.lastTag p) []⟩) s
  if failed ∧ s.flag fFLAGGED ∧ s.holdsRank then
    if s.isCrew then { s with rec_ := { s.rec_ with drained := true } }.fleetTo 0 (.lost (s.nodeAt s.myIdx) .drained)
    else s.unsecuredLoss
  else s

/-- R556: while D3hot is being taken, the crew is furled once no step is open. -/
def State.d3Next (s : State) : State := if s.pw.d3 ∧ ¬ s.stepOpen then s.broadcast .furl else s

/-- The masthead rolls the fleet back (R473). -/
def State.rollbackFleet (s : State) : State :=
  let e := (s.fld fEPOCH + 1) % 2 ^ 32
  ((s.broadcast (.rollback s.comm.lastTag (BitVec.ofNat 32 e))).selfRollback e).d3Next

/-- R41: HIF_CSTALL has passed since the fetch of the seal of a step that has not committed. While D3hot is being taken, an open step is given that
long to commit, and the fleet then rolls back (R556). -/
def execCommitStall (tag : BitVec 64) (s : State) : Res :=
  match s.step? tag with
  | some x =>
    let d3 := s.pw.d3 ∧ ¬ s.isCrew
    if x.sealCnt.isNone ∧ ¬ d3 then .refused .notPending
    else
      let s := if x.sealCnt.isNone ∨ s.stalledTags.contains tag then s else { s with stalledTags := tag :: s.stalledTags }.vector 17
      .next (if d3 then s.rollbackFleet else s)
  | none => .refused .notPending

/-- R479: ROLLBACK, received on a crew node, begun by the node itself otherwise. -/
def execRollback (tag : BitVec 64) (epoch : BitVec 32) (s : State) : Res :=
  let s := s.arrived (.fleet (.rollback tag epoch))
  if s.isCrew then .next (s.selfRollback epoch.toNat)
  else if epoch.toNat = (s.fld fEPOCH + 1) % 2 ^ 32 ∧ tag = s.comm.lastTag then .next s.rollbackFleet
  else .refused .notPending

/-- The masthead chooses a spare for a lost rank among the members fit to be one (R480), or sets NOSPARE (R483). -/
def State.chooseSpare (s : State) (rank : Nat) (fit : List Nat) : State :=
  let c := (s.crew.filter (fun n => fit.contains n && (s.rankOf n).isNone && !s.mh.bound.any (fun b => b.2 = n)))
  let want := SM.getD 0 s.mh.rankBid rank
  match (c.find? (fun n => SM.getD 0 s.mh.bids n = want ∧ want ≠ 0)).or c.head? with
  | none => State.vector ({ s with mh := { s.mh with noSpare := true } }.setFld fNOSPARE 1) 21
  | some n =>
    { s with mh := { s.mh with noSpare := false, bound := s.mh.bound ++ [(rank, n)] } }.fleetTo n
      (.bind rank (s.idxOfRank rank) (BitVec.ofNat 32 (s.fld fEPOCH)))

/-- The checkpoint being written is abandoned fleet-wide because a rank is lost (R495). -/
def State.ckptLost (s : State) : State :=
  if s.mh.ckptOpen then
    let s : State := { s with mh := { s.mh with ckptOpen := false, ckptDone := [] } }
    (s.dropCkpt).broadcast (.ckptAbandon (s.fld fGEN + 1))
  else s

/-- R473: the masthead counts a member lost; a relay hold suspends the loss of a relay (R76, R539). `secured` says whether a living buddy holds the rank's trail of the last committed
step secured; `fit` lists the members that are neither DEGRADED, MAPBAD nor SUSPECT. -/
def execNodeLost (idx : Fin 64) (why : LossCause) (secured : Bool) (fit : List (Fin 64)) (s : State) : Res :=
  let s := s.arrived (.fleet (.lost (BitVec.ofNat 12 (s.fld (fFleet idx.val))) why))
  if s.isCrew ∨ (why = .relay ∧ s.held) then .refused .notPending
  else
    let rank := s.rankOf idx.val
    let s : State := { s with mh := { s.mh with drains := s.mh.drains.filter (· ≠ idx.val),
                                                deadSeen := s.mh.deadSeen.filter (fun d => d.toNat ≠ s.fld (fFleet idx.val)) } }
    match rank with
    | none => .next s.rollbackFleet
    | some r =>
      if s.mh.lostRanks.contains r ∧ ¬ s.mh.bound.any (fun b => b.1 = r) then .next s
      else
        let s : State := { s with mh := { s.mh with
          lostRanks := if s.mh.lostRanks.contains r then s.mh.lostRanks else s.mh.lostRanks ++ [r],
          bound := s.mh.bound.filter (fun (b : Nat × Nat) => b.1 ≠ r) } }
        let s := s.ckptLost.rollbackFleet
        let buddies := (List.range (buddyCount s.fleetSize)).map (buddyRank s.fleetSize r)
        if idx.val = s.myIdx ∨ why = .digest ∨ ¬ secured ∨ buddies.all (fun b => s.mh.lostRanks.contains b) then .next s.unsecuredLoss
        else .next (s.chooseSpare r (fit.map Fin.val))

/-- A spare's or a rank's BID hash reaches the masthead (R449, R480); a takeover that waits for a spare goes on from step 2. -/
def execBidHashReport (idx : Fin 64) (rank : Nat) (bid : BitVec 64) (s : State) : Res :=
  let s := s.arrived (.fleet (.bid idx.val rank bid))
  if ¬ s.isMast then .refused .notPending
  else
    let s : State := if rank < s.fleetSize then
        { s with mh := { s.mh with rankBid := SM.setD 0 s.mh.rankBid rank bid, ranks := SM.setD 4095 s.mh.ranks idx.val rank } }
      else { s with mh := { s.mh with bids := SM.setD 0 s.mh.bids idx.val bid } }
    if s.mh.noSpare then
      match s.mh.lostRanks.find? (fun r => !s.mh.bound.any (fun b => b.1 = r)) with
      | some r => .next (s.chooseSpare r [idx.val])
      | none => .next s
    else .next s

/-! ## Drain and resume (R493, R506 to R508) -/

/-- A drained node that has secured its trails leaves the ranks and runs its margin test (R507). -/
def State.finishDrain (s : State) : State :=
  if s.rec_.drained ∧ s.trails.isEmpty ∧ s.holdsRank then ((s.setFld fRANK 0xFFF).setFld fDRAINED 1).startMargin 0x10 else s

/-- A node learns that the commit drained it (R40, R506, R508). DEDUCED: a standalone node rolls a younger step back, as after
an unsecured loss. -/
def State.drainSelf (s : State) : State :=
  if s.isCrew then (State.vector { s with rec_ := { s.rec_ with drained := true } } 21).finishDrain
  else s.unsecuredLoss.rollbackFleet

/-- Fields of a commit record (R488). -/
def crF (r : BitVec 1024) (lo w : Nat) : Nat := getBits r.toNat lo w

/-- A RESUME's step has committed: the protected state of the record, its register state, the RESUME log entry and full trails
(R493). -/
def State.resumed (s : State) (img : LkImage) : State :=
  let cls := crF img.record 32 4
  let put := fun (m : List Host.Cell) (k : Nat) (seg : List Byte) =>
    ((List.range segPages).foldl (fun (a : List Host.Cell × List Byte) j =>
      let page := s.segPage (k * segPages + j)
      let n := pageBytesIn cls img.regs page
      (memWrite a.1 (page * 4096) (unpackPage cls img.regs page (a.2.take n)), a.2.drop n)) (m, seg)).1
  let mem := (img.segs.tail.zipIdx).foldl (fun m p => put m p.2 p.1) s.mem
  let regs := { img.regs with stepCnt := BitVec.ofNat 64 (crF img.record 192 64), lastTag := BitVec.ofNat 64 (crF img.record 128 64),
                              lastDig := BitVec.ofNat 256 (crF img.record 768 256) }
  let s := { s with mem := mem, comm := regs, live := regs }
  let gen := crF img.record 64 64
  let s := s.setFld fGEN gen
  let s := if crF img.record 288 64 = s.bidHash.toNat then s else s.setFld fBIDDIFF 1
  let s := s.log [s.logEnt 5 s.comm.lastTag (s.comm.lastTag.toNat ||| crF img.record 36 1 <<< 64 ||| (gen % 2 ^ 32) <<< 96)]
  (List.range (buddyCount s.fleetSize)).foldl (fun s b => s.sendTrail s.comm.lastTag b s.protectedPages true) s

end Sys2Proof.Machine
end

