-- ==== Sys2Proof/Machine/Coll.lean ====
section
/-! DEFINITION. Collectives (chapter 12): CDEF and COLL, handoffs, grants, chunk data and markers, the work of stewards, and
time-outs. -/

namespace Sys2Proof.Machine
open Sys2Proof.Fp

/-! ## CDEF (R387 to R393) -/

/-- The groups as the definitions that no commit has applied yet leave them. -/
def State.groupsDue (s : State) : SM Group :=
  s.trans.foldl (fun m t => match t.2 with
    | .groupDef g x => SM.setD applyTr.emptyGroup m g x
    | _ => m) s.live.groups

/-- R393: the reservations of the defined groups and of `x` as group `g` exceed a tile's staging area. -/
def State.noStaging (s : State) (g : Nat) (x : Group) : Bool :=
  let size := fun (y : Group) => y.slots * 2 ^ y.chunkLog
  (setBits 32 x.mask.toNat).any (fun t =>
    decide (s.fld (fSRES t) * 65536 < (s.groupsDue.filter (fun p => p.1 != g && p.2.mask.getLsbD t)).foldl (fun n p => n + size p.2) (size x)))

/-- The faults of a member list come after those of the fields; NOT_MEMBER is the last rule of R389. -/
def State.runCdef (ev : List HwEv) (_ : DRef) (x : InDesc) (s : State) : EngOut :=
  let raw := x.raw
  let a := dArg raw 0
  let g := getBits a 0 10
  let nmem := getBits a 10 12
  let log := if getBits a 22 5 = 0 then 16 else getBits a 22 5
  let slots := if getBits a 27 9 = 0 then 2 else getBits a 27 9
  let bad := fun (c : Nat) => EngOut.done s stEXEC_ERROR c
  if dMask raw = 0 ∨ a / 2 ^ 36 ≠ 0 ∨ dArg raw 1 ≠ 0 ∨ dArg raw 2 ≠ 0 ∨ dArg raw 3 ≠ 0 then bad 0x0C01
  else if s.coll.ops.any (fun o => o.group = g) then bad 0x0C04
  else if nmem = 0 then .done (s.trs x.step (.groupDef g applyTr.emptyGroup)) stOK 0
  else if log < 12 ∨ 20 < log ∨ slots < 2 ∨ 256 < slots then bad 0x0C01
  else if dProg raw % 4 ≠ 0 then bad 0x0504
  else if s.touchesLow (dProg raw) (4 * nmem) then bad causeLOW_HALF
  else match s.read (dProg raw) (4 * nmem) with
    | .error e => bad (e.cause 0x0505 0x0505)
    | .ok bs =>
      let (s, ok) := s.hwEvs x.step ev
      if ¬ ok then .stuck s else
      let es := (chunks 4 nmem bs).map (fun b => BitVec.ofNat 32 (leNat b))
      let nodes := es.map s.memberNode
      let x' : Group := ⟨es, BitVec.ofNat 32 (dMask raw), log, slots,
        words32Digest ([g, nmem, dMask raw, log, slots] ++ es.map BitVec.toNat), 0⟩
      if membersBad es nodes then bad 0x0C01
      else if ¬ nodes.any (fun n => n.toNat = s.fld fNODEID) then bad 0x0C02
      else if s.noStaging g x' then bad 0x0C03
      else .done (s.trs x.step (.groupDef g x')) stOK 0

def execCdef (d : DRef) (ev : List HwEv) (s : State) : Res := s.engRow d 0x010 (State.runCdef ev d)

/-! ## Staging slots and grants (R404 to R406) -/

def State.collOp? (s : State) (g q : Nat) : Option CollOp := s.coll.ops.find? (fun o => o.group = g ∧ o.seq = q)
def State.setOp (s : State) (o : CollOp) : State :=
  { s with coll := { s.coll with ops := s.coll.ops.map (fun (x : CollOp) => if x.group = o.group ∧ x.seq = o.seq then o else x) } }
def CollOp.chunk (o : CollOp) (c : Nat) : Chunk := SM.getD {} o.chunks c
def CollOp.setChunk (o : CollOp) (c : Nat) (x : Chunk) : CollOp := { o with chunks := SM.setD {} o.chunks c x }
/-- The tiles of an operation, and the place of a chunk's steward among them (R404). -/
def CollOp.tiles (o : CollOp) : List Nat := setBits 32 o.mask
def CollOp.place (o : CollOp) (c : Nat) : Nat := c % o.tiles.length
def CollOp.steward (o : CollOp) (c : Nat) : Nat := o.tiles.getD (o.place c) 0
def CollOp.node (o : CollOp) (r : Nat) : BitVec 12 := o.nodes.getD r 0
def CollOp.rankOf (o : CollOp) (n : BitVec 12) : Option Nat := firstIdx (· == n) o.nodes

/-- The slots that chunk `c` of an operation holds, or that a grant of it has promised. -/
def CollOp.held (o : CollOp) (c : Nat) : List Nat :=
  let x := o.chunk c
  x.slot.toList ++ x.terms.map (fun t => t.2.2.1) ++ x.sums.map (fun p => p.2.2.1) ++ (o.given.filter (fun g => g.2.1 = c)).map (fun g => g.2.2.2)

/-- The slots of an operation in use on the tile at place `i`. -/
def CollOp.heldAt (o : CollOp) (i : Nat) : List Nat :=
  ((o.chunks.map (·.1) ++ o.given.map (fun g => g.2.1)).eraseDups.filter (fun c => o.place c = i)).flatMap o.held

/-- The lowest unfinished chunk of an operation on the tile at place `i`. -/
def CollOp.lowest (o : CollOp) (i : Nat) : Option Nat :=
  ((List.range (min (cNchunk o.raw - o.base) ((o.slots + 1) * o.tiles.length))).map (· + o.base)).find?
    (fun c => o.place c = i ∧ ¬ (o.chunk c).fin)

/-- A free slot number for chunk `c` of an operation, if it may take one: the lowest unfinished chunk of the oldest operation can
always have two, and later operations together hold at most SLOTS − 2 (R406). `spare` slots more must stay free. -/
def State.slotFor (s : State) (o : CollOp) (c : Nat) (spare : Nat := 0) : Option Nat :=
  let i := o.place c
  let os := s.coll.ops.filter (fun x => x.group = o.group)
  let used := os.flatMap (fun x => x.heldAt i)
  let later := (os.drop 1).flatMap (fun x => x.heldAt i)
  let first := os.head?
  let keep := match first with
    | some f => (match f.lowest i with
      | some l => if f.seq = o.seq ∧ l = c then 0 else 2 - (f.held l).length
      | none => 0)
    | none => 0
  let isLater := (first.map (·.seq)) ≠ some o.seq
  if used.length + 1 + keep + spare ≤ o.slots ∧ (isLater → later.length + 1 ≤ o.slots - 2) then
    (List.range o.slots).find? (fun k => !used.contains k)
  else none

/-- The header of a packet of an operation (R409). -/
def State.collHdr (s : State) (o : CollOp) (st : Nat) (dst : BitVec 12) (slot c part : Nat) (last : Bool) (crc : Nat) : CollHdr :=
  ⟨BitVec.ofNat 10 o.group, BitVec.ofNat 2 st, BitVec.ofNat 12 (s.fld fNODEID), dst, BitVec.ofNat 16 (s.fld fJOBSTAMP),
    BitVec.ofNat 8 slot, o.seq, c, part, last, BitVec.ofNat 16 (s.fld fEPOCH), BitVec.ofNat 32 crc, o.step, o.gdig, o.pdig⟩

/-- The contributions that a chunk needs from this node (R403). -/
def CollOp.need (o : CollOp) (c : Nat) : Nat :=
  if o.contributes o.rank c then (if cSrch o.raw then cCpn o.raw else 1) else 0

/-- The node's own contribution to a chunk is complete. -/
def CollOp.ownDone (o : CollOp) (c : Nat) : Bool := decide (o.need c ≤ (o.chunk c).owns)

/-- Whether an arrived term of (rank, stage) is the next that chunk `c` reduces: a home adds its terms in arrival order (R410), the exact
plans take theirs in the plan's order (R411). -/
def CollOp.ready (o : CollOp) (c : Nat) (e : Nat × Nat) : Bool :=
  let x := o.chunk c
  let ups := o.ups o.rank c
  match o.scheme with
  | .homes => ((x.terms.find? (fun t => t.2.1 = e.2)).map (·.1)) == some e.1
  | .fold => o.ownDone c
  | .pair => o.ownDone c && (ups.takeWhile (· != e)).all x.got.contains
  | .copy => false

/-- A term of a stage beyond the one that chunk `c` has reached here: its slot must not be one that the stages before it need (R406). -/
def CollOp.early (o : CollOp) (c : Nat) (e : Nat × Nat) : Bool :=
  o.scheme == .homes && decide (2 ≤ e.2)
    && !(o.ownDone c && ((o.ups o.rank c).filter (fun u => u.2 < e.2)).all (o.chunk c).got.contains)

/-- What chunk `c` may ask for now: any term in fast mode, those next in order under the exact plans, and the final value once the node's own
part has left. -/
def CollOp.wants (o : CollOp) (c : Nat) : List (Nat × Nat) :=
  let x := o.chunk c
  let here := fun (e : Nat × Nat) => x.terms.any (fun t => t.1 = e.1 ∧ t.2.1 = e.2) || o.given.any (fun g => g.1 = e.1 ∧ g.2.1 = c ∧ g.2.2.1 = e.2)
  let terms := (o.ups o.rank c).filter (fun e => !x.got.contains e && !here e && (o.scheme == .homes || o.ready c e))
  let fin := match o.finFrom o.rank c with
    | some e => if (x.up || !o.joins o.rank c) && x.final.isNone && !here e then [e] else []
    | none => []
  if x.fin then [] else terms ++ fin

/-- Gives the grants that can be given, in ascending chunk and rank. -/
def State.giveGrants (s : State) (g q : Nat) : State :=
  match s.collOp? g q with
  | none => s
  | some o =>
    let cs := (List.range (min (cNchunk o.raw - o.base) ((o.slots + 1) * o.tiles.length))).map (· + o.base)
    cs.foldl (fun s c =>
      match s.collOp? g q with
      | none => s
      | some o => (sortBy (fun (a b : Nat × Nat) => decide (a.1 ≤ b.1)) (o.wants c)).foldl (fun s e =>
          match s.collOp? g q with
          | none => s
          | some o => match s.slotFor o c (if o.early c e then 2 else 0) with
            | none => s
            | some k =>
              let s := s.setOp { o with given := o.given ++ [(e.1, c, e.2, k)] }
              s.send ⟨3, o.node e.1, 0xFFFF, 48, .coll 0 (s.collHdr o e.2 (o.node e.1) k c 0 false 0) []⟩) s) s

/-- Grants of every open operation. -/
def State.grantAll (s : State) : State := s.coll.ops.foldl (fun s o => s.giveGrants o.group o.seq) s

/-! ## Handoffs (R400 to R402) -/

/-- The operation that a handoff matches (R400). -/
def State.matchOp (s : State) (h : Handoff) : Option CollOp :=
  s.coll.ops.find? (fun o => o.group = h.group && cSrch o.raw && o.step == h.step && o.mask.testBit h.tile
    && !(o.chunk h.chunk).taken.contains h.tile)

/-- The fault of a handoff with the operation it matched (R401). -/
def handFault (h : Handoff) (o : CollOp) : Option Nat :=
  if Ep.hRows h.head * Ep.hCols h.head ≠ cElems o.raw o.chunkLog ∨ Ep.hOutfmt h.head ≠ cEfmt o.raw then some 0x0601
  else if cNchunk o.raw ≤ h.chunk then some 0x0C0A
  else none

/-- A handoff faults after its instruction has left the thread: its program stops if the thread still runs it (R152). -/
def State.handStop (s : State) (h : Handoff) (cause : Nat) : State :=
  let s : State := { s with coll := { s.coll with hands := s.coll.hands.erase h } }
  if (s.thr h.tile h.thread).run = some h.desc then s.stopProgram h.tile h.thread h.desc stEXEC_ERROR (tileResult h.tile cause)
  else (s.outcome h.desc stEXEC_ERROR (tileResult h.tile cause)).progCheck h.desc

/-- Matches a waiting handoff if an operation is open for it. -/
def State.tryMatch (s : State) (h : Handoff) : State :=
  match s.matchOp h with
  | none => s
  | some o => match handFault h o with
    | some c => s.handStop h c
    | none =>
      let x := o.chunk h.chunk
      let s := s.setOp (o.setChunk h.chunk { x with taken := x.taken ++ [h.tile] })
      { s with coll := { s.coll with hands := s.coll.hands.map (fun (y : Handoff) => if y = h then { h with op := some o.seq } else y) } }

/-- Matches the waiting handoffs, in the order in which they issued. -/
def State.matchHands (s : State) : State :=
  (s.coll.hands.filter (fun h => h.op.isNone)).foldl State.tryMatch s

/-- Handoffs of an operation's chunk whose output is in its reservation. -/
def State.ranHands (s : State) (o : CollOp) (c : Nat) : List Handoff :=
  s.coll.hands.filter (fun h => h.ran && h.group = o.group && h.op = some o.seq && h.chunk = c)

/-- The flags and NaN events of a handoff's program, whose instruction may have left its thread; a trap stops the stream on the tile
(R105). -/
def State.handFlags (s : State) (h : Handoff) (o : Ep.Out) : State :=
  if (s.thr h.tile h.thread).run = some h.desc then s.progFlags h.tile h.thread h.desc o.fl o.uf (epHits o)
  else match s.desc? h.desc with
  | none => s
  | some x =>
    let s := s.tileFlags x.step h.tile (if o.hits.isEmpty then o.fl else o.fl ||| fNANSEEN) o.uf
    let s' := s.nanHits x.step h.tile (dStream x.raw) 0 (epHits o)
    if o.hits.isEmpty ∨ ¬ s.flag fNANWATCH then s'
    else ((s'.outcome h.desc stNAN_TRAP 0).stopOthers h.tile (dStream x.raw) none).progCheck h.desc

/-- R150, R407: the element program of a matched handoff runs once a staging slot for its chunk is reserved, from the copy made at issue
(R158). A handoff beyond the CPN that make the chunk complete (R403) finds no reservation. A program that NaN watch stops hands nothing over. -/
def State.runHand (s : State) (h : Handoff) : State :=
  match h.op.bind (s.collOp? h.group) with
  | none => s
  | some o =>
    let x := o.chunk h.chunk
    match (match x.slot with
      | some k => some k
      | none => s.slotFor o h.chunk) with
    | none => s
    | some k =>
      if cCpn o.raw ≤ x.owns + (s.ranHands o h.chunk).length then s
      else
        let (s, ok) := s.hwEvs o.step h.ev
        let put := fun (s : State) (l : List Handoff) =>
          ({ s with coll := { s.coll with hands := s.coll.hands.flatMap (fun y => if y = h then l else [y]) } } : State)
        if ¬ ok then put s [{ h with ev := [] }]
        else
          let (out, s) := s.epExec h.tile h.desc ⟨h.core, h.tr, none, h.pair, false, 0, h.gv, none⟩ h.head h.ops h.ev
          if out.stop then ((put s []).handFlags h out).progCheck h.desc
          else
            let s := put (s.setOp (o.setChunk h.chunk { x with slot := some k })) [{ h with ev := [], ran := true, data := out.rows.flatMap (·.2) }]
            (s.handFlags h out).progCheck h.desc

/-- Reservations are given as slots become free: to handoffs in issue order, then to other members by grants. -/
def State.reserveAll (s : State) : State :=
  ((s.coll.hands.filter (fun h => h.op.isSome && !h.ran)).foldl State.runHand s).grantAll

/-! ## Closing and opening (R394, R397 to R399) -/

/-- Removes an operation, with its grants, parts and matched handoffs. -/
def State.removeOp (s : State) (o : CollOp) : State :=
  let mine := fun (h : Handoff) => decide (h.group = o.group ∧ h.op = some o.seq)
  let hs := s.coll.hands.filter mine
  let s : State := { s with coll := { s.coll with
    ops := s.coll.ops.filter (fun (x : CollOp) => ¬ (x.group = o.group ∧ x.seq = o.seq)),
    hands := s.coll.hands.filter (fun h => !mine h),
    rx := s.coll.rx.filter (fun (r : RxPart) => ¬ (r.group = o.group ∧ r.seq = o.seq)),
    grants := s.coll.grants.filter (fun (r : Grant) => ¬ (r.group = o.group ∧ r.seq = o.seq)) } }
  hs.foldl (fun s h => s.progCheck h.desc) s

/-- The result range of an operation whose results are undefined (R397, R419) holds free values. -/
def State.spoilResult (s : State) (o : CollOp) : State :=
  let (a, n) := o.dstRange
  let bs := (List.range n).map (fun i => (Config.freeWord (s.freeCtr + i)).setWidth 8)
  match ({ s with freeCtr := s.freeCtr + n } : State).write (s.writer o.desc (o.steward 0)) a bs with
  | .ok s => s
  | .error _ => { s with freeCtr := s.freeCtr + n }

/-- The address faults of a COLL (R192, R394), before it opens. -/
def State.collRange (s : State) (o : CollOp) : Option Nat :=
  if cKind o.raw ≠ 5 ∧ (dProg o.raw % 32 ≠ 0 ∨ dArg o.raw 1 % 32 ≠ 0) then some 0x0504
  else
    let bad : Option MErr → Bool := fun e => match e with
      | some .range => true
      | some .area => true
      | _ => false
    if s.touchesLow o.srcRange.1 o.srcRange.2 ∨ s.touchesLow o.dstRange.1 o.dstRange.2 then some causeLOW_HALF
    else if (o.srcRange.2 ≠ 0 ∧ bad (s.rdCheck o.srcRange.1 o.srcRange.2)) ∨ (o.dstRange.2 ≠ 0 ∧ bad (s.wrCheck o.dstRange.1 o.dstRange.2))
    then some 0x0505 else none

/-- The operation that a COLL would open now (R390, R397). -/
def State.collOf (s : State) (d : DRef) (x : InDesc) : CollOp :=
  let g := SM.getD applyTr.emptyGroup s.live.groups (cGroup x.raw)
  let nodes := g.members.map s.memberNode
  let w := x.raw
  let pdig := words32Digest [cKind w, cRop w, cEfmt w, cRfmt w, if cSrch w then 1 else 0, cRoot w, cCpn w,
    getBits (dArg w 2) 0 24, if s.exact then 1 else 0, s.fld fPLAN]
  ⟨d, w, cGroup w, g.seq, x.step, (firstIdx (fun n => n.toNat = s.fld fNODEID) nodes).getD nodes.length, g.members, nodes,
    g.mask.toNat, g.chunkLog, g.slots, g.dig, pdig, s.exact, s.fld fPLAN, false, [], 0, []⟩

/-- A node holds at most 4 open operations of one group and 64 in all (R398). -/
def State.collRoom (s : State) (g : Nat) : Bool :=
  decide ((s.coll.ops.filter (fun o => o.group = g)).length < 4) && decide (s.coll.ops.length < 64)

/-- Ends a COLL: its error leaves free results where it was open. -/
def State.closeErr (s : State) (o : CollOp) (cause : Nat) : State :=
  ((s.removeOp o).spoilResult o).execError o.desc cause

/-- The grant of no slot that tells a member the digests of a mismatched operation (R397; DESIGN CHOICE, log 16), and its chunk. -/
def State.tellMism (s : State) (m : Mism) (peer : BitVec 12) (c : Nat) : State :=
  s.send ⟨3, peer, 0xFFFF, 48, .coll 0 ⟨BitVec.ofNat 10 m.group, 0, BitVec.ofNat 12 (s.fld fNODEID), peer, BitVec.ofNat 16 (s.fld fJOBSTAMP),
    0, m.seq, c, 0, false, BitVec.ofNat 16 (s.fld fEPOCH), 0, m.step, m.gdig, m.pdig⟩ []⟩

/-- An operation whose digests differ from those of packets (their senders and chunks) completes with COLL_MISMATCH, and so do the senders,
whom it tells (R397). -/
def State.mismatch (s : State) (o : CollOp) (peers : List (BitVec 12 × Nat)) : State :=
  let m : Mism := ⟨o.group, o.seq, o.step, o.gdig, o.pdig, peers.map (·.1)⟩
  let s := peers.foldl (fun s p => s.tellMism m p.1 p.2) s
  ({ s with coll := { s.coll with mism := s.coll.mism ++ [m] } } : State).closeErr o 0x0C07

/-- A packet for an operation that has closed with COLL_MISMATCH: a sender with other digests that was not told yet is told (R397). -/
def State.lateMism (s : State) (h : CollHdr) : State :=
  match s.coll.mism.find? (fun m => m.group = h.group.toNat ∧ m.seq = h.seq) with
  | some m =>
    if (m.gdig = h.gdig ∧ m.pdig = h.pdig) ∨ m.told.contains h.src then s
    else
      let s := s.tellMism m h.src h.chunk
      { s with coll := { s.coll with mism := s.coll.mism.map (fun x => if x = m then { m with told := h.src :: m.told } else x) } }
  | none => s

/-- Opens the operation of a COLL. -/
def State.openColl (s : State) (d : DRef) (x : InDesc) : State :=
  let g := SM.getD applyTr.emptyGroup s.live.groups (cGroup x.raw)
  let o := s.collOf d x
  if g.members = [] then s.execError d 0x0C05
  else if o.nodes.length ≤ o.rank then s.execError d 0x0C02
  else
    let s := s.trs x.step (.groupSeq o.group)
    let s : State := { s with coll := { s.coll with ops := s.coll.ops ++ [o] } }
    match s.coll.grants.filter (fun r => r.group = o.group ∧ r.seq = o.seq ∧ (r.gdig ≠ o.gdig ∨ r.pdig ≠ o.pdig)) with
    | [] => s.matchHands.reserveAll
    | l => s.mismatch o ((l.map (·.src)).eraseDups.map (fun n => (n, ((l.find? (fun r => r.src = n)).map (·.chunk)).getD 0)))

/-- Opens waiting COLLs as far as the limits allow, in order. -/
def State.openWaiting (s : State) : List DRef → State
  | [] => s
  | d :: ds =>
    match s.desc? d with
    | some x =>
      if s.collRoom (cGroup x.raw) then
        (({ s with coll := { s.coll with queue := s.coll.queue.erase d } } : State).openColl d x).openWaiting ds
      else s.openWaiting ds
    | none => s.openWaiting ds

/-- After an operation has closed: the next COLLs open, and slots freed are granted. -/
def State.afterClose (s : State) : State := (s.openWaiting s.coll.queue).reserveAll

/-- R394: the field checks, the limits, and the opening. -/
def execColl (d : DRef) (s : State) : Res :=
  s.rowStart d 0x011 (fun x =>
    let g := SM.getD applyTr.emptyGroup s.live.groups (cGroup x.raw)
    if (tilesOf x.raw).any (fun t => s.isStopped t (dStream x.raw) 0) then .next (s.finish d stSTOPPED 0)
    else if g.members = [] then .next (s.execError d 0x0C05)
    else if collBad x.raw g.members.length g.mask.toNat then .next (s.execError d 0x0C06)
    else match s.collRange (s.collOf d x) with
      | some c => .next (s.execError d c)
      | none =>
        let s := s.running d 0
        if s.collRoom (cGroup x.raw) then .next (s.openColl d x).afterClose
        else .next { s with coll := { s.coll with queue := s.coll.queue ++ [d] } })

/-! ## Settling a chunk and an operation -/

/-- A home's value of the stages below `st`, in slot `k`, goes on (R410): it arrives as a term of the next stage that has further
participants, or is the partial that leaves the node. `fuel` bounds the stages. -/
def CollOp.climb (o : CollOp) (c k : Nat) (v : List Byte) : Nat → Nat → CollOp
  | 0, _ => o.setChunk c { o.chunk c with acc := some v, slot := some k }
  | fuel + 1, st =>
    if homeLevel o.ents o.rank c < st then o.setChunk c { o.chunk c with acc := some v, slot := some k }
    else if kidsAt o.ents st o.rank c = [] then o.climb c k v fuel (st + 1)
    else o.setChunk c { o.chunk c with terms := (o.chunk c).terms ++ [(o.rank, st, k, v)] }

/-- The sum of the package, once complete, climbs. -/
def CollOp.leavePackage (o : CollOp) (c : Nat) : CollOp :=
  let x := o.chunk c
  match o.scheme, x.acc, x.slot with
  | .homes, some v, some k => if o.ownDone c then (o.setChunk c { x with acc := none, slot := none }).climb c k v 3 1 else o
  | _, _, _ => o

/-- The node's partial of a chunk is complete. -/
def CollOp.upDone (o : CollOp) (c : Nat) : Bool :=
  let x := o.chunk c
  o.joins o.rank c && o.ownDone c && (o.ups o.rank c).all x.got.contains && x.acc.isSome

/-- A value that has nowhere to go up to becomes the final value where the former is the span home. -/
def CollOp.settle (o : CollOp) (c : Nat) : CollOp :=
  let x := o.chunk c
  let x := if o.upDone c && !x.up && (o.upTo o.rank c).isNone then { x with up := true, final := x.acc, acc := none, own := [] } else x
  let done := o.ownDone c && (x.up || !o.joins o.rank c)
    && (!o.takes o.rank c || x.written)
    && ((o.finFrom o.rank c).isNone || x.final.isSome)
    && (o.downs o.rank c).all (fun e => x.sent.contains e.1)
  let x := if done then { x with slot := none, final := none, acc := none, own := [], fin := true } else x
  let o := o.setChunk c x
  { o with base := o.base + (((List.range (cNchunk o.raw - o.base)).map (· + o.base)).takeWhile (fun k => (o.chunk k).fin)).length }

/-- Data of an operation that has not left the node yet. -/
def State.collQueued (s : State) (o : CollOp) : Bool :=
  s.portQ.any (fun k => match k.body with
    | .coll kind h _ => kind == 1 && h.group.toNat == o.group && h.seq == o.seq
    | _ => false)

/-- R399: an operation finishes once its chunks are all finished, its handoffs consumed, and what it forwards has left; with NAN_TRAP after
a NaN under watch (R105, DEDUCED: after its work). -/
def State.collEnd (s : State) (o : CollOp) : State :=
  if cNchunk o.raw ≤ o.base ∧ ¬ s.collQueued o ∧ ¬ s.coll.hands.any (fun h => h.group = o.group ∧ h.op = some o.seq) then
    ((s.removeOp o).finish o.desc (if o.trap then stNAN_TRAP else stOK) o.seq).afterClose
  else s.reserveAll

/-- Puts a changed operation back, and ends it where it can end. -/
def State.putOp (s : State) (o : CollOp) (c : Nat) : State :=
  let o := o.settle c
  (s.setOp o).collEnd o

/-- After a packet has left: an operation that waited for it alone ends (R399). -/
def State.collLeft (s : State) (b : Payload) : State :=
  match b with
  | .coll _ h _ => match s.collOp? h.group.toNat h.seq with
    | some o => if cNchunk o.raw ≤ o.base then s.collEnd o else s
    | none => s
  | _ => s

/-! ## Packets from other members (R405, R409, R415 to R417, R420) -/

/-- What every collective packet meets first: R341, then the epoch (R420). -/
def State.collIngress (s : State) (port : Nat) (h : CollHdr) : Option State :=
  match s.ingress port h.src h.dst h.job with
  | some s' => some s'
  | none => if h.epoch.toNat ≠ s.fld fEPOCH % 65536 then some (s.incFld fCOLLEPOCH) else none

/-- A grant for an operation that this node has opened and closed already: not for one of a group that is redefined (R392), which it has
yet to open. -/
def State.grantPast (s : State) (h : CollHdr) : Bool :=
  let x := SM.getD applyTr.emptyGroup s.live.groups h.group.toNat
  decide (h.seq < x.seq) && x.dig == h.gdig && !s.trans.any (fun t => match t.2 with
    | .groupDef g _ => g == h.group.toNat
    | _ => false) || s.coll.mism.any (fun m => m.group = h.group.toNat ∧ m.seq = h.seq)

/-- R405: a grant is used by the open operation, or kept until it opens. -/
def execCollGrant (port : Fin 16) (h : CollHdr) (s : State) : Res :=
  let s := s.arrived (.coll 0 h [])
  match s.collIngress port.val h with
  | some s' => .next s'
  | none =>
    let g : Grant := ⟨h.group.toNat, h.seq, h.chunk, h.stage.toNat, h.src, h.slot.toNat, h.gdig, h.pdig⟩
    match s.collOp? h.group.toNat h.seq with
    | some o =>
      if h.gdig ≠ o.gdig ∨ h.pdig ≠ o.pdig then .next (s.mismatch o [(h.src, h.chunk)]).afterClose
      else if s.coll.grants.contains g then .next s
      else .next { s with coll := { s.coll with grants := s.coll.grants ++ [g] } }
    | none =>
      if s.grantPast h then .next (s.lateMism h)
      else if s.coll.grants.contains g then .next s
      else .next { s with coll := { s.coll with grants := s.coll.grants ++ [g] } }

/-- The checker that a chunk CRC names: the tree unit of the steward's element engine. -/
def treeUnit (t : Nat) : UnitId := BitVec.ofNat 38 (0x20 ||| (t / 8 + 1) <<< 8 ||| (t % 8) <<< 11)

/-- A chunk has arrived whole: its CRC is checked (R415), and it is a term or the final value. -/
def State.chunkIn (s : State) (o : CollOp) (r c st slot : Nat) (bs : List Byte) (crc : BitVec 32) : State :=
  let s := if crc.toNat = Sha.crc32 bs then s
    else (((s.incFld fCOLLCRC).event 8 [(treeUnit (o.steward c), true)]).failStep o.step)
  let o := { o with given := o.given.erase (r, c, st, slot) }
  let x := o.chunk c
  if o.finFrom o.rank c = some (r, st) ∧ ¬ (o.ups o.rank c).contains (r, st) then
    s.putOp (o.setChunk c { x with final := some bs, slot := some slot }) c
  else s.putOp (o.setChunk c { x with terms := x.terms ++ [(r, st, slot, bs)] }) c

/-- R409: a part of a chunk. Data for a slot that was never granted, or has been filled, is a duplicate and is discarded. -/
def execCollData (port : Fin 16) (h : CollHdr) (data : List Byte) (s : State) : Res :=
  let s := s.arrived (.coll 1 h data)
  match s.collIngress port.val h with
  | some s' => .next s'
  | none =>
    match s.collOp? h.group.toNat h.seq with
    | none => .next (s.lateMism h)
    | some o =>
      if h.gdig ≠ o.gdig ∨ h.pdig ≠ o.pdig then .next (s.mismatch o [(h.src, h.chunk)]).afterClose
      else match o.rankOf h.src with
        | none => .next s
        | some r =>
          if ¬ o.given.contains (r, h.chunk, h.stage.toNat, h.slot.toNat) then .next s
          else
            let s := s.updStep o.step (fun y => { y with recvFrom := if y.recvFrom.contains h.src then y.recvFrom else y.recvFrom ++ [h.src] })
            let same := fun (p : RxPart) => decide (p.group = o.group ∧ p.seq = o.seq ∧ p.chunk = h.chunk ∧ p.src = h.src ∧ p.stage = h.stage.toNat)
            let parts := (s.coll.rx.filter (fun p => same p && p.part != h.part)) ++ [⟨o.group, o.seq, h.chunk, h.src, h.stage.toNat, h.part, h.last, data⟩]
            let others := s.coll.rx.filter (fun p => !same p)
            match parts.find? (fun p => p.last) with
            | some l =>
              if (List.range (l.part + 1)).all (fun k => parts.any (fun p => p.part = k)) then
                let bs := (List.range (l.part + 1)).flatMap (fun k => ((parts.find? (fun p => p.part = k)).map (·.data)).getD [])
                .next (({ s with coll := { s.coll with rx := others } } : State).chunkIn o r h.chunk h.stage.toNat h.slot.toNat bs h.crc)
              else .next { s with coll := { s.coll with rx := others ++ parts } }
            | none => .next { s with coll := { s.coll with rx := others ++ parts } }

/-- R417: a check-complete marker. -/
def execCollMarker (port : Fin 16) (h : CollHdr) (s : State) : Res :=
  let s := s.arrived (.coll 2 h [])
  match s.collIngress port.val h with
  | some s' => .next s'
  | none =>
    let m := (h.tag, h.src)
    if s.coll.markers.contains m then .next s
    else .next { s with coll := { s.coll with markers := s.coll.markers ++ [m] } }

/-- R416: the node's markers for a step whose first two conditions of R61 hold and whose own checks have passed. -/
def execMarkerSend (tag : BitVec 64) (s : State) : Res :=
  match s.step? tag with
  | none => .refused .notPending
  | some x =>
    if ¬ s.localDone { x with recvFrom := [] } ∨ x.marksSent then .next s
    else
      let me := BitVec.ofNat 12 (s.fld fNODEID)
      let h := fun (n : BitVec 12) => (⟨0, 0, me, n, BitVec.ofNat 16 (s.fld fJOBSTAMP), 0, 0, 0, 0, false, BitVec.ofNat 16 (s.fld fEPOCH), 0,
        tag, 0, 0⟩ : CollHdr)
      .next ((x.sentTo.foldl (fun s n => s.send ⟨3, n, 0xFFFF, 48, .coll 2 (h n) []⟩) s).updStep tag (fun y => { y with marksSent := true }))

/-! ## Work of the stewards (R408, R410 to R415) -/

/-- The packets of a chunk (R409): 1 KiB parts, the CRC with the last. -/
def State.chunkPkts (s : State) (o : CollOp) (g : Grant) (bs : List Byte) : List Packet :=
  let ps := if bs.isEmpty then [[]] else chunks 1024 (bs.length / 1024 + 1) bs
  ps.zipIdx.map (fun p =>
    let last := decide (p.2 + 1 = ps.length)
    ⟨2, g.src, 0xFFFF, 48 + p.1.length, .coll 1 (s.collHdr o g.stage g.src g.slot g.chunk p.2 last (if last then Sha.crc32 bs else 0)) p.1⟩)

/-- Sends a chunk on under a grant. -/
def State.sendChunk (s : State) (o : CollOp) (g : Grant) (bs : List Byte) : State :=
  let s : State := { s with portQ := s.portQ ++ s.chunkPkts o g bs, coll := { s.coll with grants := s.coll.grants.erase g } }
  s.updStep o.step (fun y => { y with sentTo := if y.sentTo.contains g.src then y.sentTo else y.sentTo ++ [g.src] })

/-- Elements of a chunk that one pass takes, and the passes over a chunk (DEDUCED, log 16: 512 lanes, or 128 quads for FP64). -/
def cLanes (d : BitVec 512) : Nat := if cEfmt d = 0 then 128 else 512
def CollOp.cPasses (o : CollOp) : Nat := if cRed o.raw then (cElems o.raw o.chunkLog + cLanes o.raw - 1) / cLanes o.raw else 0

/-- Elements (pass, lane) on which no two values of an addition agree hold open values (R142, R176, R415). -/
def State.openChunk (s : State) (d : BitVec 512) (es : List (Nat × Nat)) (bs : List Byte) : List Byte × State :=
  let k := Mx.eltBytes (cPf d)
  es.foldl (fun (a : List Byte × State) e => a.2.openAt a.1 (k * (cLanes d * e.1 + e.2)) k) (bs, s)

/-- Flags and NaN events of a steward's operation (R100, R414, R661), and the operation with its trap noted. -/
def State.stewardFlags (s : State) (o : CollOp) (c : Nat) (v : CVal) : State × CollOp :=
  let t := o.steward c
  let s := s.tileFlags o.step t (if v.hits.isEmpty then v.fl else v.fl ||| fNANSEEN) 0
  let s' := s.nanHits o.step t 5 0 (v.hits.map (fun h => (h.1, 0x011, c, h.2)))
  if v.hits.isEmpty ∨ ¬ s.flag fNANWATCH then (s', o)
  else (s'.stopOthers t 5 none, { o with trap := true })

/-- Takes a new accumulating value for a chunk. -/
def State.accIn (s : State) (o : CollOp) (c : Nat) (v : CVal) (ev : List (Nat × Nat)) : State × CollOp :=
  let (bs, s) := s.openChunk o.raw ev v.bytes
  let (s, o) := s.stewardFlags o c v
  (s, o.setChunk c { o.chunk c with acc := some bs })

/-- The next contribution of this node to chunk `c`: a handoff (tile order in an exact sum, R411, else arrival) or SRC. -/
def State.nextOwn (s : State) (o : CollOp) (c : Nat) : Except MErr (Option (Option Handoff × Nat × List Byte)) :=
  if cSrch o.raw then
    let hs := s.ranHands o c
    let ordered := o.scheme = .fold ∨ o.scheme = .pair
    let h := if ordered then (if (o.chunk c).owns + hs.length < cCpn o.raw then none
        else hs.find? (fun h => hs.all (fun k => decide (h.tile ≤ k.tile)))) else hs.head?
    .ok (h.map (fun h => (some h, h.tile, h.data)))
  else if cKind o.raw = 5 then .ok (some (none, 0, []))
  else match s.read (o.srcAt c).1 (o.srcAt c).2 with
    | .ok bs => .ok (some (none, 0, bs))
    | .error e => .error e

/-- Own terms of an exact sum, once complete: rank 0 of the fold begins it, the tree combines the rank's tiles (R411). -/
def State.ownFold (s : State) (o : CollOp) (c : Nat) (start : Option (List Byte)) (ev : List (Nat × Nat)) : State × CollOp :=
  let x := o.chunk c
  let v : Option CVal := match o.scheme with
    | .fold => x.own.foldl (fun a p => some (chunkAcc o.raw a p.2)) (start.map (fun b => ⟨b, 0, []⟩))
    | _ => tileTree o.raw x.own
  match v with
  | some v =>
    let (s, o) := s.accIn o c v ev
    (s, o.setChunk c { o.chunk c with own := [] })
  | none => (s, o)

/-- A unit that consumes one contribution of this node. -/
def State.contribute (s : State) (o : CollOp) (c : Nat) (ev : List HwEv) : Res :=
  let x := o.chunk c
  if ¬ o.contributes o.rank c ∨ o.ownDone c then .refused .notPending
  else match (match x.slot with
      | some k => some k
      | none => s.slotFor o c) with
    | none => .next s
    | some k =>
      match s.nextOwn o c with
      | .error .wait => .next s
      | .error e => .next (s.closeErr o (e.cause 0x0505 0x0505)).afterClose
      | .ok none => .refused .notPending
      | .ok (some (h, t, raw)) =>
        let bs := if cRed o.raw then toPartial o.raw raw else raw
        let (s, es) := s.eeChecks o.step (o.steward c) (cLanes o.raw) o.cPasses ev
        let s := s.tileFlags o.step (o.steward c) (wideFlags o.raw raw) 0
        let o := o.setChunk c { x with owns := x.owns + 1, slot := some k }
        let x := o.chunk c
        let (s, o) := match o.scheme with
          | .homes => let r := s.accIn o c (chunkAcc o.raw (x.acc.map (fun b => ⟨b, 0, []⟩)) bs) es; (r.1, r.2.leavePackage c)
          | .copy => (s, o.setChunk c { x with acc := some bs })
          | .fold =>
            let o := o.setChunk c { x with own := x.own ++ [(t, bs)] }
            if o.ownDone c ∧ o.rank = 0 then s.ownFold o c none es else (s, o)
          | .pair =>
            let o := o.setChunk c { x with own := x.own ++ [(t, bs)] }
            if o.ownDone c then s.ownFold o c none es else (s, o)
        match h with
        | some h =>
          let s : State := { s with coll := { s.coll with hands := s.coll.hands.erase h } }
          .next ((s.putOp o c).progCheck h.desc)
        | none => .next (s.putOp o c)

/-- A home's sum of one stage takes a term; a complete sum goes on (R410). -/
def State.stageSum (s : State) (o : CollOp) (c : Nat) (t : Nat × Nat × Nat × List Byte) (ev : List (Nat × Nat)) : State × CollOp :=
  let x := o.chunk c
  let p := SM.getD (0, t.2.2.1, []) x.sums t.2.1
  let v := chunkAcc o.raw (if p.1 = 0 then none else some ⟨p.2.2, 0, []⟩) t.2.2.2
  let (bs, s) := s.openChunk o.raw ev v.bytes
  let (s, o) := s.stewardFlags o c v
  if (kidsAt o.ents t.2.1 o.rank c).length ≤ p.1 then
    (s, (o.setChunk c { x with sums := SM.setD (0, 0, []) x.sums t.2.1 (0, 0, []) }).climb c p.2.1 bs 3 (t.2.1 + 1))
  else (s, o.setChunk c { x with sums := SM.setD (0, 0, []) x.sums t.2.1 (p.1 + 1, p.2.1, bs) })

/-- A unit that reduces one arrived term; `src` may be this node, whose own sum of a stage is a term of the next. -/
def State.reduceTerm (s : State) (o : CollOp) (c : Nat) (src : BitVec 12) (ev : List HwEv) : Res :=
  let x := o.chunk c
  match x.terms.find? (fun t => o.node t.1 = src && o.ready c (t.1, t.2.1)) with
  | none => .refused .notPending
  | some t =>
    let x := { x with terms := x.terms.erase t, got := x.got ++ [(t.1, t.2.1)] }
    let (s, es) := s.eeChecks o.step (o.steward c) (cLanes o.raw) o.cPasses ev
    let (s, o) := match o.scheme with
      | .homes => s.stageSum (o.setChunk c x) c t es
      | .fold => s.ownFold (o.setChunk c { x with slot := some (x.slot.getD t.2.2.1) }) c (some t.2.2.2) es
      | _ => s.accIn (o.setChunk c { x with slot := some (x.slot.getD t.2.2.1) }) c
          (chunkAcc o.raw (x.acc.map (fun b => ⟨b, 0, []⟩)) t.2.2.2) es
    .next (s.putOp o c)

/-- A unit that forwards the node's partial, or the final value, to a member under its grant. -/
def State.forward (s : State) (o : CollOp) (c : Nat) (dst : BitVec 12) : Res :=
  let x := o.chunk c
  let grant := fun (st : Nat) => s.coll.grants.find? (fun g => g.group = o.group ∧ g.seq = o.seq ∧ g.chunk = c ∧ g.src = dst ∧ g.stage = st)
  let upSt := match o.upTo o.rank c with
    | some e => if o.node e.1 = dst ∧ o.upDone c ∧ ¬ x.up then some e.2 else none
    | none => none
  let downSt := if x.final.isNone then none
    else ((o.downs o.rank c).find? (fun e => o.node e.1 = dst ∧ ¬ x.sent.contains e.1))
  match upSt, x.acc, downSt, x.final with
  | some st, some bs, _, _ => (match grant st with
    | some g => .next ((s.sendChunk o g bs).putOp (o.setChunk c { x with up := true, acc := none, slot := none }) c)
    | none => .next s)
  | _, _, some e, some bs => (match grant e.2 with
    | some g => .next ((s.sendChunk o g bs).putOp (o.setChunk c { x with sent := x.sent ++ [e.1] }) c)
    | none => .next s)
  | _, _, _, _ => .refused .notPending

/-- A unit that writes a chunk's result (R414, R418). -/
def State.writeChunk (s : State) (o : CollOp) (c : Nat) : Res :=
  let x := o.chunk c
  match x.final with
  | none => .refused .notPending
  | some bs =>
    if ¬ o.takes o.rank c ∨ x.written then .refused .notPending
    else
      let v := finish16 o.raw bs
      match s.write (s.writer o.desc (o.steward c)) (o.dstAt c).1 (v.bytes.take (o.dstAt c).2) with
      | .error .wait => .next s
      | .error e => .next (((s.noteErr e).closeErr o (e.cause 0x0505 0x0505)).afterClose)
      | .ok s =>
        let (s, o) := s.stewardFlags o c v
        .next (s.putOp (o.setChunk c { x with written := true }) c)

/-- R408: one unit of collective work on the steward tile, by thread 15 or a free thread of 12 to 14. -/
def execCollWorkUnit (tile : Fin 32) (thread : Fin 16) (group seq chunk : Nat) (k : WorkKind) (ev : List HwEv) (s : State) : Res :=
  match s.collOp? group seq with
  | none => .refused .notPending
  | some o =>
    let th := thread.val
    let free := th = 15 ∨ (12 ≤ th ∧ th ≤ 14 ∧ (s.thr tile.val th).run.isNone)
    if s.blkClosed tile.val ∨ s.reefStop tile.val then .next s
    else if cNchunk o.raw ≤ chunk ∨ o.steward chunk ≠ tile.val ∨ ¬ free ∨ (o.chunk chunk).fin then .refused .notPending
    else
      let (s1, ok) := s.hwEvs o.step ev
      if ¬ ok then .next s1
      else
        let s1 := if ev.contains .chunkCrc then ((s1.incFld fCOLLCRC).event 8 [(treeUnit tile.val, true)]).failStep o.step else s1
        match k with
        | .contribute => s1.contribute o chunk ev
        | .reduce src => s1.reduceTerm o chunk src ev
        | .forward dst => s1.forward o chunk dst
        | .write => s1.writeChunk o chunk

/-! ## Time-outs (R402, R419) -/

/-- R419: no progress, or no open, within MODE_COLLTO. -/
def execCollTimeout (d : DRef) (s : State) : Res :=
  match s.coll.ops.find? (fun o => o.desc = d) with
  | some o => .next (s.closeErr o 0x0C08).afterClose
  | none =>
    if s.coll.queue.contains d then
      .next (({ s with coll := { s.coll with queue := s.coll.queue.erase d } } : State).execError d 0x0C08)
    else .refused .notPending

/-- R402: a handoff that no operation matched within MODE_COLLTO. -/
def execNotOpen (tile : Fin 32) (group chunk : Nat) (s : State) : Res :=
  match s.coll.hands.find? (fun h => h.tile = tile.val ∧ h.group = group ∧ h.chunk = chunk ∧ h.op.isNone) with
  | some h => .next (s.handStop h 0x0C09)
  | none => .refused .notPending

end Sys2Proof.Machine
end

