-- ==== Sys2Proof/Machine/Spar.lean ====
section
/-! DEFINITION. Spar-core threads (chapter 07): launch, registers, address spaces and caches, faults and traps, and the shell of
every VXA64 instruction. -/

namespace Sys2Proof.Machine
open Sys2Proof.Fp

/-! ## Threads and registers (R218, R237) -/

def sparKey (c t : Nat) : Nat := c * 8 + t
def State.sth (s : State) (k : Nat) : SparThr := SM.getD {} s.spar k
def State.setSth (s : State) (k : Nat) (x : SparThr) : State := { s with spar := SM.setD {} s.spar k x }
def State.updSth (s : State) (k : Nat) (f : SparThr → SparThr) : State := s.setSth k (f (s.sth k))

/-- An integer register: i31 reads 0 and ignores writes. -/
def State.ireg (s : State) (k n : Nat) : Nat := if n = 31 then 0 else (SM.getD 0 (s.sth k).i n).toNat
def State.setIreg (s : State) (k n v : Nat) : State :=
  if n = 31 then s else s.updSth k (fun x => { x with i := SM.setD 0 x.i n (BitVec.ofNat 64 v) })
def State.freg (s : State) (k n : Nat) : Nat := (SM.getD 0 (s.sth k).f n).toNat
def State.setFreg (s : State) (k n v : Nat) : State :=
  s.updSth k (fun x => { x with f := SM.setD 0 x.f n (BitVec.ofNat 64 v) })
/-- A ward register: w0 reads as all ones and ignores writes. -/
def State.ward (s : State) (k n : Nat) : Nat := if n = 0 then 2 ^ 512 - 1 else (SM.getD 0 (s.sth k).w n).toNat
def State.setWard (s : State) (k n v : Nat) : State :=
  if n = 0 then s else s.updSth k (fun x => { x with w := SM.setD 0 x.w n (BitVec.ofNat 512 v) })
def State.zreg (s : State) (k n : Nat) : Nat := (SM.getD 0 (s.sth k).z n).toNat
def State.setZreg (s : State) (k n v : Nat) : State :=
  s.updSth k (fun x => { x with z := SM.setD 0 x.z n (BitVec.ofNat 4096 v) })

/-- An open value for the 32 bits that a 32-bit result leaves above it in a 64-bit register. DESIGN CHOICE: the manual does not
say what they hold. -/
def State.high32 (s : State) (v : Nat) : Nat × State :=
  (v % 2 ^ 32 + ((Config.freeWord s.freeCtr).toNat / 2 ^ 32) * 2 ^ 32, { s with freeCtr := s.freeCtr + 1 })

/-- Sets f[n] to a pattern of a format. -/
def State.setFpat (s : State) (k n : Nat) (f : Fmt) (p : Nat) : State :=
  if f = .fp64 then s.setFreg k n p else let (v, s) := s.high32 p; s.setFreg k n v

/-- The rounding direction of FPC.RM (R237). -/
def rmOf (fpc : BitVec 64) : Rm :=
  match getBits fpc.toNat 0 2 with
  | 0 => .rne | 1 => .rtz | 2 => .rdn | _ => .rup

/-- Sticky flags of an operation, at their FPC positions. -/
def State.fpcFlags (s : State) (k fl : Nat) : State :=
  if fl % 64 = 0 then s else s.updSth k (fun x => { x with fpc := x.fpc ||| BitVec.ofNat 64 ((fl % 64) <<< 4) })

/-! ## Ends, faults and traps (R239 to R244) -/

/-- A thread halts: its sticky flags join SPAR_FPFLAGS (R239). -/
def State.sparHalt (s : State) (k : Nat) : State :=
  let x := s.sth k
  match x.run with
  | some d =>
    if x.halted then s
    else
      let f := BitVec.ofNat 6 (getBits x.fpc.toNat 4 6)
      let tag := ((s.desc? d).map (·.step)).getD 0
      let s := if f = 0 then s else s.trs tag (.spFlags f)
      (s.setSth k { x with halted := true, wait := .none_ }).updDesc d (fun y => { y with left := y.left - 1 })
  | none => s

/-- Stops every thread of a descriptor (R240). -/
def State.sparStop (s : State) (d : DRef) : State :=
  ((s.spar.filter (fun p => p.2.run = some d)).foldl (fun s p => s.sparHalt p.1) s).progCheck d

/-- RESULT of a fault that ends a descriptor (R244). -/
def sparResult (k cause tidx : Nat) : Nat := cause ||| (k / 8) <<< 16 ||| tidx <<< 22

/-- A fault on a thread (R243, R244): restarting, or completing with DEADPEND where a restarting one hides a dead target. -/
def State.sparFault (s : State) (k cause : Nat) (data : Nat) (completing : Bool) (deadpend : Bool := false) : State :=
  let x := s.sth k
  match x.run with
  | none => s
  | some d =>
    if x.fvec = 0 ∨ x.inh then (s.outcome d stEXEC_ERROR (sparResult k cause x.tidx)).sparStop d
    else s.setSth k { x with
      fret := if completing then x.pc + 4 else x.pc
      fcode := cause ||| (if deadpend then 65536 else 0)
      fdata := BitVec.ofNat 64 data
      fspan := x.vspan, fvri := x.vri, vri := 0, inh := true, pc := x.fvec, wait := .none_ }

/-- NaN watch on a thread (R105, R239, R240): one event of the instruction `word`, at the lowest element that wrote a NaN. -/
def State.sparNan (s : State) (k word : Nat) (hit : Option (Nat × Nat)) : State :=
  match hit, (s.sth k).run with
  | some (e, cause), some d =>
    if ¬ s.flag fNANWATCH then s
    else
      let x := s.sth k
      let tag := ((s.desc? d).map (·.step)).getD 0
      let s := s.nanEvent tag (0x40 + k / 8) 3 x.tidx e word x.pc.toNat cause
      let s := if s.isStopped (0x40 + k / 8) 3 x.tidx then s else s.stopStream tag (0x40 + k / 8) 3 x.tidx
      (s.outcome d stNAN_TRAP 0).sparStop d
  | _, _ => s

/-! ## The shell of an instruction -/

/-- What an instruction answers: done, done with the next PC, a restarting fault (R241; BLOCK_RST completes, R564; 0 is not yet),
a completing one (R242), or not yet. -/
inductive SRes where
  | ok (s : State)
  | jump (s : State) (pc : Nat)
  | fault (s : State) (cause data : Nat)
  | late (s : State) (cause data : Nat)
  | wait
  deriving DecidableEq, Repr

/-- The classes that R223 defines. -/
def sparClasses : List Nat := [1, 2, 3, 4, 6, 8, 9, 10, 12, 14, 15, 16, 17, 18, 19, 20, 21, 22, 23]

/-- A restarting fault of an instruction of a class: a scalar one faults as if it were element 0 (R241). -/
def State.restart (s : State) (k cls cause data : Nat) : State :=
  (if cls < 16 then s.updSth k (fun x => { x with vri := 0 }) else s).sparFault k cause data false

/-- A thread that is ready (R219) runs one instruction of the classes `cls`, with its word. The all-zero word, a reserved class and a reserved
encoding raise ILLEGAL (R223). -/
def State.sparRun1 (s : State) (k word : Nat) (reserved : Bool) (cls : List Nat) (f : State → DRef → SRes) : Res :=
  let x := s.sth k
  let c := getBits word 27 5
  match x.run with
  | none => .refused .notPending
  | some d =>
    if x.halted then .refused .notPending
    else if s.capStop ∨ x.wait ≠ .none_ then .next s
    else if ¬ sparClasses.contains c then .next (s.restart k c 0x0701 0)
    else if ¬ cls.contains c then .refused .notPending
    else if reserved then .next (s.restart k c 0x0701 0)
    else match f s d with
      | .wait => .next s
      | .ok s => .next (if (s.sth k).run = some d ∧ ¬ (s.sth k).halted then s.updSth k (fun x => { x with pc := x.pc + 4 }) else s)
      | .jump s p => .next (s.updSth k (fun x => { x with pc := BitVec.ofNat 64 p }))
      | .fault s' e a => .next (if e = 0 then s else if e = 0x1101 then s'.sparFault k e a true else s'.restart k c e a)
      | .late s e a => .next (s.sparFault k e a true)

def sthKey (t : SThr) : Nat := sparKey t.core.val t.thr.val

/-- The thread of a command issues an instruction of class `cls`. -/
def State.issue (s : State) (t : SThr) (cls : Nat) (f : State → DRef → SRes) : Res :=
  s.sparRun1 (sthKey t) t.word.toNat t.reserved [cls] f

/-- The classes of VXV (R223). -/
def vxv : List Nat := [16, 17, 18, 19, 20, 21, 22, 23]

/-- The same for an instruction of VXV. -/
def State.issueV (s : State) (t : SThr) (f : State → DRef → SRes) : Res :=
  s.sparRun1 (sthKey t) t.word.toNat t.reserved vxv f

/-- The writer that a thread's stores are (R456). -/
def State.sparWriter (s : State) (k : Nat) (d : DRef) : Writer := s.writer d (0x40 + k / 8)

def causeILLEGAL : Nat := 0x0701

/-! ## Address spaces and caches (R226 to R229) -/

/-- A range inside SPAR_BOUND0 to 7 (R226): all its pages lie in bounds in force. -/
def State.inBounds (s : State) (a n : Nat) : Bool :=
  (pagesOf a n).all (fun p => (List.range 8).any (fun i => s.flag (fBoundEn i)
    && decide (s.fld (fBoundBase i) ≤ p) && decide (p ≤ s.fld (fBoundLimit i))))

/-- The cause for which an access of `n` bytes faults, the lowest first; 0 where it has to wait for a block (R537). -/
def State.sparAddr (s : State) (wr : Bool) (ea n : Nat) : Option Nat :=
  let sp := getBits ea 48 16
  let a := getBits ea 0 48
  if ea % n ≠ 0 then some 0x0703
  else if sp ≤ 1 then
    if memSize < a + n ∨ ¬ s.inBounds a n then some 0x0704
    else match (if wr then s.wrCheck a n else s.rdCheck a n) with
      | some e => some (e.cause 0x0704 0x0704)
      | none => if s.touchesLow a n then some causeLOW_HALF else none
  else if sp = 2 then
    let t := getBits a 40 5
    if getBits a 25 15 ≠ 0 ∨ getBits a 45 3 ≠ 0 ∨ s.stageBase t < getBits a 0 25 + n ∨ ¬ s.tileOn t then some 0x0704
    else if s.blkClosed t then some (if s.largeClass then 0 else 0x1101) else none
  else some 0x0705

/-- A byte of node memory as the Spar cores see it through the shared cache. -/
def State.cByte (s : State) (a : Nat) : Byte :=
  match (SM.getD ({} : CLine) s.cline (a / 128)).bytes.find? (fun b => b.1 = a % 128) with
  | some b => b.2
  | none => s.rdByte a

/-- An access to SPACE 1 first writes back and invalidates the line (R229). -/
def State.uncache (s : State) (tag : BitVec 64) (ea : Nat) : State :=
  if getBits ea 48 16 = 1 then s.flushLines tag (fun l => l.1 = getBits ea 0 48 / 128) else s

/-- The bytes that a checked load reads. -/
def State.sparRead (s : State) (ea n : Nat) : List Byte :=
  let a := getBits ea 0 48
  match getBits ea 48 16 with
  | 0 => (List.range n).map (fun i => s.cByte (a + i))
  | 1 => s.rdBytes a n
  | _ => s.spadRead (getBits a 40 5) (getBits a 0 25) n

/-- A store into the shared cache: image, digest term and trail as for any write, the bytes in the line (R228, R454, R468). -/
def State.cacheWrite (s : State) (w : Writer) (k a : Nat) (bs : List Byte) : Except MErr State :=
  match (pagesOf a bs.length).foldl (fun r p => match r with
      | .ok s => s.cowPage w.tag p
      | .error e => .error e) (.ok s : Except MErr State) with
  | .error e => .error e
  | .ok s =>
    let s := if w.kind = 1 then s else s.addTerm w (sectorTerms 0 a bs)
    let s := s.updStep w.tag (fun x =>
      { x with pages := ((pagesOf a bs.length).filter (fun p => s.groupKind (groupOf (p * 4096)) == 1 && !x.pages.contains p)) ++ x.pages })
    let l : CLine := SM.getD {} s.cline (a / 128)
    let put := bs.zipIdx.foldl (fun (m : SM Byte) b => m.filter (fun p => p.1 ≠ a % 128 + b.2) ++ [(a % 128 + b.2, b.1)]) l.bytes
    let l' : CLine := { bytes := put, writers := if l.writers.contains k then l.writers else l.writers ++ [k] }
    .ok { s with cline := SM.setD {} s.cline (a / 128) l' }

/-- A checked store. -/
def State.sparWrite (s : State) (w : Writer) (k ea : Nat) (bs : List Byte) : Except MErr State :=
  let a := getBits ea 0 48
  match getBits ea 48 16 with
  | 0 => s.cacheWrite w k a bs
  | 1 => s.write w a bs
  | _ => .ok (s.spadWrite (getBits a 40 5) (getBits a 0 25) bs)

/-- A store that does not complete waits for an image slot or faults (R470). -/
def sparErr (s : State) (ea : Nat) : MErr → SRes
  | .wait => .wait
  | .snapFull => .fault (s.noteErr .snapFull) 0x0F01 ea
  | .lost => .fault s 0x0901 ea
  | _ => .fault s 0x0704 ea

/-- FENCE.N's effect for one thread (R228). -/
def State.fenceNode (s : State) (k : Nat) (d : DRef) : State :=
  s.flushLines (((s.desc? d).map (·.step)).getD 0) (fun l => l.2.writers.contains k)

/-- An access that the L1 does not complete leaves the thread waiting until it returns (R220): SPACE 1 and 2, and where `out` is set. -/
def State.leaveL1 (s : State) (k ea : Nat) (out : Bool) : State :=
  if out ∨ getBits ea 48 16 ≠ 0 then s.updSth k (fun x => { x with wait := .access }) else s

/-! ## SPAR_RUN (R245 to R247) -/

/-- The free contexts of a core, rising. -/
def State.freeCtx (s : State) (c : Nat) : List Nat := (List.range 8).filter (fun t => (s.sth (sparKey c t)).run.isNone)

/-- Starts the threads of a SPAR_RUN. -/
def State.startSpar (s : State) (d : DRef) (x : InDesc) (cores : List Nat) (n : Nat) : State :=
  let s := s.running d (cores.length * n)
  cores.zipIdx.foldl (fun s c =>
    ((s.freeCtx c.1).take n).zipIdx.foldl (fun (s : State) p =>
      let i := [(1, dArg x.raw 1), (2, dArg x.raw 2), (3, dArg x.raw 3), (4, c.1), (5, p.2), (6, c.2 * n + p.2)].foldl
        (fun m q => SM.setD 0 m q.1 (BitVec.ofNat 64 q.2)) ([] : SM (BitVec 64))
      s.setSth (sparKey c.1 p.1) { run := some d, tidx := p.2, pc := BitVec.ofNat 64 (dProg x.raw), i := i }) s) s

/-- The checks and the start of a SPAR_RUN. A fault of ENTRY ends it as the first thread's fault with FVEC 0 does (R244, R254). -/
def State.runSpar (d : DRef) (x : InDesc) (s : State) : State :=
  let a := dArg x.raw 0
  let cores := setBits 48 (getBits a 0 48)
  let n := getBits a 48 3 + 1
  let bad := fun (c : Nat) => s.execError d c
  let entry := fun (c : Nat) => s.execError d (sparResult (sparKey (cores.headD 0) 0) c 0)
  if cores.any (fun c => !s.coreOn c) then bad 0x0702
  else if dMask x.raw ≠ 0 ∨ a / 2 ^ 51 ≠ 0 ∨ cores = [] then bad causeILLEGAL
  else if dProg x.raw % 4 ≠ 0 then entry 0x0703
  else if getBits (dProg x.raw) 48 16 ≠ 0 then entry 0x0705
  else match s.sparAddr false (dProg x.raw) 4 with
    | some 0 => s
    | some c => entry c
    | none =>
      if cores.any (fun c => (List.range n).any (fun t => s.isStopped (0x40 + c) 3 t)) then s.finish d stSTOPPED 0
      else if cores.any (fun c => decide ((s.freeCtx c).length < n)) then s
      else s.startSpar d x cores n

/-- R246. -/
def execSparRun (d : DRef) (s : State) : Res := s.start d (fun o => o = 0x280) (State.runSpar d)

/-! ## Integer instructions (R223, R224) -/

/-- An integer operation on `w`-bit operands; none where the manual states no value (a shift by `w` or more). -/
def intOp (w : Nat) (op : IntOp) (a b : Nat) : Option Nat :=
  let sa := sext w a
  let sb := sext w b
  let bool := fun (p : Bool) => some (if p then 1 else 0)
  match op with
  | .add => some ((a + b) % 2 ^ w)
  | .sub => some ((a + 2 ^ w - b) % 2 ^ w)
  | .and => some (a &&& b)
  | .or => some (a ||| b)
  | .xor => some (a ^^^ b)
  | .sll => if b < w then some ((a <<< b) % 2 ^ w) else none
  | .srl => if b < w then some (a >>> b) else none
  | .sra => if b < w then some (wrapInt w (sa / (2 ^ b : Nat))) else none
  | .rotl => let n := b % w; some ((a <<< n) % 2 ^ w ||| a >>> (w - n))
  | .rotr => let n := b % w; some (a >>> n ||| (a <<< (w - n)) % 2 ^ w)
  | .eq => bool (a == b)
  | .ne => bool (a != b)
  | .lt => bool (decide (sa < sb))
  | .ltu => bool (decide (a < b))
  | .le => bool (decide (sa ≤ sb))
  | .leu => bool (decide (a ≤ b))
  | .min => some (if sb < sa then b else a)
  | .max => some (if sa < sb then b else a)
  | .minu => some (min a b)
  | .maxu => some (max a b)
  | .popcount => some (setBits w a).length
  | .clz => some (if a = 0 then w else w - 1 - a.log2)
  | .bytrev => some (leNat (leBytes (w / 8) a).reverse)
  | .reserved => some 0

/-- The value of an operation, open where the manual states none. -/
def State.openIf (s : State) (w : Nat) : Option Nat → Nat × State
  | some v => (v, s)
  | none => ((Config.freeWord s.freeCtr).toNat % 2 ^ w, { s with freeCtr := s.freeCtr + 1 })

def State.runInt (k : Nat) (op : IntOp) (d b : Nat) (a : Nat) (s : State) (_ : DRef) : SRes :=
  if op = .reserved then .fault s causeILLEGAL 0
  else let (v, s) := s.openIf 64 (intOp 64 op a b); .ok (s.setIreg k d v)

/-- R223, class 0x01. -/
def execIntegerRegisterOp (t : SThr) (op : IntOp) (d a b : Fin 32) (s : State) : Res :=
  s.issue t 1 (State.runInt (sthKey t) op d.val (s.ireg (sthKey t) b.val) (s.ireg (sthKey t) a.val))

/-- R223, class 0x02: the immediate is sign-extended. -/
def execIntegerImmediateOp (t : SThr) (op : IntOp) (d a : Fin 32) (imm : BitVec 14) (s : State) : Res :=
  s.issue t 2 (State.runInt (sthKey t) op d.val (wrapInt 64 imm.toInt) (s.ireg (sthKey t) a.val))

/-- R223, class 0x03. -/
def execImmx (t : SThr) (d : Fin 32) (imm : BitVec 16) (s : State) : Res :=
  s.issue t 3 (fun s _ => .ok (s.setIreg (sthKey t) d.val ((s.ireg (sthKey t) d.val <<< 16) % 2 ^ 64 ||| imm.toNat)))

/-- Products, quotients and remainders (R224). -/
def mdOp (op : MdOp) (a b : Nat) : Nat :=
  let sa := sext 64 a
  let sb := sext 64 b
  match op with
  | .mul => a * b % 2 ^ 64
  | .mulh => wrapInt 64 (sa * sb / (2 ^ 64 : Nat))
  | .mulhu => a * b / 2 ^ 64
  | .div =>
    if sb = 0 then (if 0 ≤ sa then 2 ^ 63 - 1 else 2 ^ 63)
    else if sb = -1 ∧ a = 2 ^ 63 then 2 ^ 63 - 1
    else wrapInt 64 (Int.tdiv sa sb)
  | .divu => if b = 0 then 2 ^ 64 - 1 else a / b
  | .rem => if sb = 0 then a else if sb = -1 ∧ a = 2 ^ 63 then 2 ^ 64 - 1 else wrapInt 64 (Int.tmod sa sb)
  | .remu => if b = 0 then a else a % b
  | .reserved => 0

def execMultiplyDivide (t : SThr) (op : MdOp) (d a b : Fin 32) (s : State) : Res :=
  s.issue t 4 (fun s _ =>
    if op = .reserved then .fault s causeILLEGAL 0
    else .ok (s.setIreg (sthKey t) d.val (mdOp op (s.ireg (sthKey t) a.val) (s.ireg (sthKey t) b.val))))

/-! ## Branches (R223) -/

/-- The target of a branch `off` words away. PRESUMED: counted from the branch itself. -/
def State.target (s : State) (k : Nat) (off : BitVec 14) : Nat := wrapInt 64 ((s.sth k).pc.toNat + 4 * off.toInt)

def execBranch (t : SThr) (op : BrOp) (a b : Fin 32) (off : BitVec 14) (s : State) : Res :=
  s.issue t 6 (fun s _ =>
    let k := (sthKey t)
    let x := s.ireg k a.val
    let y := s.ireg k b.val
    let go := fun (p : Bool) => if p then .jump s (s.target k off) else .ok s
    match op with
    | .eq => go (x == y)
    | .ne => go (x != y)
    | .lt => go (decide (sext 64 x < sext 64 y))
    | .ltu => go (decide (x < y))
    | .ge => go (decide (sext 64 y ≤ sext 64 x))
    | .geu => go (decide (y ≤ x))
    | .reg => if x % 4 ≠ 0 then .fault s 0x0703 x else .jump s x
    | .reserved => .fault s causeILLEGAL 0)

def execCall (t : SThr) (d : Fin 32) (off : BitVec 14) (s : State) : Res :=
  s.issue t 6 (fun s _ =>
    .jump (s.setIreg (sthKey t) d.val (((s.sth (sthKey t)).pc + 4).toNat)) (s.target (sthKey t) off))

/-! ## Scalar loads and stores, atomics (R223, R226) -/

def State.runLs (k : Nat) (op : LsOp) (ev : List HwEv) (s : State) (d : DRef) : SRes :=
  let n := 2 ^ op.width.val
  let ea := wrapInt 64 (s.ireg k op.base.val + op.off.toInt)
  if op.fp ∧ op.width.val < 2 then .fault s causeILLEGAL 0
  else match s.sparAddr op.store ea n with
    | some c => .fault s c ea
    | none =>
      let w := s.sparWriter k d
      let (s1, ok) := s.hwEvs w.tag ev
      if ¬ ok then .ok s1
      else
        let s1 := s1.uncache w.tag ea
        if op.store then
          match s1.sparWrite w k ea (leBytes n (if op.fp then s1.freg k op.d.val else s1.ireg k op.d.val)) with
          | .ok s => .ok (s.leaveL1 k ea (!op.hit))
          | .error e => sparErr s1 ea e
        else
          let v := leNat (s1.sparRead ea n)
          let s := if op.fp then s1.setFpat k op.d.val (if n = 8 then .fp64 else .fp32) v
            else s1.setIreg k op.d.val (if op.signed then wrapInt 64 (sext (8 * n) v) else v)
          .ok (s.leaveL1 k ea (!op.hit))

def execScalarLoadStore (t : SThr) (op : LsOp) (ev : List HwEv) (s : State) : Res := s.issue t 8 (State.runLs (sthKey t) op ev)

/-- The new value of a node atomic. -/
def atomicNew (w : Nat) (op : AtOp) (m v x : Nat) : Nat :=
  match op with
  | .add => (m + v) % 2 ^ w
  | .min => if sext w v < sext w m then v else m
  | .max => if sext w m < sext w v then v else m
  | .minu => min m v
  | .maxu => max m v
  | .xchg => v
  | .cas => if m = v then x else m
  | .reserved => m

/-- `atomic_data` hashed with its address: the term of an atomic, kind 1 (R454). -/
def atomicTerm (addr rop type op1 op2 : Nat) : BitVec 64 :=
  Rng.digHash 1 addr (op1 ||| op2 <<< 64 ||| rop <<< 128 ||| type <<< 136) 0xFFFFFFFF

/-- The place of a node atomic among the operations of its class, and its operand type (R357's codes). -/
def atCode : AtOp → Nat
  | .add => 0 | .min => 1 | .max => 2 | .minu => 3 | .maxu => 4 | .xchg => 5 | .cas => 6 | .reserved => 7
def atType (op : AtOp) (wide : Bool) : Nat :=
  (if wide then 2 else 0) + (match op with
    | .min => 1 | .max => 1 | _ => 0)

/-- R223, class 0x09: i[b] is the operand, and i[c] the new value of a compare-and-swap; i[d] takes the old value. -/
def State.runAtomic (k : Nat) (op : AtOp) (wide : Bool) (rd ra rb rc : Nat) (ev : List HwEv) (s : State) (d : DRef) : SRes :=
  let n := if wide then 8 else 4
  let ea := s.ireg k ra
  if op = .reserved then .fault s causeILLEGAL 0
  else match s.sparAddr true ea n with
    | some c => .fault s c ea
    | none =>
      let w := { s.sparWriter k d with kind := 1 }
      let (s, ok) := s.hwEvs w.tag ev
      if ¬ ok then .ok s else
      let s := s.uncache w.tag ea
      let m := leNat (s.sparRead ea n)
      let x := s.ireg k rb % 2 ^ (8 * n)
      let y := s.ireg k rc % 2 ^ (8 * n)
      let s0 := s
      let s := if getBits ea 48 16 = 2 then s else
        s.addTerm w (atomicTerm (getBits ea 0 48) (Config.nodeRop (atCode op)) (atType op wide) x (if op = .cas then y else 0))
      let new := atomicNew (8 * n) op m x y
      match s.sparWrite w k ea (leBytes n new) with
      | .ok s =>
        let (v, s) := if wide then (m, s) else s.high32 m
        .ok ((s.setIreg k rd v).leaveL1 k ea true)
      | .error e => sparErr s0 ea e

def execNodeAtomic (t : SThr) (op : AtOp) (wide : Bool) (d a b c : Fin 32) (ev : List HwEv) (s : State) : Res :=
  s.issue t 9 (State.runAtomic (sthKey t) op wide d.val a.val b.val c.val ev)

/-! ## Scalar floating point (R237, R238) -/

/-- The formats of a code in a conversion of the cores. -/
def cvtFmt : Nat → Option Fmt
  | 0 => some .fp64 | 1 => some .fp32 | 2 => some .eq16 | 3 => some .eq8a | 4 => some .eq8b | _ => none

/-- The pairs of R97 that the cores convert between. -/
def cvtOk (a b : Fmt) : Bool :=
  match a, b with
  | .fp64, .fp32 => true | .fp64, .eq16 => true | .fp32, .fp64 => true | .fp32, .eq16 => true | .fp32, .eq8a => true
  | .fp32, .eq8b => true | .eq16, .fp32 => true | .eq16, .fp64 => true | .eq16, .eq8a => true | .eq16, .eq8b => true
  | .eq8a, .eq16 => true | .eq8a, .fp32 => true | .eq8a, .fp64 => true
  | .eq8b, .eq16 => true | .eq8b, .fp32 => true | .eq8b, .fp64 => true
  | _, _ => false

/-- A result with flags and the cause of its NaN event. -/
structure FpRes where
  v : Val
  fl : Nat
  cause : Option Nat
  deriving DecidableEq, Repr

/-- A result with its NaN event (R106): propagated from an operand, or new. -/
def fpRes (ops : List Val) (r : Fp.Res) : FpRes :=
  ⟨r.v, r.fl, if r.v.isNan then some (if ops.any Val.isNan ∧ ¬ r.fl.testBit 0 then 1 else 0) else none⟩

/-- A conversion of the cores: FP32 and FP64 round by RM, EQ16 and EQ8 to nearest (R238). -/
def cvtVal (a b : Fmt) (rm : Rm) (p : Nat) : FpRes :=
  let v := decode a p
  let rm := if b = .fp32 ∨ b = .fp64 then rm else .rne
  let r := roundVal b rm v
  ⟨r.v, r.fl, if v.isNan then some (if a = .eq8a ∨ a = .eq8b then 2 else if r.fl.testBit 0 then 0 else 1) else none⟩

/-- An arithmetic operation (R88, R173); none for one that is not of this shape. -/
def fpArith (f : Fmt) (rm : Rm) (op : FpOp) (a b c : Val) : Option FpRes :=
  match op with
  | .add => some (fpRes [a, b] (add f rm a b))
  | .sub => some (fpRes [a, b] (sub f rm a b))
  | .mul => some (fpRes [a, b] (mul f rm a b))
  | .fma => some (fpRes [a, b, c] (fma f rm a b c))
  | .div => some (fpRes [a, b] (div f rm a b))
  | .sqrt => some (fpRes [a] (sqrt f rm a))
  | .min => some (fpRes [a, b] (if a.isNan || b.isNan then nanRes [a, b] else ⟨Ep.minV a b, 0⟩))
  | .max => some (fpRes [a, b] (if a.isNan || b.isNan then nanRes [a, b] else ⟨Ep.maxV a b, 0⟩))
  | _ => none

/-- A comparison with its flags: equality is quiet, the order predicates signal on any NaN (R88, IEEE 754-2019 5.11; DEDUCED). -/
def fpCmp (op : FpOp) (a b : Val) : Option (Bool × Nat) :=
  let sig := a == .nan true || b == .nan true
  let any := a.isNan || b.isNan
  let c := cmp a b
  match op with
  | .ceq => some (c == some 0, if sig then fINVALID else 0)
  | .clt => some (c == some (-1), if any then fINVALID else 0)
  | .cle => some (c == some (-1) || c == some 0, if any then fINVALID else 0)
  | _ => none

/-- The format of an element width, for arithmetic. -/
def ewFmt : Nat → Option Fmt
  | 2 => some .fp32 | 3 => some .fp64 | _ => none

/-- The physical Spar core of a thread as the ledger names it (R28). -/
def State.sparUnit (s : State) (k : Nat) (_ : Nat) : UnitId := BitVec.ofNat 38 (6 ||| (sparUsable s.mapNow).getD (k / 8) 0 <<< 18)

def State.runFp (k iw : Nat) (op : FpOp) (ew rd ra rb rc : Nat) (ev : List HwEv) (s : State) (d : DRef) : SRes :=
  let (s, ok) := s.hwEvs (s.sparWriter k d).tag ev
  if ¬ ok then .ok s
  else
    let s := s.plainResidue (s.sparWriter k d).tag 7 (s.sparUnit k) ev
    let rm := rmOf (s.sth k).fpc
    let out := fun (f : Fmt) (r : FpRes) =>
      SRes.ok (((s.setFpat k rd f (encode f r.v)).fpcFlags k r.fl).sparNan k iw (r.cause.map (fun c => (0, c))))
    match op with
    | .cvt src dst => match cvtFmt src.val, cvtFmt dst.val with
      | some a, some b => if cvtOk a b then out b (cvtVal a b rm (s.freg k ra)) else .fault s causeILLEGAL 0
      | _, _ => .fault s causeILLEGAL 0
    | .classify => (match ewFmt ew with
      | some _ => let (v, s) := s.openIf 64 none; .ok (s.setIreg k rd v)
      | none => .fault s causeILLEGAL 0)
    | _ => match ewFmt ew with
      | none => .fault s causeILLEGAL 0
      | some f =>
        let a := decode f (s.freg k ra)
        let b := decode f (s.freg k rb)
        match fpArith f rm op a b (decode f (s.freg k rc)), fpCmp op a b with
        | some r, _ => out f r
        | none, some (p, fl) => .ok ((s.setIreg k rd (if p then 1 else 0)).fpcFlags k fl)
        | none, none => .fault s causeILLEGAL 0

/-- R238. A comparison writes 0 or 1 to i[d]; what classify writes there is open (the manual gives no classes). -/
def execScalarFloatingPoint (t : SThr) (op : FpOp) (ew : Fin 4) (d a b c : Fin 32) (ev : List HwEv) (s : State) : Res :=
  s.issue t 12 (State.runFp (sthKey t) t.word.toNat op ew.val d.val a.val b.val c.val ev)

/-! ## Fences and caches (R228) -/

/-- FENCE.L orders the thread's own accesses, which this model performs in order. -/
def execFenceL (t : SThr) (s : State) : Res := s.issue t 14 (fun s _ => .ok s)

def execFenceN (t : SThr) (s : State) : Res := s.issue t 14 (fun s d => .ok (s.fenceNode (sthKey t) d))

/-- CWB and CINV on the line of an address: written back, or dropped. -/
def State.runLine (k ra : Nat) (back : Bool) (s : State) (d : DRef) : SRes :=
  let ea := s.ireg k ra / 128 * 128
  match s.sparAddr true ea 128 with
  | some c => .fault s c (s.ireg k ra)
  | none =>
    let p := fun (l : Nat × CLine) => decide (l.1 = getBits ea 0 48 / 128) && decide (getBits ea 48 16 = 0)
    let s := if back then s.flushLines (s.sparWriter k d).tag p else { s with cline := s.cline.filter (fun l => !p l) }
    .ok (s.leaveL1 k ea true)

def execCwb (t : SThr) (a : Fin 32) (s : State) : Res := s.issue t 14 (State.runLine (sthKey t) a.val true)
def execCinv (t : SThr) (a : Fin 32) (s : State) : Res := s.issue t 14 (State.runLine (sthKey t) a.val false)

/-! ## System instructions (R223, R231, R237, R239, R243) -/

def clampSpan (n : Nat) : Nat := max 1 (min 512 n)

/-- The value of a control register. -/
def SparThr.creg (x : SparThr) : CReg → Nat
  | .vspan => x.vspan | .vri => x.vri | .fpc => x.fpc.toNat | .fvec => x.fvec.toNat | .fret => x.fret.toNat
  | .fcode => x.fcode | .fdata => x.fdata.toNat | .fspan => x.fspan | .fvri => x.fvri
  | .fstat => if x.inh then 1 else 0 | .reserved => 0

/-- A write of a control register: FPC's sticky bits are cleared by a 1, its reserved bits stay 0. -/
def SparThr.setCreg (x : SparThr) (c : CReg) (v : Nat) : SparThr :=
  match c with
  | .vspan => { x with vspan := clampSpan v }
  | .vri => { x with vri := v % 1024 }
  | .fpc => { x with fpc := BitVec.ofNat 64 (getBits v 0 2 ||| (getBits x.fpc.toNat 4 6 &&& (63 ^^^ getBits v 4 6)) <<< 4) }
  | .fvec => { x with fvec := BitVec.ofNat 64 v }
  | .fret => { x with fret := BitVec.ofNat 64 v }
  | .fcode => { x with fcode := v % 2 ^ 32 }
  | .fdata => { x with fdata := BitVec.ofNat 64 v }
  | .fspan => { x with fspan := clampSpan v }
  | .fvri => { x with fvri := v % 1024 }
  | .fstat => { x with inh := v.testBit 0 }
  | .reserved => x

def execControlRegisterAccess (t : SThr) (write : Bool) (c : CReg) (r : Fin 32) (s : State) : Res :=
  s.issue t 15 (fun s _ =>
    if c = .reserved then .fault s causeILLEGAL 0
    else if write then .ok (s.updSth (sthKey t) (fun x => x.setCreg c (s.ireg (sthKey t) r.val)))
    else .ok (s.setIreg (sthKey t) r.val ((s.sth (sthKey t)).creg c)))

/-- TRAP. PRESUMED: a completing fault with the named cause, so that FRESUME goes on after it. -/
def execTrap (t : SThr) (code : BitVec 16) (s : State) : Res := s.issue t 15 (fun s _ => .late s code.toNat 0)

/-- R243. VSPAN stays from 1 to 512 also where no fault has set FSPAN yet (R231). -/
def execFresume (t : SThr) (s : State) : Res :=
  s.issue t 15 (fun s _ =>
    let x := s.sth (sthKey t)
    .jump (s.setSth (sthKey t) { x with vspan := clampSpan x.fspan, vri := x.fvri, inh := false }) x.fret.toNat)

/-- R239, R247. -/
def execHalt (t : SThr) (s : State) : Res :=
  s.issue t 15 (fun s d => .ok ((s.sparHalt (sthKey t)).progCheck d))

/-- YIELD touches only the order in which a core picks among its ready threads. That order depends on the cycles for which threads occupy the
vector datapath (R219, R221), which the model leaves out: any ready thread may issue (log 48). -/
def execYield (t : SThr) (s : State) : Res := s.issue t 15 (fun s _ => .ok s)

def execVspanset (t : SThr) (d a : Fin 32) (s : State) : Res :=
  s.issueV t (fun s _ =>
    let n := clampSpan (s.ireg (sthKey t) a.val)
    .ok ((s.updSth (sthKey t) (fun x => { x with vspan := n })).setIreg (sthKey t) d.val n))

/-- R220: an access that left the L1 returns. -/
def execRemoteAccessReturn (t : SThr) (s : State) : Res :=
  if (s.sth (sthKey t)).wait = .access then .next (s.updSth (sthKey t) (fun x => { x with wait := .none_ })) else .refused .notPending

/-! ## Child descriptors (R248 to R251) -/

/-- Opcode and stream of a child (R248). -/
def childOk (raw : BitVec 512) : Bool :=
  (dStream raw == 3 && ((decide (0x200 ≤ dOp raw) && decide (dOp raw ≤ 0x27F)) || dOp raw == 0x100))
    || (dStream raw == 4 && (dOp raw == 0x300 || dOp raw == 0x301))

/-- A child joins the node's list with its parent's step and ORD. A valid fence, a tile absent from the class, or a reserved opcode of the
factor engines (R260) completes it at once, as R60 has it for a descriptor of a ring. -/
def State.addChild (s : State) (k : Nat) (d : DRef) (raw : BitVec 512) (idx : Nat) : State :=
  let p := s.desc? d
  let n := s.nextChild
  let tag := (p.map (·.step)).getD 0
  let raw := BitVec.ofNat 512 (putBits raw.toNat 64 64 tag.toNat)
  let c : InDesc := ⟨.child n, raw, (p.map (·.ord)).getD 0, tag, false, [], .waiting, 0, 0, 0, false, false, 0, []⟩
  let s : State := { s with descs := s.descs ++ [c], nextChild := n + 1,
                            handles := s.handles ++ [⟨n, idx, k, d, none⟩] }
  if (dFence raw 0).testBit 22 ∨ (dFence raw 1).testBit 22 then s.finish (.child n) 0x0106 0
  else if (tilesOf raw).any (fun t => !s.tileOn t) then s.finish (.child n) 0x0102 0
  else if ¬ opOk (dOp raw) (dStream raw) then s.finish (.child n) stBAD_OPCODE 0
  else s

/-- R248: FENCE.N comes first, and a line that a SPACE 1 address matches is written back (R229). -/
def State.runDpost (k rd ra : Nat) (s : State) (d : DRef) : SRes :=
  let ea := s.ireg k ra
  let s := s.fenceNode k d
  match s.sparAddr false ea 64 with
  | some c => .fault s c ea
  | none =>
    let s := s.uncache (s.sparWriter k d).tag ea
    let raw := BitVec.ofNat 512 (leNat (s.sparRead ea 64))
    if getBits ea 48 16 = 2 then .fault s 0x0704 ea
    else if ¬ childOk raw then .fault s 0x0708 ea
    else
      let mine := s.handles.filter (fun h => h.owner = k)
      if 64 ≤ mine.length ∨ 1024 ≤ s.handles.length then .wait
      else match (List.range 64).find? (fun i => !mine.any (fun h => h.idx = i)) with
        | none => .wait
        | some i => .ok ((s.addChild k d raw i).setIreg k rd i)

def execDpost (t : SThr) (d a : Fin 32) (s : State) : Res := s.issue t 15 (State.runDpost (sthKey t) d.val a.val)

/-- R251. -/
def State.runDwait (k rd ra : Nat) (s : State) (_ : DRef) : SRes :=
  match s.handles.find? (fun h => h.owner = k ∧ h.idx = s.ireg k ra) with
  | none => .ok (s.setIreg k rd 0)
  | some h => match h.result with
    | none => .wait
    | some (st, re) =>
      .ok (({ s with handles := s.handles.filter (fun x => x.num ≠ h.num) } : State).setIreg k rd (st.toNat ||| re.toNat <<< 32))

def execDwait (t : SThr) (d a : Fin 32) (s : State) : Res := s.issue t 15 (State.runDwait (sthKey t) d.val a.val)

end Sys2Proof.Machine
end

