-- ==== Sys2Proof/Machine/Remote.lean ====
section
/-! DEFINITION. The memory-semantic fabric (chapter 11): issue of remote operations, the target's checks, the atomic unit and
the combiner, responses, DEFER and dead targets. -/

namespace Sys2Proof.Machine
open Sys2Proof.Fp

/-! ## Addresses and operations (R352, R353, R357) -/

def raOffset (a : Nat) : Nat := getBits a 0 40
def raWindow (a : Nat) : Nat := getBits a 40 8

/-- The node that a remote address names (R353); none where a reserved bit is set or the fleet map has no entry. -/
def State.raNode (s : State) (a : Nat) : Option (BitVec 12) :=
  if getBits a 61 3 ≠ 0 then none
  else if a.testBit 60 then
    if getBits a 54 6 ≠ 0 then none
    else
      let m := s.fld (fFleetMap (getBits a 48 6))
      if m.testBit 12 then some (BitVec.ofNat 12 m) else none
  else some (BitVec.ofNat 12 (getBits a 48 12))

/-- Bytes that an operation reads or writes at the target, flag words apart. -/
def opLen (rop size : Nat) : Nat := if rop < 3 then 8 * 2 ^ size else if size = 0 ∨ size = 1 ∨ size = 4 then 4 else 8

/-- Operations that return a value (R357). -/
def returns (rop : Nat) : Bool := rop == 0 || (decide (6 ≤ rop) && decide (rop ≤ 9))

/-- A ROP with a SIZE that it allows. -/
def ropOk (rop size : Nat) : Bool :=
  if rop ≤ 8 then decide (size ≤ 5) else if rop = 9 then size == 0 || size == 2 else rop == 10 && size == 0

/-- The format of an FP operand type. -/
def ropFmt (size : Nat) : Option Fmt := if size = 4 then some .fp32 else if size = 5 then some .fp64 else none

/-- The effect of an atomic on a word `m` with operands `v` and `x` (R357, R358): the new word, and the cause of a NaN event. -/
def remoteNew (rop size m v x : Nat) : Nat × Option Nat :=
  let k := if rop = 9 then 9 else (rop - 3) % 3
  match ropFmt size with
  | some f =>
    let op : FpOp := if k = 0 then .add else if k = 1 then .min else .max
    match fpArith f .rne op (decode f m) (decode f v) .zero with
    | some r => (encode f r.v, r.cause)
    | none => (m, none)
  | none =>
    let signed := size % 2 = 1
    let op : AtOp := if k = 9 then .cas else if k = 0 then .add
      else if k = 1 then (if signed then .min else .minu) else (if signed then .max else .maxu)
    (atomicNew (8 * opLen rop size) op m v x, none)

/-! ## Issue (R357 to R361, R363, R369, R379, R381) -/

/-- A remote operation as a thread issues it: its word's fields and operands, the bytes a store takes, where the result goes,
and the first cause that its form alone gives. -/
structure RCall where
  by_ : Issuer
  desc : DRef
  rop : Nat
  size : Nat
  fadd : Bool
  rem : Nat
  b0 : Nat
  b1 : Nat
  data : List Byte
  vec : Bool
  loc : Option (BitVec 64)
  reg : Nat
  bad : Bool
  instr : Nat
  pc : Nat
  deriving DecidableEq, Repr

/-- What an issue answers: a restarting fault, not yet, a completing fault with FDATA, or issued. -/
inductive RRes where
  | fault (cause : Nat)
  | wait
  | late (s : State) (cause data : Nat)
  | done (s : State) (waits : Bool)
  deriving DecidableEq, Repr

/-- The fault at issue, if any (R353, R357). A flag word on another node is BAD_ROP (DEDUCED from R362). -/
def State.callFault (s : State) (c : RCall) : Option Nat :=
  if c.bad ∨ ¬ ropOk c.rop c.size then some 0x0B06
  else if c.rop = 10 then none
  else if raOffset c.rem % opLen c.rop c.size ≠ 0 then some 0x0B06
  else if c.rop = 2 ∧ (raOffset c.b0 % 8 ≠ 0 ∨ ((s.raNode c.b0).isSome ∧ (s.raNode c.rem).isSome ∧ s.raNode c.b0 ≠ s.raNode c.rem)) then
    some 0x0B06
  else if (s.raNode c.rem).isNone ∨ (c.rop = 2 ∧ (s.raNode c.b0).isNone) then some 0x0B07
  else none

/-- Operations of one issuer in flight. -/
def State.opsOf (s : State) (b : Issuer) : List ROp := s.remote.ops.filter (fun o => o.by_ = b)

/-- Whether the thread must wait for an entry (R363, R369, R381). -/
def State.callFull (s : State) (c : RCall) (dst : BitVec 12) : Bool :=
  let mine := s.opsOf c.by_
  let pool := s.remote.ops.filter (fun o => match o.by_, c.by_ with
    | .tile t _, .tile u _ => t == u
    | .spar _ _, .spar _ _ => true
    | _, _ => false)
  let lim := match c.by_ with
    | .tile _ _ => 384
    | .spar _ _ => 4096
  let targets := ((mine.filter (fun o => !returns o.req.rop)).map (fun o => o.req.dst)).eraseDups
  decide (64 ≤ mine.length) || decide (lim ≤ pool.length) || decide (16384 ≤ s.remote.ops.length)
    || decide (4096 ≤ (s.remote.ops.filter (fun o => o.req.dst = dst)).length)
    || (!returns c.rop && !targets.contains dst && decide (16 ≤ targets.length))

/-- The unit whose work a thread's operations are (R456). -/
def issuerUnit : Issuer → Nat
  | .spar core _ => 0x40 + core
  | .tile t _ => t

/-- The writer of an issuing thread. -/
def State.callWriter (s : State) (b : Issuer) (d : DRef) (kind : Nat) : Writer := s.writer d (issuerUnit b) kind

/-- The term of an atomic, hashed when it issues (R454). -/
def State.callTerm (s : State) (c : RCall) : State :=
  if 3 ≤ c.rop ∧ c.rop ≤ 9 then
    let w := 2 ^ (8 * opLen c.rop c.size)
    s.addTerm (s.callWriter c.by_ c.desc 1) (atomicTerm c.rem c.rop c.size (c.b0 % w) (if c.rop = 9 then c.b1 % w else 0))
  else s

/-- Whether the issuing thread still runs the descriptor of an operation. -/
def State.stillRuns (s : State) (b : Issuer) (d : DRef) : Bool :=
  match b with
  | .spar c t => let x := s.sth (sparKey c t); x.run == some d && !x.halted
  | .tile t th => (s.thr t th).run == some d

/-- Bytes into the destination of an operation: a register, the low bytes of a vector register, or a local address. The error
is a cause. -/
def State.deliver (s : State) (b : Issuer) (d : DRef) (vec : Bool) (loc : Option (BitVec 64)) (reg : Nat) (bs : List Byte) :
    Except (State × Nat) State :=
  match b, loc with
  | .tile t _, some l =>
    match locOf l.toNat with
    | none => .ok s
    | some (node, a) =>
      match s.locFault t true node a bs.length 0x0408 with
      | some c => .error (s, c)
      | none => s.locWrite t node (s.callWriter b d 0) a bs 0x0408
  | .tile t th, none =>
    if s.stillRuns b d then
      let (v, s) := if bs.length = 4 then s.high32 (leNat bs) else (leNat bs, s)
      .ok (s.setGreg t th reg (BitVec.ofNat 64 v))
    else .ok s
  | .spar c t, _ =>
    let k := sparKey c t
    if ¬ s.stillRuns b d then .ok s
    else if vec then .ok (s.setZreg k reg (putBits (s.zreg k reg) 0 (8 * bs.length) (leNat bs)))
    else
      let (v, s) := if bs.length = 4 then s.high32 (leNat bs) else (leNat bs, s)
      .ok (s.setIreg k reg v)

/-- The destination of a dead load: every byte 0xFF (R378). -/
def deadBytes (rop size : Nat) : List Byte := List.replicate (if rop = 0 then opLen rop size else 8) 0xFF

/-- An operation to a node marked dead completes at once (R379). -/
def State.callDead (s : State) (c : RCall) : RRes :=
  if returns c.rop then
    match s.deliver c.by_ c.desc c.vec c.loc c.reg (deadBytes c.rop c.size) with
    | .ok s => .late s 0x0B01 0
    | .error (s, x) => .late s x 0
  else .done { s with remote := { s.remote with dead := s.remote.dead ++ [⟨c.by_, c.desc, 0x0B01, BitVec.ofNat 64 c.rem⟩] } } false

/-- The request of a call (R362). -/
def State.request (s : State) (c : RCall) (dst : BitVec 12) (seq : Nat) : Request where
  rop := c.rop
  size := c.size
  replay := false
  fadd := c.rop = 2 && c.fadd
  src := BitVec.ofNat 12 (s.fld fNODEID)
  dst := dst
  job := BitVec.ofNat 16 (s.fld fJOBSTAMP)
  window := BitVec.ofNat 8 (raWindow c.rem)
  offset := BitVec.ofNat 40 (raOffset c.rem)
  fwindow := if c.rop = 2 then BitVec.ofNat 8 (raWindow c.b0) else 0
  foffset := if c.rop = 2 then BitVec.ofNat 40 (raOffset c.b0) else 0
  fvalue := if c.rop = 2 then BitVec.ofNat 64 c.b1 else 0
  seq := seq
  epoch := BitVec.ofNat 16 (s.fld fEPOCH)
  tag := (s.callWriter c.by_ c.desc 0).tag
  data := if c.rop = 1 ∨ c.rop = 2 then c.data else []
  op1 := if 3 ≤ c.rop then BitVec.ofNat 64 (c.b0 % 2 ^ (8 * opLen c.rop c.size)) else 0
  op2 := if c.rop = 9 then BitVec.ofNat 64 (c.b1 % 2 ^ (8 * opLen c.rop c.size)) else 0

/-- Bytes of a request packet: the header, 16 more for RFST, the data or operands. -/
def reqLen (r : Request) : Nat :=
  32 + (if r.rop = 2 then 16 + r.data.length else if r.rop = 1 then r.data.length
    else if 3 ≤ r.rop ∧ r.rop ≤ 8 then opLen r.rop r.size else if r.rop = 9 then 2 * opLen r.rop r.size else 0)

def State.sendReq (s : State) (r : Request) : State := s.send ⟨0, r.dst, 0xFFFF, reqLen r, .req r⟩

/-- The request is sent with the target's next SEQ (R363). The thread waits for a value that goes into a register (R361). -/
def State.launch (s : State) (c : RCall) (dst : BitVec 12) : State :=
  let seq := (SM.getD 0 s.remote.seq dst.toNat + 1) % 2 ^ 32
  let r := s.request c dst seq
  let o : ROp := ⟨r, c.by_, c.desc, c.vec, c.loc, c.reg, BitVec.ofNat 64 c.rem, s.pathHeld dst,
    returns c.rop && c.loc.isNone, false, c.instr, c.pc⟩
  State.sendReq { s with remote := { s.remote with seq := SM.setD 0 s.remote.seq dst.toNat seq, ops := s.remote.ops ++ [o] } } r

/-- RFENCE (R368, R378): quiet, then the fault of the thread's oldest dead or failed write. -/
def State.callFence (s : State) (c : RCall) : RRes :=
  if s.opsOf c.by_ ≠ [] then .wait
  else match s.remote.dead.find? (fun o => o.by_ = c.by_ ∧ o.desc = c.desc) with
    | some o =>
      .late { s with remote := { s.remote with dead := s.remote.dead.filter (fun (y : DeadOp) => ¬ (y.by_ = c.by_ ∧ y.desc = c.desc)) } }
        o.cause o.rem.toNat
    | none => .done s false

/-- A remote operation issues. -/
def State.call (s : State) (c : RCall) : RRes :=
  match s.callFault c with
  | some x => .fault x
  | none =>
    if c.rop = 10 then s.callFence c
    else
      let dst := (s.raNode c.rem).getD 0
      if s.flag (fDead dst.toNat) then (s.callTerm c).callDead c
      else if s.callFull c dst then .wait
      else .done ((s.callTerm c).launch c dst) (returns c.rop && c.loc.isNone)

/-! ## Instruction forms (R359, R360) -/

/-- Whether a word's ROP is of a row: RLD's row also takes the reserved codes, which fault. -/
def rowOf (n rop : Nat) : Bool := rop == n || (n == 0 && decide (11 ≤ rop))

/-- The call that a Spar-core word makes. -/
def State.sparCall (s : State) (core thr : Nat) (w : Nat) (d : DRef) : RCall :=
  let k := sparKey core thr
  let rop := getBits w 17 4
  let size := getBits w 21 3
  let b := getBits w 12 5
  let v := w.testBit 24
  let isData := rop < 3
  { by_ := .spar core thr, desc := d, rop := rop, size := size, fadd := w.testBit 25, rem := s.ireg k (getBits w 7 5),
    b0 := s.ireg k b, b1 := s.ireg k (b + 1),
    data := if v then leBytes (8 * 2 ^ size) (s.zreg k (getBits w 2 5)) else leBytes 8 (s.ireg k (getBits w 2 5)),
    vec := isData && v, loc := none, reg := getBits w 2 5,
    bad := (isData && !v && decide (0 < size)) || ((rop == 2 || rop == 9) && decide (b % 2 = 1)), instr := w, pc := (s.sth k).pc.toNat }

/-- A Spar core reports a dead target with its own code (R386). -/
def sparCause (c : Nat) : Nat := if c = 0x0B01 then 0x0706 else c

/-- A Spar-core remote instruction (R359). -/
def State.runSparRemote (core thr n : Nat) (w : Nat) (s : State) (d : DRef) : SRes :=
  let k := sparKey core thr
  if w.testBit 26 ∨ getBits w 0 2 ≠ 0 then .fault s causeILLEGAL 0
  else
    let c := s.sparCall core thr w d
    if ¬ rowOf n c.rop then .wait
    else match s.call c with
      | .fault x => .fault s x c.rem
      | .wait => .wait
      | .late s x a => .late s (sparCause x) a
      | .done s false => .ok s
      | .done s true => .jump (s.updSth k (fun x => { x with wait := .remote })) (s.sth k).pc.toNat

/-- The call that an RMEM word makes, with the fault of its local address. -/
def State.tileCall (s : State) (i : VxtIssue) (d : DRef) : RCall × Option Nat :=
  let t := i.tile.val
  let th := i.thread.val
  let w := i.word.toNat
  let rop := getBits w 8 4
  let size := getBits w 12 3
  let isData := rop < 3
  let loc := isData && w.testBit 15
  let b := getBits w 37 5
  let gd := getBits w 42 5
  let l := s.greg t th gd
  let n := 8 * 2 ^ size
  let lf : Option Nat := if loc ∧ size ≤ 5 then (match locOf l with
      | none => some 0x0407
      | some (node, a) => if a % n ≠ 0 then some 0x0B06 else s.locFault t (rop == 0) node a n 0x0408) else none
  let data := if loc then (match locOf l with
      | some (node, a) => s.locBytes t node a n
      | none => []) else leBytes 8 l
  ({ by_ := .tile t th, desc := d, rop := rop, size := size, fadd := w.testBit 16, rem := s.greg t th (getBits w 32 5),
     b0 := s.greg t th b, b1 := s.greg t th (b + 1), data := data, vec := false,
     loc := if loc ∧ rop = 0 then some (BitVec.ofNat 64 l) else none, reg := gd,
     bad := getBits w 17 15 ≠ 0 || getBits w 47 17 ≠ 0 || (isData && !loc && decide (0 < size))
       || ((rop == 2 || rop == 9) && decide (b % 2 = 1)), instr := w % 2 ^ 32, pc := i.pc.toNat }, lf)

/-- A tile-core remote instruction (R360). -/
def State.runTileRemote (i : VxtIssue) (s : State) (d : DRef) : VRes :=
  let (c, lf) := s.tileCall i d
  match lf, s.callFault c with
  | some x, some y => .fault s (min x y)
  | some x, none => .fault s x
  | none, _ => match s.call c with
    | .fault x => .fault s x
    | .wait => .wait
    | .late s x _ => .fault s x
    | .done s _ => .ok s

/-- A remote instruction of row `n`. -/
def State.remoteInstr (s : State) (i : RIssue) (n : Nat) : Res :=
  match i with
  | .spar core thr word =>
    if getBits word.toNat 27 5 ≠ 0x0A ∨ ¬ rowOf n (getBits word.toNat 17 4) then .refused .notPending
    else s.sparRun1 (sparKey core.val thr.val) word.toNat false [10] (State.runSparRemote core.val thr.val n word.toNat)
  | .tile i =>
    if ¬ rowOf n (getBits i.word.toNat 8 4) then .refused .notPending
    else s.vxt i (fun op => op = 0x60) (State.runTileRemote i)

/-- R357, ROP 0, and the reserved ROP codes. -/
def execRld (i : RIssue) (s : State) : Res := s.remoteInstr i 0
/-- R357, ROP 1. -/
def execRst (i : RIssue) (s : State) : Res := s.remoteInstr i 1
/-- R357, R365, ROP 2. -/
def execRfst (i : RIssue) (s : State) : Res := s.remoteInstr i 2
/-- R357, R358, ROP 3. -/
def execRadd (i : RIssue) (s : State) : Res := s.remoteInstr i 3
/-- R357, ROP 4. -/
def execRmin (i : RIssue) (s : State) : Res := s.remoteInstr i 4
/-- R357, ROP 5. -/
def execRmax (i : RIssue) (s : State) : Res := s.remoteInstr i 5
/-- R357, ROP 6. -/
def execRfadd (i : RIssue) (s : State) : Res := s.remoteInstr i 6
/-- R357, ROP 7. -/
def execRfmin (i : RIssue) (s : State) : Res := s.remoteInstr i 7
/-- R357, ROP 8. -/
def execRfmax (i : RIssue) (s : State) : Res := s.remoteInstr i 8
/-- R357, ROP 9. -/
def execRcas (i : RIssue) (s : State) : Res := s.remoteInstr i 9
/-- R368, ROP 10. -/
def execRfence (i : RIssue) (s : State) : Res := s.remoteInstr i 10

/-! ## The target: checks and admission (R356, R363, R372, R373, R375, R384, R537) -/

/-- The sectors of a range. -/
def sectorsOf (a n : Nat) : List Nat := if n = 0 then [] else (List.range ((a + n - 1) / 32 - a / 32 + 1)).map (· + a / 32)

/-- SEQ `a` comes before `b`, modulo 2^32. -/
def seqLt (a b : Nat) : Bool := let d := (b + 2 ^ 32 - a) % 2 ^ 32; decide (0 < d) && decide (d < 2 ^ 31)

def State.srcRec (s : State) (n : Nat) : SrcRec := SM.getD {} s.remote.src n
def State.setSrcRec (s : State) (n : Nat) (x : SrcRec) : State :=
  { s with remote := { s.remote with src := SM.setD {} s.remote.src n x } }

/-- A SEQ that the target has applied (R363). -/
def SrcRec.has (x : SrcRec) (q : Nat) : Bool := q == x.c || seqLt q x.c || x.above.contains q

/-- A SEQ joins the applied ones; C moves over those in a row (R363). -/
def SrcRec.put (x : SrcRec) (q : Nat) : SrcRec :=
  let rec go : Nat → Nat → List Nat → Nat × List Nat
    | 0, c, l => (c, l)
    | n + 1, c, l => if l.contains ((c + 1) % 2 ^ 32) then go n ((c + 1) % 2 ^ 32) (l.erase ((c + 1) % 2 ^ 32)) else (c, l)
  let l := if x.above.contains q then x.above else x.above ++ [q]
  let r := go l.length x.c l
  { x with c := r.1, above := r.2 }

/-- The words of a window (R355). -/
def State.winWords (s : State) (n : Nat) : Nat × Nat := ((s.word (0x22000 + 16 * n)).toNat, (s.word (0x22008 + 16 * n)).toNat)

/-- Where a window puts an access, or the status that turns it away (R356 items 3 to 6); `need` is the permission's bit. -/
def State.translate (s : State) (win off n need : Nat) (wr : Bool) : Except Nat Nat :=
  let w := s.winWords win
  let a := getBits w.1 12 27 * 4096 + off
  if ¬ w.1.testBit 0 then .error 1
  else if getBits w.2 0 28 * 4096 < off + n then .error 2
  else if ¬ w.1.testBit need then .error 3
  else match (if wr then s.wrCheck a n else s.rdCheck a n) with
    | some .lost => if s.touchesLow a n then .error 5 else .error 6
    | some .range => .error 4
    | some .area => .error 4
    | _ => if s.touchesLow a n then .error 5 else .ok a

/-- The addresses of a request's data and flag word, or its status: the first check that fails for either (R356). An RFST's flag
word needs WR, or ATOM when FADD is set (DEDUCED). -/
def State.translated (s : State) (r : Request) : Except Nat (Nat × Nat) :=
  let n := opLen r.rop r.size
  let need := if r.rop = 0 then 1 else if r.rop < 3 then 2 else 3
  let d := s.translate r.window.toNat r.offset.toNat n need (r.rop = 1 ∨ r.rop = 2)
  let f := if r.rop = 2 then s.translate r.fwindow.toNat r.foffset.toNat 8 (if r.fadd then 3 else 2) (!r.fadd) else .ok 0
  match d, f with
  | .error x, .error y => .error (min x y)
  | .error x, .ok _ => .error x
  | .ok _, .error y => .error y
  | .ok a, .ok b => .ok (a, b)

/-- A response to a request (R362): the request's header again, with SRC and DST exchanged. -/
def State.respond (s : State) (r : Request) (status hint : Nat) (data : List Byte) : State :=
  s.send ⟨1, r.src, 0xFFFF, 32 + data.length, .resp ⟨false, r.rop, r.size, false, r.fadd, r.window, r.offset, r.tag,
    BitVec.ofNat 12 (s.fld fNODEID), r.src, BitVec.ofNat 16 (s.fld fJOBSTAMP), r.seq, 0, BitVec.ofNat 16 (s.fld fEPOCH), BitVec.ofNat 8 status,
    BitVec.ofNat 16 hint, data, []⟩⟩

/-- An operation is over at the target: a value or an error status is sent, the SEQ counts as applied (R364), and it is no
longer deferred. -/
def State.answer (s : State) (r : Request) (status : Nat) (data : List Byte) (nan : Option Nat) : State :=
  let s := if returns r.rop ∨ status ≠ 0 then s.respond r status 0 data else s
  let x := (s.srcRec r.src.toNat).put r.seq
  let x := match nan with
    | some c => if returns r.rop then x else { x with nans := x.nans ++ [(r.seq, c)] }
    | none => x
  let s := s.setSrcRec r.src.toNat x
  { s with remote := { s.remote with defers := s.remote.defers.filter (fun (y : Nat × Nat × Nat) => ¬ (y.1 = r.src.toNat ∧ y.2.2 = r.seq)) } }

/-- Sectors that a waiting operation has still to touch. -/
def TOp.sectors (t : TOp) : List Nat := t.left ++ (if t.req.rop = 2 then [t.faddr / 32] else [])

/-- The data sectors of a request at an address. -/
def dataSectors (r : Request) (a : Nat) : List Nat := sectorsOf a (opLen r.rop r.size)

def CombEnt.reqs (e : CombEnt) : List Request := e.req :: e.merged
def TOp.reqs (t : TOp) : List Request := t.req :: t.merged

/-- The operations that the target holds or has deferred, with the sectors of each. -/
def State.knownOps (s : State) : List (Nat × Nat × List Nat) :=
  s.remote.wait.flatMap (fun t => t.reqs.map (fun r => (r.src.toNat, r.seq, t.sectors)))
    ++ s.remote.comb.flatMap (fun e => e.reqs.map (fun r => (r.src.toNat, r.seq, [e.addr / 32])))
    ++ s.remote.defers.map (fun d => (d.1, d.2.2, [d.2.1]))

/-- Whether every earlier operation of the source is applied, or known and without a byte in the given sectors (R365 item 1; an
operation that has not arrived could lie in any sector, DEDUCED). `own` holds the SEQs of the operation itself. -/
def State.inOrder (s : State) (src q : Nat) (secs own : List Nat) : Bool :=
  let x := s.srcRec src
  let h := s.knownOps.filter (fun y => y.1 = src)
  let n := (q + 2 ^ 32 - x.c) % 2 ^ 32 - 1
  (List.range n).all (fun i =>
    let p := (x.c + 1 + i) % 2 ^ 32
    x.above.contains p || own.contains p
      || (h.any (fun y => y.2.1 = p) && !h.any (fun y => decide (y.2.1 = p) && y.2.2.any secs.contains)))

/-- A request already applied, waiting, or in the combiner: a duplicate (R363). -/
def State.duplicate (s : State) (r : Request) : Bool :=
  (s.srcRec r.src.toNat).has r.seq
    || s.remote.wait.any (fun t => t.reqs.any (fun y => y.src = r.src ∧ y.seq = r.seq))
    || s.remote.comb.any (fun e => e.reqs.any (fun y => y.src = r.src ∧ y.seq = r.seq))

/-- DEFER (R372): counted at the stack, with HINT in units of 100 ns, and remembered for each sector of the operation. -/
def State.deferReq (s : State) (r : Request) (stack hint : Nat) (secs : List Nat) : State :=
  let s := (s.respond r 7 hint []).incFld (fRmcnt stack)
  let known := s.remote.defers.any (fun d => d.1 = r.src.toNat ∧ d.2.2 = r.seq)
  if known then s
  else { s with remote := { s.remote with defers := s.remote.defers ++ secs.map (fun x => (r.src.toNat, x, r.seq)) } }

/-- The HINT of a count of operations ahead (R372). -/
def hintOf (n : Nat) : Nat := min 65535 ((n * 25 + 999) / 1000)

/-- Operations waiting for a sector, the combiner's among them; a merged operation is one (R372, R375). -/
def State.sectorLoad (s : State) (sector : Nat) : Nat :=
  (s.remote.wait.filter (fun t => t.sectors.contains sector)).length + (s.remote.comb.filter (fun e => e.addr / 32 = sector)).length

/-- Operations waiting at a stack. -/
def State.stackLoad (s : State) (stack : Nat) : Nat :=
  (s.remote.wait.filter (fun t => t.stack = stack)).length + (s.remote.comb.filter (fun e => s.stackOf e.addr = stack)).length

/-- Whether the combiner of a fabric die takes a request (R375, R376). -/
def State.combines (s : State) (r : Request) (a : Nat) : Bool :=
  s.flag fCOMB && (decide (3 ≤ r.rop) && decide (r.rop ≤ 5)) && !(s.exact && (ropFmt r.size).isSome)
    && s.inOrder r.src.toNat r.seq [a / 32]
      ((s.remote.comb.filter (fun e => e.addr = a ∧ e.req.rop = r.rop ∧ e.req.size = r.size)).flatMap (fun e => (e.reqs.filter (fun y => y.src = r.src)).map (·.seq)))

/-- A request that passes the checks: merged, put into the combiner, or left waiting at its stack. -/
def State.admitReq (s : State) (fd : Nat) (r : Request) (a f : Nat) : State :=
  let defd := s.remote.defers.any (fun d => d.1 = r.src.toNat ∧ d.2.2 = r.seq)
  let t : TOp := ⟨s.stackOf a, a, f, r, [], defd, dataSectors r a, []⟩
  let plain : State := { s with remote := { s.remote with wait := s.remote.wait ++ [t] } }
  if ¬ s.combines r a then plain
  else
    let same := fun (e : CombEnt) => e.fd == fd && e.addr == a && e.req.rop == r.rop && e.req.size == r.size
    if s.remote.comb.any same then
      { s with remote := { s.remote with comb := s.remote.comb.map (fun (e : CombEnt) => if same e then { e with merged := e.merged ++ [r] } else e) } }
    else if (s.remote.comb.filter (fun e => e.fd = fd)).length < 256 then
      { s with remote := { s.remote with comb := s.remote.comb ++ [⟨fd, a, r, []⟩] } }
    else plain

/-- A request that the fabric die has let in (R356, R363, R372, R384); `fd` is the fabric die it came through. -/
def State.takeRequest (s : State) (fd : Nat) (r : Request) : State :=
  if r.epoch.toNat ≠ s.fld fEPOCH % 65536 then s.incFld (fRmcnt 32)
  else if s.duplicate r ∨ ¬ ropOk r.rop r.size ∨ r.rop = 10 then s
  else match s.translated r with
    | .error st => s.answer r st [] none
    | .ok (a, f) =>
      let stack := s.stackOf a
      let secs := dataSectors r a ++ (if r.rop = 2 then [f / 32] else [])
      let atSector := (secs.map s.sectorLoad).foldl max 0
      let atStack := s.stackLoad stack
      if s.inBlk stack ∧ ¬ s.largeClass then s.answer r 9 [] none
      else if s.inBlk stack then s.deferReq r stack 20 secs
      else if 2048 ≤ atSector then s.deferReq r stack (hintOf atSector) secs
      else if 8192 ≤ atStack then s.deferReq r stack (hintOf atStack) secs
      else if s.remote.defers.any (fun d => d.1 = r.src.toNat ∧ seqLt d.2.2 r.seq ∧ secs.contains d.2.1) then
        s.deferReq r stack (hintOf atSector) secs
      else s.admitReq fd r a f

/-- R356: a request arrives through a port. -/
def execRemoteRequestReceive (port : Fin 16) (r : Request) (s : State) : Res :=
  let s := s.arrived (.req r)
  match s.ingress port.val r.src r.dst r.job with
  | some s => .next s
  | none => .next (s.takeRequest (port.val / 8) r)

/-- R375: 40 ns after the first of them, merged operations pass to the atomic unit. -/
def execCombinerWindowClose (fd : Fin 2) (addr : Nat) (s : State) : Res :=
  match s.remote.comb.find? (fun e => e.fd = fd.val ∧ e.addr = addr) with
  | none => .refused .notPending
  | some e =>
    let defd := e.reqs.any (fun r => s.remote.defers.any (fun d => d.1 = r.src.toNat ∧ d.2.2 = r.seq))
    let t : TOp := ⟨s.stackOf addr, addr, 0, e.req, e.merged, defd, dataSectors e.req addr, []⟩
    .next { s with remote := { s.remote with comb := s.remote.comb.erase e, wait := s.remote.wait ++ [t] } }

/-! ## The atomic unit (R358, R365, R366, R371, R373, R376) -/

/-- The new word of a waiting operation, merged operands combined first (R375, R376), and the cause of a NaN event. -/
def TOp.newWord (t : TOp) (m : Nat) : Nat × Option Nat :=
  let r := t.req
  let vs := t.reqs.map (fun y => y.op1.toNat)
  let k := (r.rop - 3) % 3
  if t.merged = [] then remoteNew r.rop r.size m r.op1.toNat r.op2.toNat
  else match ropFmt r.size, k with
    | some f, 0 =>
      let v := sumOnce f (vs.map (decode f))
      let x := remoteNew r.rop r.size m (encode f v.v) 0
      (x.1, if x.2.isSome ∧ v.fl.testBit 0 then some 0 else x.2)
    | _, _ =>
      let v := t.merged.foldl (fun (a : Nat × Option Nat) y => let z := remoteNew r.rop r.size a.1 y.op1.toNat 0; (z.1, a.2 <|> z.2))
        ((r.op1.toNat, none) : Nat × Option Nat)
      let x := remoteNew r.rop r.size m v.1 0
      (x.1, v.2 <|> x.2)

/-- What an application to one sector answers: not yet, the operation has more to do, or all is over with a status, the data returned,
and the cause of a NaN event. -/
inductive TRes where
  | wait
  | half (s : State) (t : TOp)
  | over_ (s : State) (status : Nat) (data : List Byte) (nan : Option Nat)
  deriving DecidableEq, Repr

/-- The status of an access that fails when it is performed (R356, R470). -/
def errStatus : MErr → Nat
  | .lost => 6 | .snapFull => 8 | .blkRst => 9 | _ => 4

/-- A write of a remote operation, as one of the step in STEPTAG (R383). -/
def State.remotePut (s : State) (r : Request) (a : Nat) (bs : List Byte) (k : State → TRes) : TRes :=
  match (s.joinStep r.tag).write ⟨r.tag, 0, 0, s.stackOf a, if 3 ≤ r.rop then 1 else 0⟩ a bs with
  | .ok s => k s
  | .error .wait => .wait
  | .error e => .over_ (s.noteErr e) (errStatus e) [] none

/-- The bytes of `[a, a + n)` that lie in a sector: their first address and their number. -/
def inSector (a n sector : Nat) : Nat × Nat :=
  let lo := max a (32 * sector)
  (lo, min (a + n) (32 * sector + 32) - lo)

/-- An operation acts on one sector of memory (R357, R365, R367): its data there, or an RFST's flag word once its data is applied. -/
def State.perform (s : State) (t : TOp) (sector : Nat) : TRes :=
  let r := t.req
  let n := opLen r.rop r.size
  let p := inSector t.addr n sector
  let rest : TOp := { t with left := t.left.erase sector }
  if r.rop = 0 then
    match s.rdCheck p.1 p.2 with
    | some .wait => .wait
    | some e => .over_ s (errStatus e) [] none
    | none =>
      let got := t.read ++ [(sector, s.rdBytes p.1 p.2)]
      if rest.left = [] then .over_ s 0 ((dataSectors r t.addr).flatMap (fun k => (got.filter (fun g => g.1 = k)).flatMap (·.2))) none
      else .half s { rest with read := got }
  else if r.rop < 3 then
    if t.left = [] then
      let v := if r.fadd then (leNat (s.rdBytes t.faddr 8) + r.fvalue.toNat) % 2 ^ 64 else r.fvalue.toNat
      s.remotePut r t.faddr (leBytes 8 v) (fun s => .over_ s 0 [] none)
    else
      let bs := (((r.data ++ List.replicate n 0).take n).drop (p.1 - t.addr)).take p.2
      s.remotePut r p.1 bs (fun s => if rest.left = [] ∧ r.rop = 1 then .over_ s 0 [] none else .half s rest)
  else match s.rdCheck t.addr n with
    | some .wait => .wait
    | some e => .over_ s (errStatus e) [] none
    | none =>
      let old := s.rdBytes t.addr n
      let x := t.newWord (leNat old)
      s.remotePut r t.addr (leBytes n x.1) (fun s => .over_ s 0 (if returns r.rop then old else []) x.2)

/-- Whether an operation may be applied to a sector of a stack now: its data in source order there, its flag word once its data is applied
and every earlier SEQ is (R365). -/
def State.eligible (s : State) (t : TOp) (stack sector : Nat) : Bool :=
  t.reqs.all (fun r =>
    let own := (t.reqs.filter (fun y => y.src = r.src)).map (·.seq)
    if r.rop = 2 ∧ t.left = [] then
      t.faddr / 32 == sector && s.stackOf t.faddr == stack && ((s.srcRec r.src.toNat).c + 1) % 2 ^ 32 == r.seq
    else t.left.contains sector && t.stack == stack && s.inOrder r.src.toNat r.seq [sector] own)

/-- The operation that the unit takes for a sector: deferred ones first, by first deferral (R373), else the next source in turn
(R371). -/
def State.pick (s : State) (stack sector : Nat) : Option TOp :=
  let l := s.remote.wait.filter (fun t => s.eligible t stack sector)
  let rank := fun (t : TOp) => firstIdx (fun d => t.reqs.any (fun r => decide (d.1 = r.src.toNat) && decide (d.2.2 = r.seq))) s.remote.defers
  let old := l.filter (fun t => t.deferred)
  match old.find? (fun t => old.all (fun u => decide ((rank t).getD 0 ≤ (rank u).getD 0))) with
  | some t => some t
  | none =>
    let last := SM.getD 4096 s.remote.rr sector
    let key := fun (t : TOp) => (t.req.src.toNat + 8192 - (last + 1)) % 4096
    l.find? (fun t => l.all (fun u => decide (key t ≤ key u)))

/-- A sector enters the stack's 64 buffers; the oldest leaves when they are full (R371). -/
def State.bufferSector (s : State) (stack sector : Nat) : State :=
  let b := s.remote.bufs
  if b.contains (stack, sector) then s
  else
    let mine := b.filter (fun x => x.1 = stack)
    let b := if 64 ≤ mine.length then (match mine with
      | x :: _ => b.erase x
      | [] => b) else b
    { s with remote := { s.remote with bufs := b ++ [(stack, sector)] } }

/-- R371: the atomic unit applies one waiting operation to a sector; an operation over several sectors is applied to each in its turn. -/
def execAtomicUnitApply (stack : Fin 32) (sector : Nat) (ev : List HwEv) (s : State) : Res :=
  match s.pick stack.val sector with
  | none => if s.remote.wait.any (fun t => t.sectors.contains sector) then .next s else .refused .notPending
  | some t =>
    if s.blkClosed stack.val then .next s
    else
    let (s, ok) := s.hwEvs 0 ev
    if ¬ ok then .next { s with remote := { s.remote with wait := s.remote.wait.erase t } }
    else
    let turn := fun (s : State) => ({ s with remote := { s.remote with rr := SM.setD 4096 s.remote.rr sector t.req.src.toNat } } : State).bufferSector stack.val sector
    match s.perform t sector with
    | .wait => .next s
    | .half s u => .next (turn { s with remote := { s.remote with wait := s.remote.wait.map (fun (x : TOp) => if x = t then u else x) } })
    | .over_ s st data nan =>
      let s : State := { s with remote := { s.remote with wait := s.remote.wait.erase t } }
      .next (turn (t.reqs.foldl (fun s r => s.answer r st data nan) s))

/-- R371: a buffered sector is written back. -/
def execSectorBufferWriteback (stack : Fin 32) (sector : Nat) (s : State) : Res :=
  if s.remote.bufs.contains (stack.val, sector) then
    .next { s with remote := { s.remote with bufs := s.remote.bufs.erase (stack.val, sector) } }
  else .refused .notPending

/-- R364: the ACK with the new C of a source. -/
def execAck (src : BitVec 12) (s : State) : Res :=
  let x := s.srcRec src.toNat
  if x.c = x.acked then .refused .notPending
  else
    let done := x.nans.filter (fun n => n.1 = x.c ∨ seqLt n.1 x.c)
    let s := s.setSrcRec src.toNat { x with acked := x.c, nans := x.nans.filter (fun n => !done.contains n) }
    .next (s.send ⟨1, src, 0xFFFF, 32, .resp ⟨true, 15, 0, false, false, 0, 0, 0, BitVec.ofNat 12 (s.fld fNODEID), src, BitVec.ofNat 16 (s.fld fJOBSTAMP), 0, x.c,
      BitVec.ofNat 16 (s.fld fEPOCH), 0, 0, [], done⟩⟩)

/-! ## Answers at the source (R358, R361, R363, R368, R373, R378 to R380, R386) -/

/-- The cause that a status reports (R362, R470, R564). -/
def causeOf (status : Nat) : Nat :=
  match status with
  | 1 => 0x0B02 | 2 => 0x0B03 | 3 => 0x0B04 | 4 => 0x0B05 | 5 => causeLOW_HALF | 6 => 0x0901 | 8 => 0x0F01 | 9 => 0x1101 | _ => 0

def State.dropOp (s : State) (o : ROp) : State := { s with remote := { s.remote with ops := s.remote.ops.erase o } }

/-- A fault that an answer brings: a completing fault of a Spar core (R242, R386), a stopped tile program (R152). -/
def State.lateFault (s : State) (o : ROp) (cause data : Nat) : State :=
  match o.by_ with
  | .spar c t =>
    let k := sparKey c t
    if s.stillRuns o.by_ o.desc ∧ (s.sth k).wait = .remote then s.sparFault k (sparCause cause) data true
    else (s.outcome o.desc stEXEC_ERROR (sparResult k (sparCause cause) (s.sth k).tidx)).progCheck o.desc
  | .tile t th =>
    if s.stillRuns o.by_ o.desc then s.stopProgram t th o.desc stEXEC_ERROR (tileResult t cause)
    else (s.outcome o.desc stEXEC_ERROR (tileResult t cause)).progCheck o.desc

/-- The thread of an operation goes on. -/
def State.goOn (s : State) (o : ROp) : State :=
  match o.by_ with
  | .spar c t =>
    let k := sparKey c t
    if o.waits ∧ s.stillRuns o.by_ o.desc ∧ (s.sth k).wait = .remote then s.updSth k (fun x => { x with wait := .none_, pc := x.pc + 4 }) else s
  | .tile _ _ => s

/-- The NaN watch event of the issuing thread (R358). -/
def State.remoteNan (s : State) (o : ROp) (cause : Nat) : State :=
  match s.desc? o.desc with
  | none => s
  | some d =>
    match o.by_ with
    | .spar c t =>
      if ¬ s.flag fNANWATCH then s
      else
        let x := s.sth (sparKey c t)
        let s := s.nanHits d.step (0x40 + c) 3 x.tidx [(0, o.instr, o.pc, cause)]
        (s.outcome o.desc stNAN_TRAP 0).sparStop o.desc
    | .tile t th =>
      let s := s.tileFlags d.step t fNANSEEN 0
      if ¬ s.flag fNANWATCH then s
      else
        let st := dStream d.raw
        let s := s.nanHits d.step t st 0 [(0, o.instr, o.pc, cause)]
        let s := if s.stillRuns o.by_ o.desc then s.stopProgram t th o.desc stNAN_TRAP 0 else s.outcome o.desc stNAN_TRAP 0
        (s.stopOthers t st (some th)).progCheck o.desc

/-- The answer of a load, fetching atomic or RCAS with its data. A local write that has to wait leaves the answer untaken: it is
taken when the write can be made (R360). -/
def State.gotData (s0 : State) (o : ROp) (data : List Byte) : State :=
  let n := opLen o.req.rop o.req.size
  let bs := (data ++ List.replicate n 0).take n
  let s := s0.dropOp o
  match s.deliver o.by_ o.desc o.vec o.local_ o.reg bs with
  | .error (s, c) => if c = 0 then s0 else s.lateFault o c o.rem.toNat
  | .ok s =>
    let s := s.goOn o
    let nan := if o.req.rop = 0 then none else (remoteNew o.req.rop o.req.size (leNat bs) o.req.op1.toNat o.req.op2.toNat).2
    match nan with
    | some c => (s.remoteNan o c).progCheck o.desc
    | none => s.progCheck o.desc

/-- An operation ends without its effect: a load's destination bytes and a fault, or an entry for the next RFENCE (R378, R380,
R386). `fill` are the destination's bytes. -/
def State.failOp (s : State) (o : ROp) (cause data : Nat) (fill : List Byte) : State :=
  let s := s.dropOp o
  if returns o.req.rop then
    let s := match s.deliver o.by_ o.desc o.vec o.local_ o.reg fill with
      | .ok s => s
      | .error (s, _) => s
    s.lateFault o cause data
  else State.progCheck { s with remote := { s.remote with dead := s.remote.dead ++ [⟨o.by_, o.desc, cause, o.rem⟩] } } o.desc

/-- Bytes that the manual leaves open: the destination of a load that an error status answers. -/
def State.openBytes (s : State) (n : Nat) : List Byte × State :=
  ((List.range n).map (fun i => (Config.freeWord (s.freeCtr + i)).extractLsb' 0 8), { s with freeCtr := s.freeCtr + n })

/-- A data response, old value or error status. -/
def State.answered (s : State) (o : ROp) (status : Nat) (data : List Byte) : State :=
  if status = 0 then
    if returns o.req.rop then s.gotData o data else (s.dropOp o).progCheck o.desc
  else if status = 6 then s.failOp o 0x0901 o.rem.toNat (deadBytes o.req.rop o.req.size)
  else
    let (bs, s) := s.openBytes (opLen o.req.rop o.req.size)
    s.failOp o (causeOf status) o.rem.toNat bs

/-- An ACK: every write to the target up to C is answered, with the NaN events it reports (R364, R368). -/
def State.acked (s : State) (src : BitVec 12) (cum : Nat) (nans : List (Nat × Nat)) : State :=
  let done := s.remote.ops.filter (fun o => o.req.dst = src ∧ ¬ returns o.req.rop ∧ (o.req.seq = cum ∨ seqLt o.req.seq cum))
  let s : State := { s with remote := { s.remote with ops := s.remote.ops.filter (fun o => !done.contains o) } }
  let s := done.foldl (fun s o => match nans.find? (fun n => n.1 = o.req.seq) with
    | some n => s.remoteNan o n.2
    | none => s) s
  done.foldl (fun s o => s.progCheck o.desc) s

/-- The operation that a response answers. -/
def State.opFor (s : State) (src : BitVec 12) (seq : Nat) : Option ROp := s.remote.ops.find? (fun o => o.req.dst = src ∧ o.req.seq = seq)

/-- A DEFER (R373): the operation waits for its HINT; its T_dead starts again. -/
def State.gotDefer (s : State) (o : ROp) : State :=
  { s with remote := { s.remote with ops := s.remote.ops.map (fun (x : ROp) => if x = o then { x with deferred := true } else x) } }

/-- A response or ACK that the fabric die has let in (R363, R364, R368, R373). One of another epoch, or for a SEQ no longer held, is
discarded. -/
def State.takeResponse (s : State) (r : Response) : State :=
  if r.epoch.toNat ≠ s.fld fEPOCH % 65536 then s
  else if r.isAck then s.acked r.src r.cum r.nans
  else match s.opFor r.src r.seq with
    | none => s
    | some o =>
      if r.status = 7 then s.gotDefer o
      else if r.status ≠ 0 ∧ causeOf r.status.toNat = 0 then s
      else s.answered o r.status.toNat r.data

/-- A response whose data cannot be written yet stays where it is (R360): it changes nothing, though an operation awaits its data. -/
def State.responseWaits (s : State) (r : Response) : Bool :=
  decide (r.epoch.toNat = s.fld fEPOCH % 65536) && !r.isAck && r.status == 0 && (s.opFor r.src r.seq).isSome && decide (s.takeResponse r = s)

/-- R363, R364, R368: a response or ACK arrives through a port. -/
def execRemoteResponseReceive (port : Fin 16) (r : Response) (s : State) : Res :=
  match s.ingress port.val r.src r.dst r.job with
  | some s => .next (s.arrived (.resp r))
  | none => .next (if s.responseWaits r then s else (s.takeResponse r).arrived (.resp r))

/-- R373: a DEFER. -/
def execDefer (port : Fin 16) (r : Response) (s : State) : Res :=
  if r.isAck ∨ r.status ≠ 7 then .refused .notPending
  else
    let s := s.arrived (.resp r)
    match s.ingress port.val r.src r.dst r.job with
    | some s => .next s
    | none => .next (s.takeResponse r)

/-- The sectors of a request as its source names them: window and offset of the data and of the flag word. -/
def placesOf (r : Request) : List (Nat × Nat) :=
  (sectorsOf r.offset.toNat (opLen r.rop r.size)).map (fun k => (r.window.toNat, k))
    ++ (if r.rop = 2 then [(r.fwindow.toNat, r.foffset.toNat / 32)] else [])

/-- R373: HINT has elapsed; deferred operations to one sector go again in SEQ order. -/
def execDeferResend (dst : BitVec 12) (seq : Nat) (s : State) : Res :=
  match s.opFor dst seq with
  | none => .refused .notPending
  | some o =>
    let same := fun (x : ROp) => x.req.dst == dst && (placesOf x.req).any (placesOf o.req).contains
    if ¬ o.deferred ∨ s.remote.ops.any (fun x => x.deferred && same x && seqLt x.req.seq seq) then .refused .notPending
    else .next (State.sendReq { s with remote := { s.remote with
      ops := s.remote.ops.map (fun (x : ROp) => if x = o then { x with deferred := false } else x) } } o.req)

/-- The first dead operation to a target (R379): the target is marked, the step fails its checks, and the masthead is told; where this node
decides commits itself, it notes the loss and rolls the fleet back. -/
def State.markDead (s : State) (dst : BitVec 12) (tag : BitVec 64) : State :=
  if s.flag (fDead dst.toNat) then s
  else
    let s := (s.setFld (fDead dst.toNat) 1).failStep tag
    if s.isCrew then s.fleetTo 0 (.lost dst .dead)
    else State.rollbackFleet { s with mh := { s.mh with deadSeen := if s.mh.deadSeen.contains dst then s.mh.deadSeen else s.mh.deadSeen ++ [dst] } }

/-- R378, R379: T_dead expires before an answer. -/
def execTdeadExpiry (dst : BitVec 12) (seq : Nat) (s : State) : Res :=
  match s.opFor dst seq with
  | none => .refused .notPending
  | some o =>
    if o.suspended then .refused .notPending
    else .next ((s.failOp o 0x0B01 (if returns o.req.rop then 0 else o.rem.toNat) (deadBytes o.req.rop o.req.size)).markDead dst o.req.tag)

end Sys2Proof.Machine
end

