-- ==== Sys2Proof/Machine/Solver.lean ====
section
/-! DEFINITION. Sparse factor engines (chapter 08): the four engine descriptors, their faults, and what they do. -/

namespace Sys2Proof.Machine
open Sys2Proof.Fp

/-! ## Descriptors (R255 to R263) -/

/-- The fault of an access of an engine (R263, R305, R192); RANGE also where a vector meets the workspace of the resident structure. -/
def State.engAccess (s : State) (e : Nat) (wr vec : Bool) (a n : Nat) : Option Nat :=
  let ws := s.fld (fWSBASE e) * 4096
  let we := ws + s.fld (fWSLEN e) * 4096
  match (if wr then s.wrCheck a n else s.rdCheck a n) with
  | some e => some (e.cause 0x0811 0x0811)
  | none =>
    if s.touchesLow a n then some causeLOW_HALF
    else if vec ∧ (SM.getD emptySol s.live.sol e).resident ∧ ws < a + n ∧ a < we then some 0x0811 else none

/-- The first of several causes: the lowest. -/
def lowest (l : List (Option Nat)) : Option Nat := l.foldl (fun a x => match a, x with
  | some i, some j => some (min i j)
  | some i, none => some i
  | none, y => y) none

/-- What every engine descriptor must keep (R257, R260): the lowest of ABSENT_ENGINE, BAD_FIELD and STATREC's own faults. -/
def State.engCommon (s : State) (raw : BitVec 512) (badField : Bool) : Option Nat :=
  let e := dEngine raw
  lowest [if s.engOn e then none else some 0x0801, if badField ∨ dMask raw ≠ 0 then some 0x0802 else none,
    if dProg raw % 64 ≠ 0 then some 0x0810 else none, s.engAccess e true false (dProg raw) 64]

/-- RESULT (R262). -/
def engResult (cause e iter : Nat) : Nat := cause ||| e <<< 16 ||| iter <<< 24

/-- A descriptor that began in `s0` ends with a cause (0: OK) or status: the status record, then the record. The record is written only where
STATREC is valid; where that write waits, the descriptor waits in `s0`. -/
def State.engDone (s0 s : State) (d : DRef) (raw : BitVec 512) (status : Nat) (o : SolOut) : State :=
  let e := dEngine raw
  let fin := fun (s : State) => s.finish d status (engResult o.cause e o.iter)
  if (s.engAccess e true false (dProg raw) 64).isSome then fin s
  else match s.writeRec d e o with
    | some s => fin s
    | none => s0

def State.engEnd (s0 s : State) (d : DRef) (raw : BitVec 512) (o : SolOut) : State :=
  State.engDone s0 s d raw (if o.cause = 0 then stOK else stEXEC_ERROR) o

/-- The workspace of a structure is written (R285, R259): images of its first W bytes' pages, the step's pages, and terms that R454 hashes
over a layout the manual leaves open. -/
def State.wsWritten (s : State) (d : DRef) (e : Nat) (c : SolCtx) : Except MErr State :=
  let w := s.writer d (0x80 + e)
  let pages := pagesOf (s.fld (fWSBASE e) * 4096) (workspaceBytes c.nb (2 ^ c.bsc) c.colidx.length c.fill.length)
  (pages.foldl (fun r p => match r with
    | .ok (s : State) => s.cowPage w.tag p
    | .error e => .error e) (.ok s : Except MErr State)).map (fun s =>
      let s := ({ s with freeCtr := s.freeCtr + 1 } : State).addTerm w (Config.freeWord s.freeCtr)
      s.updStep w.tag (fun x => { x with
        pages := pages.filter (fun p => s.groupKind (groupOf (p * 4096)) == 1 && !x.pages.contains p) ++ x.pages }))

def State.setSol (s : State) (d : DRef) (e : Nat) (c : SolCtx) : State := s.trs (s.writer d (0x80 + e)).tag (.sol e c)

def State.engRec (s : State) (e : Nat) : Engine := SM.getD {} s.eng e
def State.setEng (s : State) (e : Nat) (g : Engine) : State := { s with eng := SM.setD {} s.eng e g }

/-- An engine takes a new context and its workspace is written with it; then `k`. No image to be had: the descriptor waits in `s0`, or ends
with the cause of R470 and changes nothing. -/
def State.remake (s0 s : State) (d : DRef) (raw : BitVec 512) (c : SolCtx) (k : State → State) : State :=
  match s.wsWritten d (dEngine raw) c with
  | .ok s => k (s.setSol d (dEngine raw) c)
  | .error .wait => s0
  | .error m => State.engEnd s0 (s.noteErr m) d raw { cause := m.cause 0x0811 0x0811 }

/-- The shell of an engine descriptor: order, a stopped stream (R281), a free engine (R255); a named cause completes it at once, with the
digest of the pattern read. -/
def State.engStart (s : State) (d : DRef) (op : Nat) (chk : BitVec 512 → Option Nat) (dig : BitVec 512 → Option (BitVec 64))
    (k : BitVec 512 → State → State) : Res :=
  s.start d (fun o => o = op) (fun x s =>
    let e := dEngine x.raw
    if s.isStopped (0x80 + e) 3 0 then s.finish d stSTOPPED (engResult 0 e 0)
    else if s.inBlk (0x20 + e) ∨ s.capStop ∨ (s.engRec e).run.isSome then s
    else match chk x.raw with
      | some 0 => s
      | some c => State.engEnd s s d x.raw { cause := c, dig := dig x.raw }
      | none => k x.raw s)

/-! ## SF_STRUCT and SF_FREE (R267 to R270, R260) -/

/-- Words of an array of u32 in node memory. -/
def State.rdWords (s : State) (a n : Nat) : List Nat := (chunks 4 n (s.rdBytes a (4 * n))).map leNat

/-- The arrays of SF_STRUCT, or the fault of its fields and of reading them. -/
def State.structRead (s : State) (raw : BitVec 512) : Except Nat (List Nat × List Nat) :=
  let e := dEngine raw
  let a2 := dArg raw 2
  let nb := getBits a2 0 24
  let bsc := getBits a2 24 3
  let bad := nb = 0 ∨ bsc = 0 ∨ 4 < bsc ∨ a2 / 2 ^ 29 ≠ 0 ∨ dArg raw 3 / 4 ≠ 0
  match lowest [s.engCommon raw bad, if dArg raw 0 % 4 ≠ 0 ∨ dArg raw 1 % 4 ≠ 0 then some 0x0810 else none,
      if bad then none else s.engAccess e false false (dArg raw 0) (4 * (nb + 1))] with
  | some c => .error c
  | none =>
    let rp := s.rdWords (dArg raw 0) (nb + 1)
    let ba := rp.getLastD 0
    if ¬ rowptrOk rp then .error 0x0803
    else if 2 ^ 28 < ba then .error 0x0804
    else match s.engAccess e false false (dArg raw 1) (4 * ba) with
      | some c => .error c
      | none => .ok (rp, s.rdWords (dArg raw 1) ba)

/-- The faults of SF_STRUCT that its fields, its arrays and the workspace give. -/
def State.structFault (s : State) (raw : BitVec 512) : Option Nat :=
  let e := dEngine raw
  let nb := getBits (dArg raw 2) 0 24
  let bs := 2 ^ getBits (dArg raw 2) 24 3
  match s.structRead raw with
  | .error c => some c
  | .ok (rp, ci) =>
    if ¬ patternOk nb rp ci then some 0x0803
    else
      let bf := (fillOf nb rp ci).length
      if 2 ^ 30 < bf ∨ s.fld (fWSLEN e) * 4096 < workspaceBytes nb bs ci.length bf then some 0x0804
      else (match s.rdCheck (s.fld (fWSBASE e) * 4096) (s.fld (fWSLEN e) * 4096) with
        | some .range => some 0x0811
        | some .area => some 0x0811
        | _ => none)

/-- The digest of the pattern that SF_STRUCT read, where it could read it (R261, R269). -/
def State.structDig (s : State) (raw : BitVec 512) : Option (BitVec 64) :=
  match s.structRead raw with
  | .error _ => none
  | .ok (rp, ci) => some (patternDigest (getBits (dArg raw 2) 0 24) (2 ^ getBits (dArg raw 2) 24 3) rp ci)

/-- A pattern loaded as fresh (R270). -/
def freshSol (nb bsc : Nat) (rp ci : List Nat) (dig : BitVec 64) : SolCtx :=
  ⟨true, nb, bsc, rp, ci, fillOf nb rp ci, dig, false, 0, 0, 0, [], [], [], false⟩

/-- The warm-start check and its effect (R270). -/
def State.runStruct (ev : List HwEv) (d : DRef) (raw : BitVec 512) (s0 : State) : State :=
  let e := dEngine raw
  let a2 := dArg raw 2
  let nb := getBits a2 0 24
  let bsc := getBits a2 24 3
  let (s, ok) := s0.hwEvs (s0.writer d 0).tag ev
  if ¬ ok then s else
  let rp := s.rdWords (dArg raw 0) (nb + 1)
  let ci := s.rdWords (dArg raw 1) (rp.getLastD 0)
  let dig := patternDigest nb (2 ^ bsc) rp ci
  let c := SM.getD emptySol s.live.sol e
  let same := c.nb = nb ∧ c.bsc = bsc
  let warm := if ¬ c.resident then 0
    else if same ∧ c.rowptr = rp ∧ c.colidx = ci then 1
    else if same ∧ (List.range nb).all (fun i => (rowCols rp ci i).all (fun j => inPat c.rowptr c.colidx i j)) then 2
    else if a2.testBit 27 then 3 else 4
  let out : SolOut := { warm := warm, dig := some dig }
  if warm = 4 then State.engEnd s0 s d raw { out with cause := 0x0805 }
  else if a2.testBit 28 ∧ leNat (s.rdBytes (dProg raw + 56) 8) ≠ dig.toNat then State.engEnd s0 s d raw { out with cause := 0x0806, warm := 0 }
  else
    let c' := if warm = 1 then c
      else if warm = 2 then { c with fvalid := false, vals := c.vals.filter (fun p =>
        inPat rp ci (p.1 / 2 ^ 28 / 2 ^ bsc) (p.1 % 2 ^ 28 / 2 ^ bsc)) }
      else freshSol nb bsc rp ci dig
    let done := fun (s : State) => State.engEnd s0 s d raw { out with work := updatesOf c'.fill nb (fun _ => true) }
    if warm = 1 then done s else State.remake s0 s d raw c' done

/-- R267, R270. -/
def execSfStruct (d : DRef) (ev : List HwEv) (s : State) : Res := s.engStart d 0x200 s.structFault s.structDig (State.runStruct ev d)

/-- NO_STRUCT (R263, R271) beside the other faults, the lowest first. -/
def State.needStruct (s : State) (raw : BitVec 512) : Option Nat :=
  if (SM.getD emptySol s.live.sol (dEngine raw)).resident then none else some 0x0807

def State.freeFault (s : State) (raw : BitVec 512) : Option Nat :=
  lowest [s.engCommon raw (dArg raw 0 ≠ 0 ∨ dArg raw 1 ≠ 0 ∨ dArg raw 2 ≠ 0 ∨ dArg raw 3 / 4 ≠ 0), s.needStruct raw]

/-- Residence ends (R260): what the workspace holds is open from here on. -/
def State.runFree (d : DRef) (raw : BitVec 512) (s0 : State) : State :=
  let e := dEngine raw
  let lo := s0.fld (fWSBASE e) * 4096
  let hi := lo + s0.fld (fWSLEN e) * 4096
  let s := s0.setSol d e { SM.getD emptySol s0.live.sol e with resident := false, fvalid := false }
  State.engEnd s0 { s with wsOpen := cutRanges lo hi s.wsOpen ++ [(lo, hi)] } d raw {}

/-- R260. -/
def execSfFree (d : DRef) (s : State) : Res := s.engStart d 0x203 s.freeFault (fun _ => none) (State.runFree d)

/-! ## SF_REFACTOR (R271 to R276) -/

def State.refactorFault (s : State) (raw : BitVec 512) : Option Nat :=
  let e := dEngine raw
  let c := SM.getD emptySol s.live.sol e
  let n := getBits (dArg raw 1) 0 32
  match lowest [s.engCommon raw (dArg raw 1 / 2 ^ 34 ≠ 0 ∨ getBits (dArg raw 3) 3 29 ≠ 0 ∨ (pivtolOf (dArg raw 2)).isNone),
      if 2 ^ 28 < n then some 0x0804 else none, s.needStruct raw] with
  | some x => some x
  | none =>
    match lowest [if dArg raw 0 % 32 ≠ 0 then some 0x0810 else none,
        if n = 0 then none else s.engAccess e false false (dArg raw 0) (n * deltaLen c.bsc)] with
    | some x => some x
    | none => if (s.feed raw c.bsc).any (fun d => d.rsv ≠ 0) then some 0x0802 else none

/-- A structure whose workspace another unit wrote: every value and factor entry is open (R258). -/
def scramble (ctr : Nat) (c : SolCtx) : SolCtx :=
  let n := SolN c
  let all := fun (k : Nat) (p : Nat → Nat → Bool) => (List.range (n * n)).filterMap (fun t =>
    if p (t / n) (t % n) then some (sKey (t / n) (t % n), Config.freeWord (ctr + k * n * n + t)) else none)
  { c with vals := all 0 (inA c), fac := all 1 (inF c) }

/-- The context an engine works on: scrambled where its workspace was written by another unit. -/
def State.workCtx (s : State) (e : Nat) (open_ : Bool) : SolCtx × State :=
  let c := SM.getD emptySol s.live.sol e
  if c.tainted ∨ open_ then (scramble s.freeCtr c, { s with freeCtr := s.freeCtr + 2 * SolN c * SolN c }) else (c, s)

/-- The residue checks of a factor engine that find something (R284): the second datapath of the engine recomputes, and the shadow-or-residue
rows decide; whether no two values agree, which leaves the values open. -/
def State.solChecks (s : State) (tag : BitVec 64) (e : Nat) (ev : List HwEv) : State × Bool :=
  let u : UnitId := BitVec.ofNat 38 (0x23 ||| e <<< 18)
  ev.foldl (fun a h => match h with
    | .residue _ r c n =>
      let v := judgeRes r c n
      (a.1.found tag (fSolCnt e) 6 v [u] u u, a.2 || v == .noTwo)
    | _ => a) (s, false)

/-- The feed is applied and the matrix factorised. DEDUCED (log 51): a factorisation that stops has performed the updates that the procedure
of R273 does before the block column it stops in. -/
def State.refactorRun (d : DRef) (raw : BitVec 512) (open_ : Bool) (s0 : State) : State :=
  let e := dEngine raw
  let (c, s) := s0.workCtx e open_
  match s.fed c raw with
  | .error (cause, i, j) => State.engEnd s0 s d raw { cause := cause, at_ := some (i, j, 0) }
  | .ok vals =>
    let (c2, f) := factored c raw vals
    let full := (dArg raw 1).testBit 32 || (dArg raw 1).testBit 33 || !c.fvalid || c2.tau != c.tau
    let aff := (s.feed raw c.bsc).flatMap (fun x => ancestors c.fill c.nb (min x.i x.j))
    let bs := 2 ^ c.bsc
    let work := updatesOf c.fill ((f.stop.map (fun x => x.k / bs)).getD c.nb) (fun k => full || aff.contains k)
    State.remake s0 s d raw c2 (fun s => match f.stop with
      | some x => State.engEnd s0 s d raw
          { cause := x.cause, at_ := some (x.i / bs, x.j / bs, if x.cause = 0x080C then x.i % bs else 0), work := work }
      | none => State.engEnd s0 s d raw
          { cause := if f.marks.any (fun m => m.2 = 1) then 0x080B else if f.marks ≠ [] then 0x080A else 0, work := work })

/-! ## SF_SOLVE (R278 to R281) -/

def solNrhs (raw : BitVec 512) : Nat := getBits (dArg raw 3) 2 6 + 1

/-- Bytes from the first column's start to the last one's end. -/
def solSpan (nrhs n : Nat) : Nat := (nrhs - 1) * ((8 * n + 31) / 32 * 32) + 8 * n

def State.solveFault (s : State) (raw : BitVec 512) : Option Nat :=
  let e := dEngine raw
  let c := SM.getD emptySol s.live.sol e
  let n := SolN c
  let k := solNrhs raw
  let len := solSpan k n
  let slen := 2 * k * ((8 * n + 31) / 32 * 32)
  let meet := fun (a m b l : Nat) => decide (a < b + l) && decide (b < a + m)
  let b := dArg raw 0
  let x := dArg raw 1
  let sc := dArg raw 2
  match lowest [s.engCommon raw (getBits (dArg raw 3) 20 12 ≠ 0 ∨ 63 < getBits (dArg raw 3) 12 8), s.needStruct raw] with
  | some c => some c
  | none => lowest [if meet b len x len || meet b len sc slen || meet x len sc slen then some 0x0802 else none,
      if c.fvalid then none else some 0x080E,
      if b % 32 ≠ 0 ∨ x % 32 ≠ 0 ∨ sc % 32 ≠ 0 then some 0x0810 else none,
      s.engAccess e false true b len, s.engAccess e true true x len, s.engAccess e true true sc slen]

/-- The solutions, the outcome and the NaN events of a solve (R280, R281). -/
def State.solveRun (d : DRef) (raw : BitVec 512) (open_ : Bool) (s0 : State) : State :=
  let e := dEngine raw
  let (c, s) := s0.workCtx e open_
  let n := SolN c
  let k := solNrhs raw
  let rtole := getBits (dArg raw 3) 12 8
  let rtol : Val := .fin false 1 (-(((if rtole = 0 then 50 else rtole) : Nat) : Int))
  let rd := fun (p : Nat × Nat) => (chunks 8 n (s.rdBytes p.1 p.2)).map (fun b => decode .fp64 (leNat b))
  let bs := (solCols (dArg raw 0) k n).map rd
  let zs := bs.map (fun b => refine c (getBits (dArg raw 3) 8 4) rtol b)
  let w := s.writer d (0x80 + e)
  let outs := ((solCols (dArg raw 1) k n).zip zs).map (fun p => (p.1.1, p.2.best.flatMap (fun v => leBytes 8 (encode .fp64 v))))
  let wrote := match s.writes w outs with
    | .error m => Except.error (s, m)
    | .ok s => match s.openWrite w (dArg raw 2) (2 * k * ((8 * n + 31) / 32 * 32)) with
      | .error m => Except.error (s, m)
      | .ok s => Except.ok s
  match wrote with
  | .error (_, .wait) => s0
  | .error (s, m) => State.engEnd s0 (s.noteErr m) d raw { cause := m.cause 0x0811 0x0811 }
  | .ok s =>
    let iter := zs.foldl (fun m z => max m z.it) 0
    let conv := zs.all (fun z => match Fp.cmp z.pbest rtol with
      | some i => decide (i ≤ 0)
      | none => false)
    let resid := maxAbs (zs.map (·.pbest))
    let hits := (zs.zip bs).flatMap (fun z => z.1.nanAt.map (fun i =>
      (Config.freeChoice s.freeCtr, 0x202, i, if z.2.any Val.isNan then 1 else 0)))
    let o : SolOut := { cause := if conv then 0 else 0x080F, conv := conv, iter := iter, resid := encode .fp64 resid }
    let s := s.nanHits w.tag (0x80 + e) 3 0 hits
    if hits ≠ [] ∧ s.flag fNANWATCH then State.engDone s0 s d raw stNAN_TRAP { o with cause := 0 }
    else State.engEnd s0 s d raw o

/-! ## Start, run and miss (R255, R282, R284) -/

/-- SF_REFACTOR and SF_SOLVE: the start, and with `run` the work, on the descriptor that starts now or already runs. -/
def State.engWork (s : State) (d : DRef) (op : Nat) (chk : BitVec 512 → Option Nat) (run : Bool) (ev : List HwEv)
    (body : BitVec 512 → Bool → State → State) : Res :=
  let go := fun (raw : BitVec 512) (s : State) =>
    if ¬ run then s
    else
      let r := s.hwEvs (s.writer d 0).tag ev
      if r.2 then (let q := r.1.solChecks (s.writer d 0).tag (dEngine raw) ev; body raw q.2 q.1) else r.1
  match s.desc? d with
  | none => .refused .notPending
  | some x =>
    if x.st = .running ∧ dOp x.raw = op then
      let g := s.engRec (dEngine x.raw)
      if s.inBlk (0x20 + dEngine x.raw) ∨ s.capStop then .next s
      else if g.deadline ≠ 0 ∧ g.start.toNat + g.deadline ≤ s.fld fBEATCNT then .next (s.missDeadline (dEngine x.raw))
      else .next (go x.raw s)
    else s.engStart d op chk (fun _ => none) (fun raw s =>
      let e := dEngine raw
      let s := (s.running d 0).setEng e { s.engRec e with run := some d, start := s.word 0x80008, deadline := dDeadline raw }
      go raw s)

/-- R271, R273. -/
def execSfRefactor (d : DRef) (run : Bool) (ev : List HwEv) (s : State) : Res :=
  s.engWork d 0x201 s.refactorFault run ev (State.refactorRun d)

/-- R278, R280. -/
def execSfSolve (d : DRef) (run : Bool) (ev : List HwEv) (s : State) : Res :=
  s.engWork d 0x202 s.solveFault run ev (State.solveRun d)

end Sys2Proof.Machine
end

