-- ==== Sys2Proof/Machine/Blocks.lean ====
section
/-! DEFINITION. BLOCK resets (R536 to R539, R563, R564): request, isolation, and the end of the reset. -/

namespace Sys2Proof.Machine

def causeBLOCK_RST : Nat := 0x1101

/-- R536: host software writes the block's ID to RST_BLKCMD. -/
def execBlockResetRequest (id : BitVec 8) (s : State) : Res := .next (s.mmioWrite .host 0x40018 true (id.setWidth 64))

/-- R536: node firmware asks for the reset of a block that has made no progress. -/
def execBlockHangDetect (id : BitVec 8) (s : State) : Res :=
  if blkOk id.toNat then .next (s.blkRequest id.toNat) else .refused .notPending

/-! ## Isolation (R537, R538) -/

/-- The descriptors whose work a block holds: programs of a tile, the descriptor of an engine. -/
def State.blkWork (s : State) (id : Nat) : List DRef :=
  if id < 32 then (List.range 16).filterMap (fun th => (s.thr id th).run) ++ (s.coll.hands.filter (fun h => h.tile = id && !h.ran)).map (·.desc)
  else if 0x20 ≤ id ∧ id < 0x24 then (s.engRec (id - 0x20)).run.toList
  else []

/-- Remote operations that wait at a tile's stack. -/
def State.blkOps (s : State) (id : Nat) : List TOp := if id < 32 then s.remote.wait.filter (fun t => t.stack = id) else []

/-- Work of uncommitted steps in the block fails its steps' checks (R538). -/
def State.blkFail (s : State) (id : Nat) : State :=
  let tags := (s.blkWork id).map (fun d => (s.writer d 0).tag) ++ (s.blkOps id).map (fun t => t.req.tag)
  tags.foldl State.failStep s

/-- In a small fleet class the wrapper answers what is open with BLOCK_RST (R537, R564). -/
def State.blkErrors (s : State) (id : Nat) : State :=
  let s := (s.blkOps id).foldl (fun s t =>
    let s : State := { s with remote := { s.remote with wait := s.remote.wait.erase t } }
    t.reqs.foldl (fun s r => s.answer r 9 [] none) s) s
  if id < 32 then
    let s := (s.coll.hands.filter (fun h => h.tile = id && !h.ran)).foldl (fun s h => s.handStop h causeBLOCK_RST) s
    let s : State := { s with remote := { s.remote with ops := s.remote.ops.filter (fun o => match o.by_ with
      | .tile t _ => t != id
      | _ => true) } }
    (List.range 16).foldl (fun s th =>
      match (s.thr id th).run with
      | some d => (s.updThr id th (fun x => { x with xfers := [] })).stopProgram id th d stEXEC_ERROR (tileResult id causeBLOCK_RST)
      | none => s) s
  else match (s.engRec (id - 0x20)).run with
    | some d => s.finish d stEXEC_ERROR (engResult causeBLOCK_RST (id - 0x20) 0)
    | none => s

/-- In a large class what is still open at isolation is discarded (R537); the coming rollback ends its descriptors. -/
def State.blkDiscard (s : State) (id : Nat) : State :=
  let s : State := { s with remote := { s.remote with wait := s.remote.wait.filter (fun t => !(s.blkOps id).contains t) } }
  if id < 32 then
    let s : State := { s with coll := { s.coll with hands := s.coll.hands.filter (fun h => h.tile ≠ id ∨ h.ran) },
                              remote := { s.remote with ops := s.remote.ops.filter (fun o => match o.by_ with
                                | .tile t _ => t != id
                                | _ => true) } }
    (List.range 16).foldl (fun s th => s.updThr id th (fun x => { x with run := none, halted := false, xfers := [] })) s
  else if 0x20 ≤ id ∧ id < 0x24 then s.setEng (id - 0x20) { s.engRec (id - 0x20) with run := none }
  else s

/-- What isolation does to a block. `idle` says that a block of a large fleet reported idle; otherwise its 200 µs are over. -/
def State.isolate (s : State) (id : Nat) (idle : Bool) : State :=
  let busy := s.blkWork id ≠ [] ∨ s.blkOps id ≠ []
  let s := s.cause 9 4
  let s : State := { s with pw := { s.pw with blks := s.pw.blks.map (fun (b : Blk) => if b.id = id then { b with isolated := true } else b) } }
  if id < 0x24 then
    let s := s.blkFail id
    if ¬ s.largeClass then s.blkErrors id
    else if busy ∧ ¬ idle then (s.incFld (fCause 10)).blkDiscard id
    else s
  else if 0x30 ≤ id ∧ id < 0x40 then
    let s := if (s.port (id - 0x30)).st = .up then s.portDown (id - 0x30) 0 else s
    s.setPort (id - 0x30) { s.port (id - 0x30) with fast := none }
  else if id = 0x41 then s.abandonCkpt fLOCKERR
  else s

/-- R537, R538: the block is isolated. A block that holds work does not report idle. -/
def execBlockIsolate (id : BitVec 8) (idle : Bool) (s : State) : Res :=
  let n := id.toNat
  if ¬ s.pw.blks.any (fun b => b.id = n ∧ ¬ b.isolated) then .refused .notPending
  else if s.largeClass ∧ idle ∧ (s.blkWork n ≠ [] ∨ s.blkOps n ≠ []) then .refused .notPending
  else .next (s.isolate n idle)

/-! ## The end of the reset (R537 to R539, R563) -/

/-- What a reset tile loses: its scratchpad, tile registers, wide accumulators and threads. -/
def State.wipeTile (s : State) (t : Nat) : State :=
  { s with spad := SM.clear s.spad (t * 2 ^ 25) (2 ^ 25), tr := SM.clear s.tr (t * 131072) 131072,
           wa := SM.clear s.wa (t * 65536) 65536, chain := SM.clear s.chain (t * 16) 16, vthr := SM.clear s.vthr (t * 16) 16 }

/-- R538, R539: the block leaves reset. A port trains in full; the masthead's relay resumes. -/
def execBlockResetDone (id : BitVec 8) (s : State) : Res :=
  let n := id.toNat
  if ¬ s.pw.blks.any (fun b => b.id = n ∧ b.isolated) then .refused .notPending
  else
    let s : State := { s with pw := { s.pw with blks := s.pw.blks.filter (fun (b : Blk) => b.id ≠ n) } }
    if n < 32 then .next (s.wipeTile n)
    else if 0x30 ≤ n ∧ n < 0x40 then .next (if s.portOn (n - 0x30) then s.train (n - 0x30) else s)
    else if n = 0x40 ∧ s.isMast then .next (s.broadcast .relayResume)
    else .next s

end Sys2Proof.Machine
end

