-- ==== Sys2Proof/Machine/Fleet.lean ====
section
/-! DEFINITION. The fleet: crew entries, index and map, relayed host traffic, crew windows and the relay hold (R70 to R76, R353,
R539, R636). -/

namespace Sys2Proof.Machine

/-! ## Forming the fleet (R70, R353, R467, R497) -/

/-- R70: a host write of HIF_FLEETn. -/
def execFleetEntryWrite (n : Fin 64) (value : BitVec 64) (s : State) : Res :=
  .next (s.mmioWrite .host (0x10A00 + 8 * n.val) true value)

/-- R70: a crew node takes its index. -/
def execFleetIndexAssign (n : Fin 64) (s : State) : Res :=
  let s := s.arrived (.fleet (.index n.val))
  if s.isCrew then .next (s.setFld fINDEX n.val) else .refused .notPending

/-- R353, R467: a member takes FAB_FLEETMAP with the masthead's partition values (`commitSpare` judges a spare's at a commit).
On the node that owns the fleet the table is the one its HIF_FLEETn give. -/
def execFleetMap (ids : List Nat) (part : BitVec 64) (cow : BitVec 16) (s : State) : Res :=
  let s := s.arrived (.fleet (.fleetMap ids part cow))
  if s.isCrew then
    let s := s.newMap (ids.map (· % 8192))
    .next (State.reportBid { s with rec_ := { s.rec_ with mastPart := some (part, cow) } })
  else if ids = s.mapIds then .next s.sendMap
  else .refused .notPending

/-! ## Relay (R71, R72, R585) -/

/-- A request of a crew node toward the host: sent when the masthead's windows allow it, otherwise answered. -/
def State.crewRequest (s : State) (idx : Fin 64) (wr : Bool) (addr len value : Nat) : State :=
  if s.winOk wr addr len then
    if wr then s.emit (.hostWrite addr (leBytes len value)) else s.emit (.hostRead addr len)
  else s.toCrew idx.val (.outside idx addr value s.windows)

/-- A crew node learns that a request lay outside the windows: a fetch, record or pointer write halts its ring (R585). -/
def State.outsideHere (s : State) (addr value : Nat) (wins : List (BitVec 64 × BitVec 64)) : State :=
  let s : State := { s with rec_ := { s.rec_ with mastWins := some wins } }
  let inRing := fun (w : BitVec 64) (size : Nat) =>
    let b := getBits w.toNat 12 52 * 4096
    w.getLsbD 0 && decide (b ≤ addr) && decide (addr < b + size * cfgSize w)
  let pb := s.fld fPTRBASE * 4096
  match (List.range 64).find? (fun r => inRing (s.word (fSqCfg r)) 64) with
  | some r => s.haltRing r
  | none =>
    if (List.range 16).any (fun c => inRing (s.word (fCqCfg c)) 32) then s.haltRing (getBits value 16 6)
    else if pb ≤ addr ∧ addr < pb + 1024 then s.haltRing ((addr - pb) / 16)
    else s

/-- A read of a register as MMIO makes it (R613, R614): a 32-bit read of a low half of a 64-bit register latches its high half. -/
def State.mmioRead (s : State) (off : Nat) (wide : Bool) : State × BitVec 64 :=
  if off % (if wide then 8 else 4) ≠ 0 then (s, BitVec.allOnes 64)
  else
    let w := if s.shutRead off then BitVec.allOnes 64 else s.regRead (off / 8 * 8)
    if wide then (s, w)
    else
      let rest := s.latch.filter (fun l => l.1 ≠ off / 8 * 8)
      if (Reg.fieldsAt (off / 8 * 8)).any (fun f => f.2.stride < 8) then (s, (w >>> (off % 8 * 8)) &&& 0xFFFFFFFF)
      else if off % 8 = 0 then ({ s with latch := rest ++ [(off, w.extractLsb' 32 32)] }, w &&& 0xFFFFFFFF)
      else match s.latch.find? (fun l => l.1 = off / 8 * 8) with
        | some l => ({ s with latch := rest }, l.2.setWidth 64)
        | none => (s, w >>> 32)

/-- R71: one item at the masthead, which passes it on, or at the crew node it is for. -/
def execRelayedHostTraffic (item : RelayItem) (s : State) : Res :=
  let s := s.arrived (.fleet (.relay item))
  if s.held then .refused .notPending
  else if s.isMast then
    let listed := fun (idx : Fin 64) => decide (s.fld (fFleet idx.val) ≠ 0) && idx.val != 0
    match item with
    | .fetch idx addr len => if listed idx then .next (s.crewRequest idx false addr len 0) else .refused .notPending
    | .read idx addr len => if listed idx then .next (s.crewRequest idx false addr len 0) else .refused .notPending
    | .write idx addr len value => if listed idx then .next (s.crewRequest idx true addr len value) else .refused .notPending
    | .vector idx v => if listed idx then .next (s.sendMsix (idx.val * 32 + v % 32)) else .refused .notPending
    | .regReadData idx off value =>
      if s.rec_.cwReads.contains (idx.val, off) then
        .next (State.emit { s with rec_ := { s.rec_ with cwReads := s.rec_.cwReads.erase (idx.val, off) } } (.readData value))
      else .next s
    | .fetchData idx data => if listed idx then .next (s.toCrew idx.val (.fetchData idx data)) else .refused .notPending
    | .readData idx data => if listed idx then .next (s.toCrew idx.val (.readData idx data)) else .refused .notPending
    | .doorbell idx off wide value =>
      if listed idx then .next (s.toCrew idx.val (.doorbell idx off wide value)) else .next (s.incFld fDBDROP)
    | .regRead idx off wide =>
      if listed idx then
        .next (State.toCrew { s with rec_ := { s.rec_ with cwReads := s.rec_.cwReads ++ [(idx.val, off)] } } idx.val (.regRead idx off wide))
      else .next (s.emit (.readData 0))
    | .regWrite idx off wide value => if listed idx then .next (s.toCrew idx.val (.regWrite idx off wide value)) else .next s
    | .outside _ _ _ _ => .refused .notPending
    | .windows _ => .refused .notPending
  else if s.isCrew then
    match item with
    | .doorbell _ off _ value => .next (s.bell off value)
    | .regRead idx off wide =>
      let (s, v) := s.mmioRead off wide
      .next (s.fleetTo 0 (.relay (.regReadData idx off v)))
    | .regWrite _ off wide value => .next (s.mmioWrite .host off wide value)
    | .outside _ addr value wins => .next (s.outsideHere addr value wins)
    | .windows wins => .next { s with rec_ := { s.rec_ with mastWins := some wins } }
    | .fetchData _ _ => .next s
    | .readData _ _ => .next s
    | _ => .refused .notPending
  else .refused .notPending

/-! ## Crew windows (R74, R75, R636) -/

/-- The window, and the BAR0 offset that its aperture selects; none where the selection reads as 0. -/
def State.crewPlace (s : State) (off : Nat) : Nat × Option Nat :=
  let o := off - 0x1000000
  let n := o / 0x40000 % 64
  let a := o / 0x10000 % 4
  let sel := getBits (s.word (0x10800 + 8 * n)).toNat (16 * a) 16
  (n, if sel < 0x100 then some (sel * 65536 + o % 65536) else none)

/-- R75, R636: a read in the crew windows. Window 0 answers at once. -/
def execCrewWindowRead (off : Nat) (wide : Bool) (s : State) : Res :=
  if off < 0x1000000 ∨ 0x2000000 ≤ off ∨ s.isCrew then .refused .notPending
  else if s.configRetry then .next s
  else
    let (n, p) := s.crewPlace off
    match p with
    | none => .next (s.emit (.readData 0))
    | some o =>
      if n = 0 then let (s, v) := s.mmioRead o wide; .next (s.emit (.readData v))
      else if ¬ s.isMast ∨ s.fld (fFleet n) = 0 then .next (s.emit (.readData 0))
      else .next (State.toCrew { s with rec_ := { s.rec_ with cwReads := s.rec_.cwReads ++ [(n, o)] } } n (.regRead (Fin.ofNat 64 n) o wide))

/-- R636: a write through the crew windows. DESIGN CHOICE (log 42): a write through an aperture that selects the crew windows is dropped,
where R74 says only that a read gives 0. -/
def execCrewWindowWrite (off : Nat) (wide : Bool) (value : BitVec 64) (s : State) : Res :=
  if off < 0x1000000 ∨ 0x2000000 ≤ off ∨ s.isCrew then .refused .notPending
  else if s.pw.booting then .next s
  else
    let (n, p) := s.crewPlace off
    match p with
    | none => .next s
    | some o =>
      if n = 0 then .next (s.mmioWrite .host o wide value)
      else if ¬ s.isMast ∨ s.fld (fFleet n) = 0 then .next s
      else .next (s.toCrew n (.regWrite (Fin.ofNat 64 n) o wide value))

/-- A crew-window write to an index that has not left the node. -/
def State.heldWrite (s : State) (idx : Nat) : Option Packet :=
  s.portQ.find? (fun k => match k.body with
    | .fleet (.relay (.regWrite i _ _ _)) => i.val == idx
    | _ => false)

/-- R75: HIF_RLYTO ends a crew-window read without its answer, or drops a write that has not reached the crew node; a hold suspends the
timer (R539). -/
def execCrewReadTimeout (idx : Fin 64) (s : State) : Res :=
  match s.rec_.cwReads.find? (fun r => r.1 = idx.val) with
  | none =>
    match s.heldWrite idx.val with
    | none => .refused .notPending
    | some k => if s.held then .refused .notPending else .next { s with portQ := s.portQ.erase k }
  | some r =>
    if s.held then .refused .notPending
    else
      let s : State := { s with rec_ := { s.rec_ with cwReads := s.rec_.cwReads.erase r } }
      .next (((s.emit (.readData (BitVec.allOnes 64))).setFld ⟨0x10630, idx.val, 1⟩ 1).fire 0x00B 0xF0 idx.val)

/-! ## Relay loss and hold (R76, R539) -/

/-- R76: the relay has been lost for longer than HIF_RLYTO. -/
def execRelayLost (s : State) : Res :=
  if s.isCrew ∧ ¬ s.held ∧ ¬ s.rec_.relayLost then .next { s with rec_ := { s.rec_ with relayLost := true } }
  else .refused .notPending

/-- R76: the relay returns. DEDUCED: resuming at retire gives up the uncommitted steps as a rollback does. -/
def execRelayReturn (s : State) : Res :=
  if s.rec_.relayLost then
    let held := s.heldVecs
    let s : State := { s with rec_ := { s.rec_ with relayLost := false }, heldVecs := [] }
    .next (held.foldl State.vector (State.flushRecs (s.rollback ((s.fld fEPOCH + 1) % 2 ^ 32)) []))
  else .refused .notPending

/-- R539: a crew node takes RELAY_HOLD. -/
def execRelayHold (s : State) : Res :=
  let s := s.arrived (.fleet .relayHold)
  if s.isCrew then .next { s with pw := { s.pw with relayHold := true } } else .refused .notPending

/-- R539: a crew node takes RELAY_RESUME; one that comes after the hold has ended changes nothing. -/
def execRelayResume (s : State) : Res :=
  let s := s.arrived (.fleet .relayResume)
  if s.isCrew then .next { s with pw := { s.pw with relayHold := false } } else .refused .notPending

/-- R539: 100 µs have passed without RELAY_RESUME. -/
def execRelayHoldTimeout (s : State) : Res :=
  if s.pw.relayHold then .next { s with pw := { s.pw with relayHold := false } } else .refused .notPending

end Sys2Proof.Machine
end

