-- ==== Sys2Proof/Machine/Fused.lean ====
section
/-! DEFINITION. MMAF (R149 to R151, R209, R210): an MMA, its close, an element program and a handoff for each closed core. -/

namespace Sys2Proof.Machine
open Sys2Proof.Fp Sys2Proof.Mx

/-- A finding of the matrix engine's checkers (SOURCE 0 to 2, R510), or of a memory; the others are the element program's. -/
def evMatrix : HwEv → Bool
  | .upset u => decide (u.by_.val < 3)
  | _ => true

/-- Whether the program reads a pair: an FP64 chain, or an exact chain that closes into one (R113, R149). -/
def State.fusedPair (s : State) (w : Nat) : Bool :=
  match fmtOf (mFa w) with
  | some fa => match accOf s.exact fa with
    | .fp64 => true
    | .wide => mCtgt w
    | .fp32 => false
  | none => false

/-- The program of an MMAF on a core. -/
def State.fusedCall (s : State) (t th w ext c : Nat) : EpCall :=
  ⟨c, mTr w, none, s.fusedPair w, false, s.greg t th (getBits ext 0 5), s.greg t th (getBits ext 5 5), none⟩

/-- The fault of an MMAF when it issues (R210), the lowest cause first. -/
def State.fusedFault (s : State) (t th w ext : Nat) (d : DRef) : Option Nat :=
  let o := s.mmaOp t th w
  let cores := mmaTargets w
  let e := s.fusedCall t th w ext (cores.headD 0)
  let oddPair := s.fusedPair w && mTr w % 2 == 1
  let (h, ops) := s.epLoad t e.prog
  let tooMany := match s.desc? d, d with
    | some x, .ring _ _ => s.rngLimit x t (cores.length * progDraws h ops)
    | _, _ => false
  let l : List (Option Nat) := [s.mmaFault t d o, if oddPair then some 0x0406 else none, s.epFault t d e,
    if getBits ext 36 28 ≠ 0 ∨ (SM.getD applyTr.emptyGroup s.live.groups (getBits ext 10 10)).members = [] then some 0x0601 else none,
    if tooMany then some 0x060A else none]
  (l.filterMap id).foldl (fun m c => match m with
    | none => some c
    | some x => some (min x c)) none

/-- The handoff of one closed core: the `i`-th, of chunk CHUNK + i. It matches its operation, and its program runs when a slot is reserved
(R407). -/
def State.fusedCore (s : State) (t th w ext i c : Nat) (d : DRef) (ev : List HwEv) : State :=
  let e := s.fusedCall t th w ext c
  let (h, ops) := s.epLoad t e.prog
  let hand : Handoff := ⟨t, th, c, mTr w, e.pair, d, getBits ext 10 10, getBits ext 20 16 + i, s.tagOf d, h, ops, e.gv, ev, false, [], none⟩
  let s : State := { s with coll := { s.coll with hands := s.coll.hands ++ [hand] } }
  (s.tryMatch hand).reserveAll

/-- R149. A NaN under watch keeps what follows it from issuing. -/
def State.runMmaf (i : VxtIssue) (order : List Nat) (ev : List HwEv) (s : State) (d : DRef) : VRes :=
  let t := i.tile.val
  let th := i.thread.val
  let w := i.word.toNat
  let ext := i.ext.toNat
  match s.fusedFault t th w ext d with
  | some c => .fault s c
  | none =>
    if s.trBusy t (mCores w) (mTr w) (s.fusedPair w) then .wait
    else
      let (s, ok) := s.hwEvs (s.tagOf d) (ev.filter evMatrix)
      if ¬ ok then .ok s
      else
        let (s, es) := s.mmaChecks (s.tagOf d) t (s.mmaOp t th w) (ev.filter evMatrix)
        let x := s.mma t order (s.mmaOp t th w)
        let s := x.st.openElems t (mTr w) (decide (mFa w = 0)) es
        let y := s.closeAll t (mTr w) (mCtgt w) (mCores w)
        let s := y.st.progFlags t th d (x.fl ||| y.fl) 0 (nanList w i.pc.toNat (x.hits ++ y.hits))
        .ok ((mmaTargets w).zipIdx.foldl (fun s c =>
          if (s.thr t th).run = some d ∧ ¬ (s.thr t th).halted then s.fusedCore t th w ext c.2 c.1 d (if c.2 = 0 then ev.filter (fun e => !evMatrix e) else []) else s) s)

def execMmaf (i : VxtIssue) (order : List Nat) (ev : List HwEv) (s : State) : Res :=
  s.vxt i (fun op => op = 0x48) (State.runMmaf i order ev)

end Sys2Proof.Machine
end

