-- ==== Sys2Proof/Machine/Locker.lean ====
section
/-! DEFINITION. Buddy trails, spare takeover, copy-on-write copies, the stream-7 descriptors and the locker (chapter 15). -/

namespace Sys2Proof.Machine

/-! ## Trails (R466, R474 to R477, R481, R507) -/

/-- Where a page of rank `r` lies on this node: its own page for its own rank, the mirror group of R466 for a rank whose buddy the
node is. -/
def State.trailPage (s : State) (r page : Nat) : Option Nat :=
  if r = s.fld fRANK then some page
  else
    let n := s.fleetSize
    let kind := if 0 < buddyCount n ∧ buddyRank n r 0 = s.fld fRANK then 3
      else if 1 < buddyCount n ∧ buddyRank n r 1 = s.fld fRANK then 4 else 0
    if kind = 0 then none
    else
      let a := page * 4096
      match (s.groupsOf 1).idxOf? (groupOf a) with
      | none => none
      | some i => (s.groupsOf kind)[i]?.map (fun g => putBits a 30 4 g / 4096)

/-- The bytes of a part list, when the parts of a page or record are all there. -/
def joinParts (n : Nat) (l : List (Nat × Nat × List Byte)) (page : Nat) : Option (List Byte) :=
  ((List.range n).mapM (fun k => (l.find? (fun p => p.1 = page ∧ p.2.1 = k)).map (·.2.2))).map List.flatten

/-- The key of record parts among the parts received. -/
def regsKey : Nat := 2 ^ 27

def State.rxOf (s : State) (h : TrailHdr) : TrailRx :=
  (s.trailRx.find? (fun t => t.rank = h.rank.toNat ∧ t.tag = h.tag)).getD ⟨h.rank.toNat, h.tag, [], [], false, false⟩

def State.setRx (s : State) (x : TrailRx) : State :=
  { s with trailRx := (s.trailRx.filter (fun (t : TrailRx) => ¬ (t.rank = x.rank ∧ t.tag = x.tag))) ++ [x] }

/-- RESEND for a page, or for the record (PART 1). -/
def State.askAgain (s : State) (h : TrailHdr) (page part : Nat) : State :=
  s.send ⟨5, h.src, 0xFFFF, 32, .trail { s.trailHdr 3 h.src h.tag page with rank := h.rank, part := part } []⟩

/-- SECURED for each trail of a rank whose record and every page begun are written, once no mirror page of the rank is stale (R476, R477). -/
def State.maybeSecured (s : State) (h : TrailHdr) : State :=
  let r := h.rank.toNat
  if s.rec_.stale.any (fun p => s.mirrorRank (s.groupKind (groupOf (p * 4096))) = some r) then s
  else (s.trailRx.filter (fun (x : TrailRx) => decide (x.rank = r) && x.regs && x.bad.isEmpty && x.parts.isEmpty && !x.secured)).foldl (fun s x =>
    { s with trailRx := (s.trailRx.filter (fun (t : TrailRx) => ¬ (t.rank = r ∧ t.tag.toNat ≤ x.tag.toNat))) ++ [{ x with secured := true }] }.send
      ⟨5, h.src, 0xFFFF, 32, .trail { s.trailHdr 2 h.src x.tag 0 with rank := h.rank } []⟩) s

/-- R476: a page or a record part reaches a buddy, a bound spare, or the owner that asked for the page (R303). The last part
carries the CRC. -/
def execTrailPacketReceive (port : Fin 16) (h : TrailHdr) (data : List Byte) (s : State) : Res :=
  let s := s.arrived (.trail h data)
  match s.ingress port.val h.src h.dst h.job with
  | some s => .next s
  | none =>
    if h.kind = 0 then
      match s.trailPage h.rank.toNat h.page with
      | none => .next s
      | some page =>
        let x := s.rxOf h
        let x := { x with parts := (x.parts.filter (fun p => ¬ (p.1 = h.page ∧ p.2.1 = h.part))) ++ [(h.page, h.part, data)] }
        match joinParts 4 x.parts h.page with
        | none => .next (s.setRx x)
        | some bs =>
          let x := { x with parts := x.parts.filter (fun p => p.1 ≠ h.page), bad := x.bad.filter (· ≠ h.page) }
          if h.part = 3 ∧ BitVec.ofNat 32 (Sha.crc32 bs) = h.crc then
            let s := { s.setRx x with mem := memWrite s.mem (page * 4096) bs,
                                      rec_ := { s.rec_ with stale := s.rec_.stale.filter (· ≠ page),
                                                            needPages := s.rec_.needPages.filter (· ≠ page) } }
            .next (s.maybeSecured h)
          else .next ((s.setRx { x with bad := h.page :: x.bad }).askAgain h h.page 0)
    else if h.kind = 1 then
      let x := s.rxOf h
      let x := { x with parts := (x.parts.filter (fun p => ¬ (p.1 = regsKey ∧ p.2.1 = h.page))) ++ [(regsKey, h.page, data)] }
      if h.crc = 0 then .next (s.setRx x)
      else match joinParts (h.page + 1) x.parts regsKey with
        | none => .next (s.setRx x)
        | some bs =>
          let x := { x with parts := x.parts.filter (fun p => p.1 ≠ regsKey) }
          if BitVec.ofNat 32 (Sha.crc32 bs) = h.crc then .next ((s.setRx { x with regs := true }).maybeSecured h)
          else .next ((s.setRx x).askAgain h 0 1)
    else .refused .notPending

/-- R476, R471, R481, R507: the owner takes SECURED. -/
def execSecured (port : Fin 16) (h : TrailHdr) (s : State) : Res :=
  let s := s.arrived (.trail h [])
  match s.ingress port.val h.src h.dst h.job with
  | some s => .next s
  | none =>
    if h.kind ≠ 2 then .refused .notPending
    else
      let from_ := fun (b : Nat) => s.nodeAt (s.idxOfRank (buddyRank s.fleetSize (s.fld fRANK) b)) == h.src
      let hit := fun (t : Trail) => t.tag == h.tag && from_ t.buddy
      let full := (s.trails.filter (fun t => hit t && t.full)).map (·.buddy)
      let rb := s.rec_.rebuild.filter (fun b => !full.contains b)
      let s := { s with trails := s.trails.filter (fun (t : Trail) => !hit t), rec_ := { s.rec_ with rebuild := rb } }
      let s := if rb.isEmpty then s.setFld fREBUILD 0 else s
      .next s.finishDrain

/-- R476: RESEND. The owner sends its committed page again, or its record; a buddy sends the mirror's page back to the owner that
asks for it (R303). -/
def execResend (port : Fin 16) (h : TrailHdr) (s : State) : Res :=
  let s := s.arrived (.trail h [])
  match s.ingress port.val h.src h.dst h.job with
  | some s => .next s
  | none =>
    if h.kind ≠ 3 then .refused .notPending
    else
      let hd := { s.trailHdr 0 h.src h.tag h.page with rank := h.rank }
      if h.part = 1 then
        .next { s with portQ := s.portQ ++ trailPkts h.src { hd with kind := 1, page := 0 } (Config.regRecord h.tag.toNat) }
      else if h.rank.toNat = s.fld fRANK then
        .next { s with portQ := s.portQ ++ trailPkts h.src hd (s.committedPage h.page) }
      else match s.trailPage h.rank.toNat h.page with
        | some p => .next { s with portQ := s.portQ ++ trailPkts h.src hd (s.rdBytes (p * 4096) 4096) }
        | none => .next s

/-! ## Takeover (R69, R480, R481) -/

/-- The buddy that is the source sends its mirror of a rank with the register-state record as a full trail (R480). -/
def State.sendMirror (s : State) (r kind : Nat) (dst : BitVec 12) (tag : BitVec 64) : State :=
  let pages := ((s.mem.map (fun c => c.1 / 4096)).eraseDups).filter (fun p => s.groupKind (groupOf (p * 4096)) = kind)
  let hd := fun (k : BitVec 4) (p : Nat) => { s.trailHdr k dst tag p with rank := BitVec.ofNat 12 r }
  let pk := pages.flatMap (fun p => trailPkts dst (hd 0 (s.ownerPage kind p)) (s.rdBytes (p * 4096) 4096))
    ++ trailPkts dst (hd 1 0) (Config.regRecord tag.toNat)
  { s with portQ := s.portQ ++ pk }

/-- The registers that place a node's rings and pointer records: HIF_SQCFGn, HIF_CQCFGn and HIF_PTRBASE. -/
def isRingCfg (off : Nat) : Bool :=
  decide (off % 8 = 0 ∧ ((0x10000 ≤ off ∧ off < 0x10280) ∨ off = 0x10600))

/-- A spare is bound to a rank: every group wiped, and the rank's index, rings with their pointers and counts, and epoch taken (R69). A margin test
on it is aborted (R521). -/
def State.bindSelf (s : State) (rank idx epoch : Nat) (pointers cqs : List (Nat × Nat × Nat)) (rings : List (Nat × BitVec 64)) :
    State :=
  let s := { s with mem := [], images := [], trailRx := [], trails := [], descs := [], recs := [], steps := [] }
  let s := pointers.foldl (fun s p =>
    s.setRing p.1 { s.ring p.1 with tail := BitVec.ofNat 32 p.2.1, head := BitVec.ofNat 32 p.2.2, retire := BitVec.ofNat 32 p.2.2 }) s
  let s := rings.foldl (fun s p => if isRingCfg p.1 then s.setWord p.1 p.2 else s) s
  let s := cqs.foldl (fun s p => s.setCring p.1 ⟨BitVec.ofNat 32 p.2.1, BitVec.ofNat 32 p.2.2⟩) s
  let s := s.abortMargin
  let s := { s with rec_ := { s.rec_ with takenOver := true, waitGo := true } }
  ((s.setFld fRANK rank).setFld fINDEX idx).setFld fEPOCH epoch

/-- The masthead rewrites the fleet for a bound spare: its node takes the rank's index, its former index is empty (R480). -/
def State.moveSpare (s : State) (rank : Nat) : State :=
  match s.mh.bound.find? (fun b => b.1 = rank) with
  | none => s
  | some (_, n) =>
    let i := s.idxOfRank rank
    let node := s.fld (fFleet n)
    let s := (s.setFld (fFleet i) node).setFld (fFleet n) 0
    let s := { s with mh := { s.mh with bids := SM.setD 0 s.mh.bids n 0 } }
    s.sendMap

/-- R480, steps 3 to 5: on the masthead the fleet map is rewritten; the spare takes the rank; the source buddy sends the mirror.
`source` is the ordinal of the buddy that is the source. -/
def execSpareBind (rank : Nat) (idx : Fin 64) (epoch : BitVec 32) (source : Fin 2) (pointers cqs : List (Nat × Nat × Nat))
    (rings : List (Nat × BitVec 64)) (s : State) : Res :=
  let s := s.arrived (.fleet (.bind rank idx.val epoch))
  let n := s.fleetSize
  let kind := 3 + source.val
  let amSource : Bool := s.holdsRank && decide (source.val < buddyCount n) && decide (buddyRank n rank source.val = s.fld fRANK)
    && s.trailRx.any (fun t => t.rank = rank ∧ t.secured ∧ t.tag = s.comm.lastTag)
  let amMast := !s.isCrew && s.mh.bound.any (fun b => b.1 = rank)
  if amMast ∨ amSource then
    let s := if amMast then s.moveSpare rank else s
    .next (if amSource then s.sendMirror rank kind (s.nodeAt idx.val) s.comm.lastTag else s)
  else if s.isCrew ∧ ¬ s.holdsRank ∧ rank < n then .next (s.bindSelf rank idx.val epoch.toNat pointers cqs rings)
  else .refused .notPending

/-- The descriptors of a ring that the rank had committed and not retired: those from retire up to the count `e` (R69). -/
def State.inherit (s : State) (r : Fin 64) (e : Nat) : State :=
  let a := (s.ring r.val).retire.toNat
  { s with descs := s.descs ++ (List.range (min ((e + 2 ^ 32 - a) % 2 ^ 32) 65536)).map (fun k =>
      (⟨.ring r ((a + k) % 2 ^ 32), 0, 0, 0, false, [], .finished, 0, 0, 0, true, false, 0, []⟩ : InDesc)) }

/-- R480, step 6, and R69: the trail is secured at the spare, which installs the register state and posts the records that had not
reached the host; retire then passes the rank's committed descriptors, which end before the counts that the buddy kept. The masthead counts the rank taken
over, and owes AFTERTAKE's checkpoint (R492). -/
def execSpareReady (idx : Fin 64) (regs : RegState) (cells : List (Nat × Byte)) (waiting : Waiting)
    (s : State) : Res :=
  let s := s.arrived (.fleet (.spareReady idx.val))
  if s.rec_.takenOver ∧ s.myIdx = idx.val then
    let mem := cells.foldl (fun m c => if c.1 < memSize ∧ s.groupKind (groupOf c.1) = 1 then SM.setD 0 m c.1 c.2 else m) s.mem
    let s := { s with mem := mem, comm := regs, live := regs, rec_ := { s.rec_ with takenOver := false } }
    let s := waiting.ends.foldl (fun s e => s.inherit e.1 e.2) s
    .next ((s.fleetTo 0 (.spareReady idx.val)).flushRecs waiting.recs)
  else
    match s.mh.bound.find? (fun b => s.idxOfRank b.1 = idx.val) with
    | some (r, _) =>
      .next { s with mh := { s.mh with bound := s.mh.bound.filter (fun (b : Nat × Nat) => b.1 ≠ r),
                                       lostRanks := s.mh.lostRanks.filter (· ≠ r),
                                       aftertake := s.mh.aftertake || s.flag fAFTERTAKE } }
    | none => .refused .notPending

/-- Full trails to the buddies under rebuild (R481). -/
def State.rebuildTrails (s : State) : State :=
  s.rec_.rebuild.foldl (fun s b => s.sendTrail s.comm.lastTag b s.protectedPages true) s

/-- R479, R480, R560: GO. The masthead sends it once every lost rank has been taken over, and not in Brace. -/
def execGo (s : State) : Res :=
  let s := s.arrived (.fleet .go)
  if ¬ s.rec_.waitGo then .refused .notPending
  else
    let free : State → State := fun s => { s with rec_ := { s.rec_ with waitGo := false } }.rebuildTrails
    if s.isCrew then .next (free s)
    else if s.mh.bound ≠ [] ∨ s.mh.lostRanks ≠ [] ∨ s.mh.unsecured ∨ s.mh.noSpare ∨ s.rec_.needPages ≠ [] ∨ s.flag fBRACE then .next s
    else .next (free (s.broadcast .go))

/-! ## Copy-on-write copies (R468, R470, R490) -/

/-- R468, R470: the page is copied to an image slot before the first write of a step, or of a checkpoint's hold, to it. A write that must wait
for a slot leaves the abandoning of the checkpoint to this command (log 55). -/
def execCowImageCopy (tag : ImgTag) (page : Nat) (ev : List HwEv) (s : State) : Res :=
  let due : Bool := match tag with
    | .step t => s.covered page && s.steps.any (fun x => x.tag = t) && t ≠ 0
    | .hold => s.groupKind (groupOf (page * 4096)) == 1 && s.ckpt.any (fun c => !c.written.contains page)
  if ¬ due ∨ 2 ^ 27 ≤ page then .refused .notPending
  else if s.images.any (fun i => i.tag = tag ∧ i.page = page) then .next s
  else
    let (s, ok) := s.hwEvs (match tag with
      | .step t => t
      | .hold => 0) ev
    if ¬ ok then .next s
    else match s.takeImage tag page with
      | .ok s => .next s
      | .error e => .next (s.giveSlots.noteErr e)

/-! ## The locker writer (R487 to R491, R495) -/

def segBase : Nat := 0x4000000

/-- The offset in the slot of the page at a position. -/
def State.slotOff (s : State) (c : CkptRun) (q : Nat) : Nat :=
  if c.cls = 0 then segBase + q * 4096
  else (List.range q).foldl (fun n k => n + pageBytesIn c.cls c.regs (s.segPage k)) segBase

/-- The position of a protected page among the segments. -/
def State.pagePos (s : State) (page : Nat) : Nat :=
  let a := page * 4096
  let i := ((s.groupsOf 1).idxOf? (groupOf a)).getD 0
  let j := if (s.fld fSPREAD).testBit (groupOf a) then
      let r := (getBits a 34 5) <<< 30 ||| getBits a 0 30
      getBits r 18 17 * 2 + getBits r 12 1
    else getBits a 12 18
  (i * 32 + s.stackOf a) * segPages + j

def State.totalPages (s : State) : Nat := s.protCount * 32 * segPages

/-- Bytes into the checkpoint's picture of its slot. -/
def putSlot (m : SM Byte) (a : Nat) (bs : List Byte) : SM Byte := memWrite m a bs

/-- The 4 KiB blocks that cover a range of the slot, as written so far. -/
def slotBytes (m : SM Byte) (a n : Nat) : List Byte :=
  (List.range (((a + n - 1) / 4096 - a / 4096 + 1) * 4096)).map (fun i => SM.getD 0 m (a / 4096 * 4096 + i))

/-- The first unwritten position from `q` on, within `n` tries. -/
def State.nextPos (s : State) (c : CkptRun) : Nat → Nat → Option Nat
  | 0, _ => none
  | n + 1, q => if c.written.contains (s.segPage q) then s.nextPos c n (q + 1) else some q

/-- The segment table: offset, length and SHA-384 of each segment (R487). -/
def State.segTable (s : State) (c : CkptRun) (regLen : Nat) : List (Nat × Nat × List Byte) :=
  let seg := fun (off len : Nat) => (off, len, Sha.sha384 ((List.range len).map (fun i => SM.getD 0 c.data (off + i))))
  seg 65536 regLen :: (List.range (s.protCount * 32)).map (fun k =>
    let a := s.slotOff c (k * segPages)
    seg a (s.slotOff c ((k + 1) * segPages) - a))

def tableBytes (t : List (Nat × Nat × List Byte)) : List Byte :=
  t.flatMap (fun e => leBytes 8 e.1 ++ leBytes 8 e.2.1 ++ e.2.2)

/-- The commit record (R488). -/
def State.commitRecord (s : State) (c : CkptRun) (tdig : List Byte) : List Byte :=
  let n := 0x4C4B5243 ||| c.cls <<< 32 ||| c.slot <<< 36 ||| (c.gen % 2 ^ 64) <<< 64 ||| c.tag.toNat <<< 128
    ||| c.stepCnt.toNat <<< 192 ||| (s.fld fRANK) <<< 256 ||| (1 + s.protCount * 32) <<< 268 ||| s.fleetSize <<< 280
    ||| s.bidHash.toNat <<< 288 ||| s.fld fJOBSTAMP <<< 352 ||| s.protCount <<< 368 ||| leNat tdig <<< 384 ||| c.sdig.toNat <<< 768
  leBytes 4096 n

/-- Sends the locker the present command of the checkpoint, unless writing is paused or the record waits for agreement. -/
def State.ckptSend (s : State) (c : CkptRun) : State :=
  let lba := s.slotLba c.slot
  if c.paused ∨ (c.phase = 5 ∧ c.needDig) then { s with ckpt := some { c with held := true } }
  else
    let regs := Config.regRecord c.tag.toNat
    match c.phase with
    | 1 => s.lkSend c 1 lba true (List.replicate 4096 0)
    | 2 =>
      match c.cur with
      | none =>
        let data := putSlot c.data 65536 regs
        let bs := slotBytes data 65536 (max regs.length 1)
        s.lkSend { c with data := data } 1 (lba + 16) false bs
      | some page =>
        let content := match s.images.find? (fun i => i.tag = .hold ∧ i.page = page) with
          | some i => (List.range 4096).map (SM.getD 0 i.bytes)
          | none => s.committedPage page
        let bs := packPage c.cls c.regs page content
        let off := s.slotOff c (s.pagePos page)
        let data := putSlot c.data off bs
        let out := slotBytes data off bs.length
        s.lkSend { c with data := data } 1 (lba + off / 4096) false out
    | 3 =>
      let t := tableBytes (s.segTable c regs.length)
      let t := t ++ List.replicate ((4096 - t.length % 4096) % 4096) 0
      s.lkSend c 1 (lba + 1) false t
    | 5 =>
      let t := tableBytes (s.segTable c regs.length)
      s.lkSend c 1 lba true (s.commitRecord c (Sha.sha384 t))
    | _ => s.lkSend c 0 0 false []

/-- The next data unit, held pages first, or the segment table when every page is written (R490). -/
def State.ckptUnit (s : State) (c : CkptRun) : State :=
  match s.images.find? (fun i => i.tag = .hold ∧ ¬ c.written.contains i.page) with
  | some i => s.ckptSend { c with phase := 2, cur := some i.page }
  | none =>
    match s.nextPos c (s.totalPages - c.seq) c.seq with
    | some q => s.ckptSend { c with phase := 2, seq := q, cur := some (s.segPage q) }
    | none => s.ckptSend { c with phase := 3, cur := none }

/-- Every rank holder has reported done: CKP_GEN rises (R489). -/
def State.takeCkptDone (s : State) (idx gen : Nat) : State :=
  let l := if s.mh.ckptDone.contains idx then s.mh.ckptDone else s.mh.ckptDone ++ [idx]
  if (List.range (max s.fleetSize 1)).all (fun r => l.contains (s.idxOfRank r)) then
    { s with mh := { s.mh with ckptDone := [], ckptOpen := false } }.setFld fGEN gen
  else { s with mh := { s.mh with ckptDone := l } }

/-- A command of the writer has completed. -/
def State.ckptNext (s : State) (c : CkptRun) : State :=
  let c := { c with retries := 0 }
  match c.phase with
  | 1 => s.ckptSend { c with phase := 2, cur := none }
  | 2 =>
    match c.cur with
    | none => s.ckptUnit c
    | some page =>
      let s : State := { s with images := s.images.filter (fun (i : Image) => ¬ (i.tag = ImgTag.hold ∧ i.page = page)) }
      s.ckptUnit { c with written := page :: c.written }
  | 3 => s.ckptSend { c with phase := 4 }
  | 4 => s.ckptSend { c with phase := 5 }
  | 5 => s.ckptSend { c with phase := 6 }
  | _ =>
    let s := s.dropCkpt
    let s := ((s.setFld (fLKVALID c.slot) 1).setFld (fLKGEN c.slot) c.gen).setFld (fLKCOMPACT c.slot) c.cls
    if s.isCrew then s.fleetTo 0 (.ckptDone s.myIdx c.gen) else s.takeCkptDone s.myIdx c.gen

/-- R485: the locker's DMA reaches only the pages that the PRPs of the outstanding command name. -/
def State.lockerDma (s : State) (write : Bool) (addr : Nat) (data : List Byte) : State :=
  let n := max data.length 1
  let ok := s.ckpt.any (fun c => !c.held && (pagesOf addr n).all c.prps.contains)
  let s := if ok ∧ write then { s with mem := memWrite s.mem addr data } else s
  s.emit (.lockerDma addr ok)

/-- R484, R485, R489, R495: a completion from the locker, or its DMA. A third failure of a write abandons the generation fleet-wide. -/
def execLockerCompletion (r : LkDone) (s : State) : Res :=
  match r, s.ckpt with
  | .dma write addr data, _ => .next (s.lockerDma write addr data)
  | _, none => .refused .notPending
  | r, some c =>
    if c.held then .refused .notPending
    else match r with
    | .ok => .next (s.ckptNext c)
    | .error st =>
      if c.retries < 2 then .next (s.ckptSend { c with retries := c.retries + 1 })
      else .next ((s.abandonCkpt fLOCKERR).fire 0x007 0xB0 st)
    | _ => .refused .notPending

/-- The writer goes on when Brace ends or the replicas agree. -/
def State.ckptGoOn (s : State) (f : CkptRun → CkptRun) : State :=
  match s.ckpt with
  | some c => if c.held then s.ckptSend (f c) else { s with ckpt := some (f c) }
  | none => s

/-- R489, R495: a member has written its generation, or has abandoned it. -/
def execCheckpointDone (idx : Fin 64) (gen : Nat) (abandoned : Bool) (s : State) : Res :=
  let s := s.arrived (.fleet (if abandoned then .ckptAbandon gen else .ckptDone idx.val gen))
  if abandoned then
    if s.isCrew then .next (if s.ckpt.any (fun c => c.gen = gen) then s.dropCkpt else s)
    else .next (if s.mh.ckptOpen ∧ gen = s.fld fGEN + 1 then s.ckptLost else s)
  else if ¬ s.isCrew ∧ s.mh.ckptOpen ∧ gen = s.fld fGEN + 1 then .next (s.takeCkptDone idx.val gen)
  else .refused .notPending

/-! ## Stream-7 descriptors (R493, R494, R498 to R500) -/

def causeBAD_CKP : Nat := 0x0F06

/-- Every field that R499 does not give is 0; ARG0 is below `a0`, and `rest` allows ARG1, ARG2 and PROG. -/
def plainCkp (raw : BitVec 512) (a0 : Nat) (rest : Bool) : Bool :=
  decide (dArg raw 0 < a0) && decide (dArg raw 3 = 0) && (rest || (decide (dArg raw 1 = 0) && decide (dArg raw 2 = 0) && decide (dProg raw = 0)))
    && decide (dMask raw = 0)

/-- R499: CKPT. -/
def execCkpt (d : DRef) (s : State) : Res :=
  s.start d (fun o => o = 0x500) (fun x s =>
    if s.isCrew then s.execError d 0x0F02
    else if ¬ plainCkp x.raw 2 false then s.execError d causeBAD_CKP
    else (s.updStep x.step (fun y => { y with ckpts := y.ckpts ++ [(d, dArg x.raw 0)] })).finish d stOK ((s.fld fGEN + 1) % 2 ^ 32))

/-- R498: DRAIN_RANK. -/
def execDrainRank (d : DRef) (s : State) : Res :=
  s.start d (fun o => o = 0x502) (fun x s =>
    let i := dArg x.raw 0
    if s.isCrew then s.execError d 0x0F02
    else if ¬ plainCkp x.raw 64 false then s.execError d causeBAD_CKP
    else if (i ≠ 0 ∧ s.fld (fFleet i) = 0) ∨ (i = s.myIdx ∧ ¬ s.holdsRank) ∨ (i ≠ s.myIdx ∧ (s.rankOf i).isNone) then
      s.execError d causeBAD_CKP
    else (s.updStep x.step (fun y => { y with drains := y.drains ++ [i] })).finish d stOK 0)

/-- The slot that CKP_LKSTAT shows valid with a generation. -/
def State.slotOfGen (s : State) (g : Nat) : Option Nat := [0, 1].find? (fun k => s.flag (fLKVALID k) && s.fld (fLKGEN k) == g)

/-- R488: a valid commit record. -/
def validRecord (img : LkImage) : Bool :=
  decide (crF img.record 0 32 = 0x4C4B5243)
    && decide (leNat (Sha.sha384 (tableBytes (img.table.map (fun e => (e.1, e.2.1, leBytes 48 e.2.2.toNat))))) = crF img.record 384 384)
    && decide (img.table.length = img.segs.length)
    && (img.table.zip img.segs).all (fun p => decide (leNat (Sha.sha384 p.2) = p.1.2.2.toNat) && decide (p.2.length = p.1.2.1))

/-- R493: RESUME. The image is what the locker returns, none for a read error. -/
def execResume (d : DRef) (img : Option LkImage) (s : State) : Res :=
  s.start d (fun o => o = 0x501) (fun x s =>
    let g := dArg x.raw 0
    let others := s.descs.any (fun y => y.step = x.step ∧ dOp y.raw ≠ 3 ∧ y.ref ≠ d)
    if ¬ plainCkp x.raw (2 ^ 64) false ∨ others ∨ s.comm.stepCnt ≠ 0 ∨ (s.steps.head?.map (·.tag)) ≠ some x.step then s.execError d causeBAD_CKP
    else if s.flag fNOLOCKER then s.execError d 0x0F05
    else match s.slotOfGen g, img with
      | none, _ => s.execError d 0x0F03
      | some _, none => s.execError d 0x0F05
      | some _, some i =>
        if ¬ validRecord i ∨ crF i.record 64 64 ≠ g then s.execError d 0x0F03
        else if crF i.record 256 12 ≠ s.fld fRANK ∨ crF i.record 280 7 ≠ s.fleetSize ∨ crF i.record 368 16 ≠ s.protCount
            ∨ crF i.record 128 64 ≠ x.step.toNat then s.execError d 0x0F04
        else (s.updStep x.step (fun y => { y with resume := some i })).finish d stOK 0)

/-- R494: LKREAD. The locker's DMA writes are given, none for a read error; those outside the destination, which alone the command's PRPs name,
are refused (R485). -/
def execLkread (d : DRef) (dma : Option (List (Nat × List Byte))) (s : State) : Res :=
  s.start d (fun o => o = 0x503) (fun x s =>
    let off := dArg x.raw 1
    let len := dArg x.raw 2
    let dst := dProg x.raw
    if ¬ plainCkp x.raw (2 ^ 64) true ∨ off % 4096 ≠ 0 ∨ len % 4096 ≠ 0 ∨ len = 0 ∨ 2 ^ 30 < len ∨ dst % 4096 ≠ 0
        ∨ memSize < dst + len ∨ s.slotBlocks * 4096 < off + len
        ∨ (pagesOf dst len).any (fun p => s.groupKind (groupOf (p * 4096)) ≠ 0) then s.execError d causeBAD_CKP
    else if s.flag fNOLOCKER then s.execError d 0x0F05
    else if (s.slotOfGen (dArg x.raw 0)).isNone then s.execError d 0x0F03
    else match dma with
      | none => s.execError d 0x0F05
      | some l =>
        match s.writes (s.writer d 0xF0) (l.filter (fun p => decide (dst ≤ p.1) && decide (p.1 + p.2.length ≤ dst + len))) with
        | .ok s => s.finish d stOK 0
        | .error .wait => s
        | .error e => (s.noteErr e).execError d (e.cause causeBAD_CKP causeBAD_CKP))

end Sys2Proof.Machine
end

