-- ==== Sys2Proof/Machine/Security.lean ====
section
/-! DEFINITION. The boot ROM's checks, the security mailbox, attestation, lifecycle and debug (chapter 18). -/

namespace Sys2Proof.Machine

/-! ## Firmware images (R566 to R568) -/

/-- Bytes `lo` to `lo + n - 1` of a manifest. -/
def imgBytes (i : FwImage) (lo n : Nat) : List Byte := leBytes n (getBits i.manifest.toNat (8 * lo) (8 * n))

/-- The SHA-384 of bytes 0 to 127, which both signatures cover. -/
def headDig (i : FwImage) : List Byte := Sha.sha384 (imgBytes i 0 128)

/-- The ROOTHASH slot under which an image is signed, if its key is a root key. -/
def Part.slotOf (p : Part) (i : FwImage) : Option Nat :=
  let h := BitVec.ofNat 384 (leNat (Sha.sha384 (imgBytes i 224 96)))
  firstIdx (fun r => r == h && r != 0) p.rootHash

/-- The ECDSA signature of a manifest: 48-byte big-endian r, s, x and y. -/
def imgEcdsaOk (i : FwImage) : Bool :=
  Sha.ecdsaOk (beNat (imgBytes i 224 48)) (beNat (imgBytes i 272 48)) (beNat (headDig i)) (beNat (imgBytes i 128 48)) (beNat (imgBytes i 176 48))

/-- The ML-DSA-87 signature under the key whose hash the fuses hold. -/
def Part.mldsaOk (p : Part) (i : FwImage) : Bool :=
  let key := imgBytes i 320 2592
  decide (BitVec.ofNat 384 (leNat (Sha.sha384 key)) = p.mlHash) && Config.mldsaOk (leNat key) (leNat (imgBytes i 0 128)) (leNat (imgBytes i 2912 4627))

/-- R567: every signature that the policy requires is present, and every one present and checked is good. -/
def Part.sigsOk (p : Part) (i : FwImage) : Bool :=
  let sigs := getBits i.manifest.toNat 584 8
  let ml := sigs.testBit 1
  sigs.testBit 0 && imgEcdsaOk i && (match p.sigPol with
    | 0 => true
    | 1 => !ml || p.mldsaOk i
    | _ => ml && p.mldsaOk i)

/-- R568: the first failing check, or 0. An empty slot fails the first. -/
def State.imageCheck (s : State) : Option FwImage → Nat
  | none => 1
  | some i =>
    let m := i.manifest.toNat
    let len := getBits m 96 32
    if getBits m 0 32 ≠ 0x56584D46 ∨ getBits m 32 16 ≠ 1 ∨ 56 * 2 ^ 20 - 8192 < len then 1
    else if ¬ (getBits m 576 8).testBit s.aclass then 2
    else match s.part.slotOf i with
      | none => 3
      | some k =>
        if s.part.revoked.getLsbD k then 3
        else if ¬ s.part.sigsOk i then 4
        else if FwImage.svn i < s.part.svn then 5
        else if len ≠ i.body.length ∨ Sha.sha384 i.body ≠ imgBytes i 24 48 then 6
        else 0

/-- The check of slot A (0) or B (1): one whose writing was cut short fails the sixth (R572). -/
def State.slotCheck (s : State) (k : Nat) : Nat :=
  if s.part.imgCut.getLsbD k then 6 else s.imageCheck (if k = 0 then s.part.imgA else s.part.imgB)

/-! ## The mailbox (R571) -/

/-- SEC_MBARG k. -/
def State.mbArg (s : State) (k : Nat) : Nat := (s.word (0x60008 + 8 * k)).toNat

/-- Bytes of SEC_MBDATA. -/
def State.mbBytes (s : State) (lo n : Nat) : List Byte :=
  (((List.range (n / 8 + 2)).flatMap (fun k => leBytes 8 (s.word (0x61000 + lo / 8 * 8 + 8 * k)).toNat)).drop (lo % 8)).take n

/-- Writes SEC_MBDATA from its start. -/
def State.mbPut (s : State) (bs : List Byte) : State :=
  ((chunks 8 512 bs).zipIdx).foldl (fun s c => s.setWord (0x61000 + 8 * c.2) (BitVec.ofNat 64 (leNat c.1))) s

def mbOK : Nat := 0
def mbREFUSED : Nat := 2
def mbAUTH_FAIL : Nat := 3
def mbBAD_ARG : Nat := 4

/-- A command's end with its status. -/
def State.mbEnd (s : State) (status : Nat) : State := State.setFld { s with sec := { s.sec with pending := 0 } } fMBSTAT status

/-- The shell of a mailbox command: dropped during a boot or a WARM reset, BUSY while another runs. -/
def State.mailbox (s : State) (code : Nat) (k : State → State) : Res :=
  if s.pw.booting then .next s
  else if s.sec.pending ≠ 0 ∧ s.sec.pending ≠ code then .next (s.setFld fMBSTAT 1)
  else .next (k s)

/-- R571 to R573: FW_WRITE. `img` is what the host memory at ARG0 holds. -/
def execFwWrite (img : FwImage) (s : State) : Res :=
  let len := s.mbArg 1
  if 8192 ≤ len ∧ len ≤ 56 * 2 ^ 20 ∧ 8192 + img.body.length ≠ len then .refused .notPending
  else s.mailbox 1 (fun s =>
    let slot := s.mbArg 2
    if 1 < slot ∨ len < 8192 ∨ 56 * 2 ^ 20 < len then s.mbEnd mbBAD_ARG
    else if s.fld fIMAGE = 1 ∧ slot = 1 then s.mbEnd mbREFUSED
    else if ¬ s.winOk false (s.mbArg 0) len then s.mbEnd mbREFUSED
    else if s.imageCheck (some img) ≠ 0 then s.mbEnd mbAUTH_FAIL
    else
      let p := { s.part with imgCut := s.part.imgCut &&& ~~~ BitVec.ofNat 2 (2 ^ slot) }
      State.mbEnd { s with part := if slot = 0 then { p with imgA := some img } else { p with imgB := some img } } mbOK)

/-- SVN_COMMIT. -/
def execSvnCommit (s : State) : Res :=
  s.mailbox 2 (fun s =>
    if s.slotCheck 0 ≠ 0 ∨ s.slotCheck 1 ≠ 0 then s.mbEnd mbREFUSED
    else
      let v := min ((s.part.imgA.map FwImage.svn).getD 0) ((s.part.imgB.map FwImage.svn).getD 0)
      State.mbEnd { s with part := { s.part with svn := max s.part.svn v } } mbOK)

/-- REVOKE. -/
def execRevoke (s : State) : Res :=
  s.mailbox 3 (fun s =>
    let k := s.mbArg 0
    let under := fun (n : Nat) (i : Option FwImage) => s.slotCheck n = 0 ∧ (i.bind s.part.slotOf) = some k
    if 3 < k then s.mbEnd mbBAD_ARG
    else if under 0 s.part.imgA ∨ under 1 s.part.imgB then s.mbEnd mbREFUSED
    else State.mbEnd { s with part := { s.part with revoked := s.part.revoked ||| BitVec.ofNat 4 (2 ^ k) } } mbOK)

/-! ## Attestation (R569, R575, R576) -/

/-- Item 2: lifecycle code and debug sub-state. -/
def State.lcWord (s : State) : Nat := s.lc ||| (if s.sec.debug then 1 else 0) <<< 8

/-- The attestation items 1 to 12, little-endian. -/
def State.item (s : State) : Nat → List Byte
  | 1 => leBytes 4 s.part.romver.toNat
  | 2 => leBytes 4 s.lcWord
  | 3 => leBytes 4 (s.fld fIMAGE)
  | 4 => (s.sec.running.map headDig).getD (List.replicate 48 0)
  | 5 => leBytes 4 ((s.sec.running.map FwImage.svn).getD 0) ++ leBytes 4 s.part.svn
  | 6 => leBytes 4 ((s.sec.running.map FwImage.fwlevel).getD 0)
  | 7 => leBytes 4 (s.part.sigPol ||| ((s.sec.running.map (fun i =>
      let g := getBits i.manifest.toNat 584 2
      if s.part.sigPol = 0 then g % 2 else g)).getD 0) <<< 8)
  | 8 => leBytes 32 s.bid.toNat
  | 9 => leBytes 16 s.cls.toNat
  | 10 => Sha.sha384 (s.part.map.flatMap (fun e => leBytes 16 e.toNat))
  | 11 => leBytes 4 (s.fld fSTRCODE ||| s.fld fSTROPEN <<< 16 ||| s.fld fSTRBAD <<< 17)
  | 12 => leBytes 8 ((s.regRead 0x90000).toNat ||| (s.regRead 0x18).toNat <<< 16)
  | _ => []

/-- A signature of the alias key, which the running firmware and the lifecycle decide (R569); a scrapped node signs nothing. -/
def State.aliasSig (s : State) (digest : List Byte) : List Byte :=
  if s.lc = 0x1F then List.replicate 96 0
  else leBytes 96 (Config.aliasSign (leNat (s.item 4)) s.lcWord (leNat digest)).toNat

/-- The ATTEST report for the nonce in SEC_MBDATA. -/
def State.report (s : State) : List Byte :=
  let body := leBytes 4 0x56584154 ++ leBytes 4 344 ++ leBytes 8 0 ++ s.mbBytes 0 48 ++ (List.range 12).flatMap (fun k => s.item (k + 1))
  body ++ s.aliasSig (Sha.sha384 body)

/-- ATTEST. -/
def execAttest (s : State) : Res := s.mailbox 4 (fun s => (s.mbPut s.report).mbEnd mbOK)

/-! ## Debug access (R580 to R583) and the lifecycle (R577 to R579) -/

/-- Lifecycle states in which debug can be opened. -/
def State.lcOpens (s : State) : Bool := s.lc == 3 || s.lc == 7 || s.lc == 0x0F

/-- DBG_CHALLENGE. -/
def execDbgChallenge (s : State) : Res :=
  s.mailbox 5 (fun s =>
    let scope := s.mbArg 0
    if scope = 0 ∨ 3 < scope then s.mbEnd mbBAD_ARG
    else if ¬ s.lcOpens ∨ s.flag fDBGLOCK then s.mbEnd mbREFUSED
    else
      let r := leBytes 48 (Config.freeNonce s.freeCtr).toNat ++ leBytes 8 s.part.serial.toNat
        ++ [BitVec.ofNat 8 s.lc, BitVec.ofNat 8 scope, BitVec.ofNat 8 (s.fld fFAILS)] ++ List.replicate 69 0
      State.mbEnd (State.mbPut { s with freeCtr := s.freeCtr + 1,
                                        sec := { s.sec with challenge := some (BitVec.ofNat 1024 (leNat r)), endedByReset := false } } r) mbOK)

/-- A failed response or password: counted, recorded, and the third locks both paths (R582). -/
def State.dbgFail (s : State) : State :=
  let n := min 3 (s.fld fFAILS + 1)
  let s := (s.setFld fFAILS n).fire 0x008 0xC0 n
  if 3 ≤ n then s.setFld fDBGLOCK 1 else s

/-- A lifecycle change, or a change of FIELD-DEBUG, takes effect through a WARM reset (R531, R578); refused with a rank held. -/
def State.lcRefused (s : State) : Bool := s.holdsRank || !s.flag fREADY

/-- Debug opens (R583): through a WARM reset in FIELD. -/
def State.openDebug (s : State) : State :=
  if s.lc = 7 then State.warm { s with sec := { s.sec with sealPend := true } } 7
  else { s with sec := { s.sec with debug := true } }

/-- DBG_RESPONSE: the record as issued, the key of DBGHASH, and its signature over SHA-384 of the record. -/
def execDbgResponse (s : State) : Res :=
  s.mailbox 6 (fun s =>
    match s.sec.challenge with
    | none => s.mbEnd (if s.sec.endedByReset then mbAUTH_FAIL else mbREFUSED)
    | some c =>
      if s.flag fDBGLOCK then s.mbEnd mbREFUSED
      else
        let r := s.mbBytes 0 128
        let scope := getBits c.toNat (8 * 57) 8
        if scope = 1 ∧ s.lc = 7 ∧ s.lcRefused then s.mbEnd mbREFUSED
        else
          let key := s.mbBytes 128 96
          let ok := leNat r = c.toNat ∧ BitVec.ofNat 384 (leNat (Sha.sha384 key)) = s.part.dbgHash ∧
            Sha.ecdsaOk (beNat (key.take 48)) (beNat (key.drop 48)) (beNat (Sha.sha384 r)) (beNat (s.mbBytes 224 48)) (beNat (s.mbBytes 272 48))
          let s : State := { s with sec := { s.sec with challenge := none } }
          if ¬ ok then s.dbgFail.mbEnd mbAUTH_FAIL
          else if scope = 1 then (s.mbEnd mbOK).openDebug
          else State.mbEnd { s with sec := { s.sec with auth := scope } } mbOK)

/-- R580: 60 s have passed since the nonce was issued. -/
def execDbgNonceExpiry (s : State) : Res :=
  if s.sec.challenge.isSome then .next { s with sec := { s.sec with challenge := none } } else .refused .notPending

/-- DBG_CLOSE. -/
def execDbgClose (s : State) : Res :=
  s.mailbox 7 (fun s =>
    if s.lc ≠ 7 ∨ ¬ s.sec.debug ∨ s.lcRefused then s.mbEnd mbREFUSED else (s.mbEnd mbOK).warm 7)

/-- The lifecycle rows advance to a code, row 0 first (R577). -/
def State.setLc (s : State) (code : Nat) : State :=
  { s with part := { s.part with lcRow0 := BitVec.ofNat 8 code, lcRow1 := BitVec.ofNat 8 code } }

/-- What entry into SCRAPPED destroys (R579). -/
def State.scrap (s : State) : State :=
  let s : State := { s with
    part := { s.part with uds := BitVec.allOnes 256, mramMap := [], ledger := [], certA := none, certB := none, nodeIdA := none, nodeIdB := none },
    tt := { s.tt with store := [], seq := 0 } }
  (s.setFld fLIFESTEP 0).setFld fMWRCNT 0

/-- LC_ADVANCE to the state whose code ARG0 holds. -/
def execLcAdvance (s : State) : Res :=
  s.mailbox 8 (fun s =>
    let dst := s.mbArg 0
    let go := fun (s : State) => ((s.setLc dst).mbEnd mbOK).warm 7
    if s.lcRefused then s.mbEnd mbREFUSED
    else if s.lc = 1 ∧ dst = 3 then
      if s.part.certA.isNone ∧ s.part.certB.isNone then s.mbEnd mbREFUSED else go s
    else if s.lc = 3 ∧ dst = 7 then go s
    else if s.lc = 7 ∧ dst = 0x0F then
      if s.sec.auth = 2 then go (s.setFld fREPLACE 0) else s.mbEnd mbAUTH_FAIL
    else if s.lc = 0x0F ∧ dst = 0x1F then go s.scrap
    else if (s.lc = 3 ∨ s.lc = 7) ∧ dst = 0x1F then
      if s.sec.auth = 3 then go s.scrap else s.mbEnd mbAUTH_FAIL
    else s.mbEnd mbREFUSED)

/-- R573: RCV_LOAD of the image at host address ARG0. -/
def execRcvLoad (img : FwImage) (s : State) : Res :=
  let len := s.mbArg 1
  if 8192 ≤ len ∧ len ≤ 56 * 2 ^ 20 ∧ 8192 + img.body.length ≠ len then .refused .notPending
  else s.mailbox 9 (fun s =>
    if ¬ s.flag fRECOVERY then s.mbEnd mbREFUSED
    else if len < 8192 ∨ 56 * 2 ^ 20 < len then s.mbEnd mbBAD_ARG
    else if ¬ s.winOk false (s.mbArg 0) len then s.mbEnd mbREFUSED
    else if s.imageCheck (some img) ≠ 0 then s.mbEnd mbAUTH_FAIL
    else State.mbEnd { s with sec := { s.sec with running := some img } } mbOK)

/-- R574: NODEID_SET. -/
def execNodeidSet (s : State) : Res :=
  s.mailbox 10 (fun s =>
    let id := s.mbArg 0
    if id = 0 ∨ 0xFFF < id then s.mbEnd mbBAD_ARG
    else if s.lc = 0x1F then s.mbEnd mbREFUSED
    else State.mbEnd { s with part := { s.part with nodeIdA := some (BitVec.ofNat 12 id), nodeIdB := some (BitVec.ofNat 12 id) } } mbOK)

/-- R581: the lab password, through JTAG. Elsewhere, and once locked, the instruction behaves as BYPASS. -/
def execPwunlock (pw : BitVec 256) (s : State) : Res :=
  if ¬ s.lcOpens ∨ s.flag fDBGLOCK then .next s
  else if BitVec.ofNat 384 (leNat (Sha.sha384 (leBytes 32 pw.toNat))) ≠ s.part.pwHash then .next s.dbgFail
  else if s.lc = 7 ∧ s.lcRefused then .next s
  else .next s.openDebug

/-- EXTEST holds the node in reset and ends with a PERST-class reset; no cause counter names it. -/
def execExtest (s : State) : Res := .next s.perstBody

/-! ## SPDM (R36, R575). Response codes and framing are DMTF's. -/

/-- An SPDM response through the DOE mailbox: version 1.2, the response code, two parameters, the payload. -/
def State.spdm (s : State) (code p1 p2 : Nat) (payload : List Byte) : State :=
  let bs := [0x12, BitVec.ofNat 8 code, BitVec.ofNat 8 p1, BitVec.ofNat 8 p2] ++ payload
  State.emit { s with sec := { s.sec with transcript := s.sec.transcript ++ bs } } (.doe bs)

/-- ERROR, unexpected request. -/
def State.spdmErr (s : State) : State := s.emit (.doe [0x12, 0x7F, 0x04, 0])

/-- The shell of an SPDM request: the host endpoint of a node that has one and has booted. -/
def State.responder (s : State) (ready : Bool) (k : State → State) : Res :=
  if s.isCrew then .refused .notPending
  else if s.pw.booting then .next s
  else .next (if ready then k s else s.spdmErr)

/-- The chain of slot 0 (R570), which differs where neither stored certificate is good. -/
def State.certs (s : State) : List Byte :=
  Config.certChain ((leNat (s.item 4) * 2 ^ 16 + s.lcWord) * 2 + if s.flag fNOCERT then 1 else 0)

def execGetVersion (s : State) : Res :=
  s.responder true (fun s => State.spdm { s with sec := { s.sec with spdmVer := true, spdmCaps := false, spdmAlg := false, transcript := [] } }
    0x04 0 0 [0, 1, 0, 0x12])

def execGetCapabilities (s : State) : Res :=
  s.responder s.sec.spdmVer (fun s => State.spdm { s with sec := { s.sec with spdmCaps := true } } 0x61 0 0 (List.replicate 4 0 ++ leBytes 4 0x16))

def execNegotiateAlgorithms (s : State) : Res :=
  s.responder s.sec.spdmCaps (fun s => State.spdm { s with sec := { s.sec with spdmAlg := true } } 0x63 0 0
    (leBytes 2 36 ++ [1, 0] ++ leBytes 4 1 ++ leBytes 4 0x80 ++ leBytes 4 2 ++ List.replicate 20 0))

def execGetDigests (s : State) : Res :=
  s.responder (s.sec.spdmAlg && s.lc != 0x1F) (fun s => s.spdm 0x01 0 1 (Sha.sha384 s.certs))

def execGetCertificate (slot off len : Nat) (s : State) : Res :=
  s.responder (s.sec.spdmAlg && slot == 0 && s.lc != 0x1F && decide (off ≤ s.certs.length)) (fun s =>
    let part := (s.certs.drop off).take len
    s.spdm 0x02 0 0 (leBytes 2 part.length ++ leBytes 2 (s.certs.length - off - part.length) ++ part))

/-- The SHA-384 over every measurement block. -/
def State.measureAll (s : State) : List Byte := (List.range 12).flatMap (fun k => block s (k + 1))
where
  /-- One measurement block in the DMTF format, with a raw bit-stream value. -/
  block (s : State) (k : Nat) : List Byte :=
    let v := s.item k
    [BitVec.ofNat 8 k, 1] ++ leBytes 2 (v.length + 3) ++ [0x80] ++ leBytes 2 v.length ++ v

def execChallenge (slot : Nat) (nonce : BitVec 256) (s : State) : Res :=
  s.responder (s.sec.spdmAlg && slot == 0 && s.lc != 0x1F) (fun s =>
    let own := leBytes 32 (Config.freeNonce s.freeCtr).toNat
    let body := Sha.sha384 s.certs ++ own ++ Sha.sha384 s.measureAll ++ leBytes 2 0
    let sig := s.aliasSig (Sha.sha384 (s.sec.transcript ++ leBytes 32 nonce.toNat ++ body))
    State.spdm { s with freeCtr := s.freeCtr + 1 } 0x03 0 1 (body ++ sig))

def execGetMeasurements (index : Nat) (s : State) : Res :=
  s.responder (s.sec.spdmAlg && (decide (index ≤ 12) || index == 0xFF)) (fun s =>
    if index = 0 then s.spdm 0x60 12 0 ([0] ++ leBytes 3 0)
    else
      let bs := if index = 0xFF then s.measureAll else State.measureAll.block s index
      s.spdm 0x60 0 0 ([if index = 0xFF then 12 else 1] ++ leBytes 3 bs.length ++ bs))

end Sys2Proof.Machine
end

