-- ==== Sys2Proof/Machine/Power.lean ====
section
/-! DEFINITION. Resets, boot, straps, Brace and power states (chapter 17). -/

namespace Sys2Proof.Machine

/-! ## COLD and PERST resets (R528, R532, R553, R559, R647) -/

/-- POWER_ON: VIN and VAUX are valid. The COLD reset is counted as a power-on unless a supply's fall already started it. -/
def execPowerOn (vbakKept : Bool) (s : State) : Res :=
  if s.pw.thermtrip then .next s
  else
    let fresh := !s.pw.supplyLow
    let s := s.coldBody vbakKept
    let s : State := { s with pw := { s.pw with supplyLow := false, vauxOff := false } }
    .next (if fresh then s.oweCause 0 0 else s)

/-- R559, step 5: VIN has fallen to 9.0 V. -/
def execVinLow (s : State) : Res :=
  if s.pw.supplyLow then .next s
  else
    let s := s.coldBody true
    .next (State.oweCause { s with pw := { s.pw with supplyLow := true } } 1 0)

/-- R647: VAUX below 2.9 V; THERMTRIP_N is released (R553) and the SMBus alert state is that of a VAUX rise (R653). -/
def execVauxLow (vbakLow : Bool) (s : State) : Res :=
  let s := if s.pw.supplyLow then { s with pw := { s.pw with vbakLost := s.pw.vbakLost || vbakLow } }
    else (s.coldBody (!vbakLow)).oweCause 1 0
  .next { s with pw := { s.pw with supplyLow := true, vauxOff := true, thermtrip := false, resetLow := false }, alertCause := 0, alertMask := 0x1F }

/-- R553: the thermal trip is counted at once; THERMTRIP_N and RESET_N are asserted. -/
def execThermtrip (s : State) : Res :=
  if s.pw.thermtrip then .next s
  else
    let s := (s.coldBody true).cause 2 0
    .next { s with pw := { s.pw with thermtrip := true, resetLow := true } }

/-- R528, R650: PERST_N, a hot reset or the host link going down. A crew node has no host link. -/
def execPerst (c : PerstCause) (released : Bool) (s : State) : Res :=
  if c ≠ .pin ∧ (s.isCrew ∨ released) then .refused .notPending
  else if s.pw.supplyLow ∨ s.pw.thermtrip then .next { s with pw := { s.pw with perstLow := decide (c = .pin) && !released } }
  else if released then .next { s with pw := { s.pw with perstLow := false } }
  else
    let s := s.perstBody
    .next (State.oweCause { s with pw := { s.pw with perstLow := decide (c = .pin) || s.pw.perstLow } } 3 1)

/-- R532: RESET_N recognised as low, and its rising edge. -/
def execResetN (released : Bool) (s : State) : Res :=
  if s.pw.supplyLow ∨ s.pw.thermtrip then .next { s with pw := { s.pw with resetLow := !released || s.pw.thermtrip } }
  else if released then .next { s with pw := { s.pw with resetLow := false } }
  else if s.pw.resetLow then .next s
  else
    let s := s.perstBody
    .next (State.oweCause { s with pw := { s.pw with resetLow := true } } 4 1)

/-! ## Boot (R26 to R32, R515 to R518, R542 to R548, R568 to R570) -/

/-- The code in force for a strap reading (R543, R544): the raw code, the code, OPEN, BADCODE. -/
def strapOf (lc : Nat) (strap : Option (Fin 64)) : Nat × Nat × Bool × Bool :=
  match strap with
  | none => (15, 0, true, false)
  | some n =>
    let raw := n.val / 4
    if raw = 14 then (14, 12, false, true)
    else if raw = 15 ∧ lc ≠ 1 then (15, 0, false, false)
    else (raw, raw, false, false)

/-- Role of a code: 0 standalone, 1 masthead, 2 crew (Table: CFGSEL bands). -/
def roleOf (code : Nat) : Nat := if code ∈ [2, 3, 4, 8, 10] then 1 else if code ∈ [5, 6, 7, 9, 11, 13] then 2 else 0

/-- Default port generation of a code: 2 for Gen C, 1 for Gen B, 0 for Gen A; code 12 keeps its ports in standby. -/
def genOf (code : Nat) : Nat := if code ∈ [4, 6, 11] then 1 else if code ∈ [7, 12, 13] then 0 else 2

/-- The highest host link rate of a code in GT/s: PCI Express 6.0 or 5.0, or the lanes off (R36, R543). -/
def rateOf (code : Nat) : Nat := if code ∈ [0, 2, 4, 8, 12] then 64 else if code ∈ [1, 3, 10] then 32 else 0

/-- Boot step 1 (R541, R542): the VBAK domain, the cause counters and the strap. -/
def State.bootStrap (s : State) (strap : Option (Fin 64)) : State :=
  let s := if s.pw.vbakLost then
      let s := (List.range 16).foldl (fun s i => s.setFld (fCause i) 0) s
      State.setFld { s with pw := { s.pw with vbakLost := false } } fVBAKLOST 1 |>.setFld fLASTIDX 0 |>.setFld fLASTCLS 0
    else s
  let s := s.pw.causes.foldl (fun s c => s.cause c.1 c.2) s
  let s : State := { s with pw := { s.pw with causes := [] } }
  let (raw, code, opn, bad) := strapOf s.lc strap
  let s := (s.setFld fSTRCOUNT ((strap.map Fin.val).getD 63)).setFld fSTRRAW raw
  let s := s.setFld fSTRCODE code
  let s := if opn then (s.setFld fSTROPEN 1).cause 15 0 else s
  let s := if bad then (s.setFld fSTRBAD 1).cause 15 0 else s
  let s := State.setFld { s with hostRate := rateOf code } fROLE (roleOf code)
  let s := (List.range 16).foldl (fun s p => s.setFld (fMAXGEN p) (genOf code)) s
  s.setFld fRANK (if roleOf code = 0 then 0 else 0xFFF)

/-- Boot step 2 (R547, R568): the images are tried, and with neither the node boots in recovery. -/
def State.bootImage (s : State) : State :=
  let recover := fun (s : State) => ((s.setFld fRECOVERY 1).setFld fIMAGE 2).cause 14 0
  if s.fld fSTRCODE = 12 ∨ s.fld fSTRCODE = 13 then recover ((s.setFld fIMGA 15).setFld fIMGB 15)
  else
    let a := s.slotCheck 0
    let s := (s.setFld fIMGA a).setFld fIMGB 15
    if a = 0 then State.setFld { s with sec := { s.sec with running := s.part.imgA } } fIMAGE 0
    else
      let b := s.slotCheck 1
      let s := s.setFld fIMGB b
      if b = 0 then (State.setFld { s with sec := { s.sec with running := s.part.imgB } } fIMAGE 1).cause 13 0
      else recover (s.setFld fNOFW 1)

/-- The map and ledger copies (R29, R513). A map whose copies both fail, or that holds a reserved KIND, is damaged (R24): MAPBAD is set,
FAULT_N asserts and job assignment is refused until a boot finds a sound map. DESIGN CHOICE (log 39): when both copies fail, the
field area starts empty, since no entry of it can be read. -/
def State.bootCopies (s : State) (b : BootIn) : State :=
  let lost := !b.mapCopyA && !b.mapCopyB
  let s : State := if lost then { s with part := { s.part with mramMap := [] } } else s
  let s := if b.mapCopyA = b.mapCopyB then s else s.fire 0x107 0xF0 (if b.mapCopyA then 1 else 0)
  let damaged := lost || !s.part.map.all (fun e => kindOk (meKind e))
  let s : State := { s with pw := { s.pw with mapDamaged := damaged } }
  let s := if damaged then ((s.setFld fMAPBAD 1).fire 0x004 0xF0 0).setFld fREPLACE 1 else s
  if b.ledCopyA ∨ b.ledCopyB then s
  else (State.setFld { s with part := { s.part with ledger := [] } } fLEDGERFULL 1).setFld fREPLACE 1

/-- The map entry for a BIST failure, with ORIGIN 1 (R518): a repair from the free spares that R21 and R22 allow, or a retirement; a
missed disagreement retires the checker's tile. -/
def bistEntry (m : List (BitVec 128)) (f : BistFail) : BitVec 128 :=
  let k := uKind f.unit
  if f.checkerMissed ∧ k ≠ 0x23 ∧ k ≠ 0x24 then
    repairEntry m (BitVec.ofNat 38 (0x20 ||| uDie f.unit <<< 8 ||| uPos f.unit <<< 11)) 1 0
  else repairEntry m f.unit 1 0

/-- One failure: its entry, and the ledger's permanent entry with SOURCE 12. -/
def State.bistFail (s : State) (f : BistFail) : State :=
  let e := bistEntry s.part.map f
  let life := s.word 0x90008
  let ent : LedEnt := ⟨f.unit, 12, 2, f.checkerMissed, true, 1, 0, 0, life, life, 0, [(0, life)]⟩
  let s := if s.part.ledger.any (fun x => x.unit = f.unit) then
      { s with part := { s.part with ledger := s.part.ledger.map (fun (x : LedEnt) =>
        if x.unit = f.unit then { x with source := 12, cls := 2, mapped := true, last := life, events := min 255 (x.events + 1) } else x) } }
    else s.ledgerAdd ent
  let s := s.addMap e
  let bit := 2 ^ (if uDie f.unit ≤ 6 then uDie f.unit else 0)
  if 0x10 ≤ meKind e then s.setFld fBISTRET (s.fld fBISTRET ||| bit) else s.setFld fBISTREP (s.fld fBISTREP ||| bit)

/-- The map's class is published (R26, R30, R32); the COLD view of the map is rebuilt at COLD. -/
def State.bootClass (s : State) : State :=
  let m := s.part.map
  let c := classOf m
  let s : State := { s with pw := { s.pw with mapApplied := s.part.mramMap.length } }
  let s := (s.setWord 0x20 (c.extractLsb' 0 64)).setWord 0x28 (c.extractLsb' 64 64)
  let s := if c = BitVec.ofNat 128 (2 ^ 100 - 1) then s else s.setFld fDEGRADED 1
  if s.pw.cold then
    State.setFld { s with mapView := m } ⟨0x18, 16, 10⟩ s.part.fuseMap.length |>.setFld ⟨0x18, 26, 11⟩ s.part.mramMap.length
  else s

/-- The reset that applies every repair, with BIST passed, clears the flag (R515). -/
def State.bootFlag (s : State) (b : BootIn) : State :=
  if s.part.ledger.any (fun e => e.cls = 0) ∨ b.bist.any (fun f => s.part.ledger.any (fun e => e.unit = f.unit ∧ e.source ≠ 12)) then s
  else (s.setFld fFLAGGED 0).setFld fSUSPECT 0

/-- Full training at boot of a port that comes up: from the highest generation that both ends advertise within MAXGEN, one generation down for
every third failed equalisation, each with its record (R324). -/
def State.bootUp (s : State) (u : PortUp) : State :=
  let p := u.port.val
  let top := min u.peer.val (s.fld (fMAXGEN p))
  let s := (List.range (min u.downs.val top)).foldl (fun s k => s.fire 0x102 (0xA0 + p) (top - 1 - k)) s
  if top < u.downs.val then s.setPort p { st := .down }
  else s.setPort p { st := .up, gen := top - u.downs.val, width := u.width.val, delay := u.delay % 65536, coefs := u.coefs }

/-- Boot step 4 (R326, R328, R543): full training of the ports that the code and the class enable. -/
def State.bootPorts (s : State) (up : List PortUp) : State :=
  (List.range 16).foldl (fun s p =>
    if s.fld fSTRCODE = 12 ∨ ¬ s.portOn p then s.setPort p { st := .standby }
    else match up.find? (fun u => u.port.val = p) with
      | some u => s.bootUp u
      | none => s.setPort p { st := .down }) s

/-- Boot step 6 (R486): the locker is probed, and both commit records are read. NOLOCKER stands until the host gives the locker its range. -/
def State.bootLocker (s : State) (b : BootIn) : State :=
  let s := State.lockerRange { s with pw := { s.pw with lockerOk := b.lockerOk } }
  if ¬ b.lockerOk then s
  else [(0, b.slotA), (1, b.slotB)].foldl (fun s x => match x.2 with
    | some r =>
      if crF r 0 32 = 0x4C4B5243 then ((s.setFld (fLKGEN x.1) (crF r 64 64)).setFld (fLKVALID x.1) 1).setFld (fLKCOMPACT x.1) (crF r 32 4)
      else s
    | none => s) s

/-- D3hot is taken: fetching from step rings stops on every member, and with no step open FURL goes out (R556). -/
def State.enterD3 (s : State) : State :=
  let s := State.broadcast { s with pw := { s.pw with d3 := true, d3Held := false } } .stopFetch
  s.d3Next

/-- READY (R546, R548): held back while the node is in Brace (R561); a D3hot written meanwhile is taken now (R562). -/
def State.makeReady (s : State) : State :=
  if s.flag fBRACE then { s with pw := { s.pw with readyDue := true } }
  else
    let s := State.setFld { s with pw := { s.pw with booting := false, warm := false, cold := false, readyDue := false } } fREADY 1
    let s := (s.fire 0x200 0xF0 (s.fld fLASTIDX ||| s.fld fLASTCLS <<< 4)).remargin
    if s.pw.d3Held ∧ ¬ s.isCrew then s.enterD3 else s

/-- R546, R548: the node boots, after a COLD or PERST reset or in a WARM reset. In a WARM reset BIST runs only on the dies that newly applied
field entries name (R512). -/
def execBoot (b : BootIn) (s : State) : Res :=
  if ¬ s.pw.booting ∨ s.pw.readyDue ∨ s.pw.supplyLow ∨ s.pw.perstLow ∨ s.pw.resetLow ∨ s.pw.thermtrip then .refused .notPending
  else if ¬ s.pw.warm ∧ s.lc = 1 ∧ b.strap.any (fun n => n.val / 4 = 15) then .fault .factoryTest
  else
    let old := s
    let s := if s.pw.warm then s else s.bootStrap b.strap
    let s := s.bootImage
    let s := s.bootCopies b
    let due := s.part.mramMap.drop s.pw.mapApplied
    let s := (b.bist.filter (fun f => !s.pw.warm || due.any (fun e => meDie e = uDie f.unit))).foldl State.bistFail s
    let s := if s.pw.warm ∧ due.isEmpty then s else s.setFld fBISTDONE 1
    let s := (s.bootClass).bootFlag b
    let s := s.bootPorts b.upPorts
    let s := if s.part.certA.isNone ∧ s.part.certB.isNone then s.setFld fNOCERT 1 else s
    let s := if s.pw.warm then s else s.bootLocker b
    .next (s.makeReady.faultEdge old)

/-! ## WARM, JOB and the job lock (R531, R533, R535) -/

/-- R531, R548: a host write of RST_CTL. -/
def execWarmReset (value : BitVec 64) (s : State) : Res := .next (s.mmioWrite .host 0x40000 true value)

/-- R531: the watchdog, which is armed while READY is set. -/
def execWatchdogExpiry (s : State) : Res := .next (if s.flag fREADY then s.warm 6 else s)

/-- R535: RST_CTL.LOCK. -/
def execLock (s : State) : Res := .next (s.mmioWrite .host 0x40000 true 0x100)

/-- R533: a host write of RST_JOBCMD. -/
def execJobCommand (value : BitVec 64) (s : State) : Res := .next (s.mmioWrite .host 0x40010 true value)

/-- R533, R562: JOB over VC7, taken only from the node's own masthead; a Furled node wakes for it, and a node whose map is damaged refuses
it (R29). -/
def execJobCommandReceive (src : BitVec 12) (id : BitVec 16) (s : State) : Res :=
  let s := s.arrived (.fleet (.job id))
  if ¬ s.isCrew ∨ src ≠ s.nodeAt 0 ∨ src = 0 then .next s
  else if s.inReset then .next (s.setFld fDROPPED 1)
  else if s.pw.mapDamaged then .next s
  else .next (s.wakeSelf.job id)

/-- JOBDONE once the masthead's own JOB reset and every member's are complete (R533). -/
def State.jobCheck (s : State) : State :=
  if s.pw.jobRequested ∧ ¬ s.pw.jobBusy ∧ s.crew.all (fun n => s.mh.jobDone.contains n) then
    State.setFld { s with pw := { s.pw with jobRequested := false } } fJOBDONE 1
  else s

/-- R533: a JOB reset is complete. On the node itself its reset ends, and a crew node reports it to the masthead; the masthead
takes the reports of its members. -/
def execJobResetDone (idx : Fin 64) (s : State) : Res :=
  let s := s.arrived (.fleet (.jobDone idx.val))
  if idx.val = s.myIdx ∧ s.pw.jobBusy then
    let s := State.remargin { s with pw := { s.pw with jobBusy := false } }
    .next (if s.isCrew then s.fleetTo 0 (.jobDone s.myIdx) else s.jobCheck)
  else if ¬ s.pw.jobRequested ∨ ¬ s.crew.contains idx.val then .refused .notPending
  else .next (State.jobCheck { s with mh := { s.mh with
    jobDone := if s.mh.jobDone.contains idx.val then s.mh.jobDone else s.mh.jobDone ++ [idx.val] } })

/-! ## Brace (R559 to R561) and the power limiter (R551, R645) -/

/-- R559, steps 1 to 3. -/
def execBraceEntry (s : State) : Res :=
  if s.flag fBRACE then .next s
  else
    let s := ((s.setFld fBRACE 1).incFld (fCause 11)).alert 2
    let s : State := { s with ckpt := s.ckpt.map (fun (c : CkptRun) => { c with paused := true }) }
    .next s.startFlush

/-- R559, step 4: Brace is left; what it held back goes on (R472, R480, R495, R546). -/
def execBraceExit (micros : Nat) (s : State) : Res :=
  if ¬ s.flag fBRACE then .refused .notPending
  else
    let s := ((s.setFld fBRACE 0).incFld (fCause 12)).fire 0x202 0xF0 micros
    let s := s.ckptGoOn (fun c => { c with paused := false })
    let s := if s.isMast then s.tryCommit else s
    .next (if s.pw.readyDue then s.makeReady else s)

/-- R551, R645: one sample. `avg` and `cur` are the 1 ms averages of power in W and of current in A; `lowFor10ms` says that the power
has stayed below 0.9 of the limit for 10 ms, `sinceChange` that 1 ms has passed since the last change, and `cur` is 0 while VIN
stands at 12.0 V or more. -/
def execPowerLimiterSample (avg cur : Nat) (lowFor10ms sinceChange : Bool) (s : State) : Res :=
  let s : State := { s with pw := { s.pw with avgW := some avg } }
  let lim := s.fld fPLIMIT
  let set := fun (n : Nat) =>
    let s := State.fire { s with pw := { s.pw with limiter := n } } 0x106 0xF0 n
    if 0 < n then s.alert 8 else s
  if ¬ sinceChange then .next s
  else if (lim < avg ∨ 140 < cur) ∧ s.pw.limiter < 4 then .next (set (s.pw.limiter + 1))
  else if ¬ (lim < avg ∨ 140 < cur) ∧ lowFor10ms ∧ 10 * avg < 9 * lim ∧ 0 < s.pw.limiter then .next (set (s.pw.limiter - 1))
  else .next s

/-! ## Clocks (R650) -/

/-- FREF has stopped for 10 µs: every port goes DOWN. -/
def execFrefLoss (s : State) : Res :=
  if s.pw.frefLost then .next s
  else .next ((s.upAmong 0xFFFF).foldl (fun s p => s.portDown p 0) { s with pw := { s.pw with frefLost := true } })

/-- FREF returns. -/
def execFrefReturn (s : State) : Res :=
  if s.pw.frefLost then .next { s with pw := { s.pw with frefLost := false } } else .refused .notPending

/-! ## Power states (R554 to R558) -/

/-- FURL from the masthead: the crew node enters Furled and reports it. -/
def execFurl (s : State) : Res :=
  let s := s.arrived (.fleet .furl)
  if ¬ s.isCrew ∨ s.pw.booting then .refused .notPending
  else .next ((if s.fld fPWRSTATE = 0 then s.furlSelf else s).fleetTo 0 (.furled s.myIdx))

/-- R554, R558: what ends Furled. WAKE also ends the stop of fetching that D3hot began. -/
def execWake (by_ : WakeBy) (s : State) : Res :=
  if by_ = .vc7 ∧ s.isCrew then
    let s := s.arrived (.fleet .wake)
    .next (State.wakeSelf { s with pw := { s.pw with d3Held := false } })
  else if s.fld fPWRSTATE = 1 then .next s.wakeSelf
  else .refused .notPending

/-- R556: D3hot on a standalone node or masthead; on a crew node, its masthead's notice that fetching from step rings stops. During
a reset it waits for READY (R562). -/
def execD3hot (s : State) : Res :=
  if s.isCrew then
    let s := s.arrived (.fleet .stopFetch)
    .next { s with pw := { s.pw with d3Held := true } }
  else if s.pw.booting then .next { s with pw := { s.pw with d3Held := true } }
  else if s.pw.d3 ∨ s.fld fPWRSTATE = 2 then .next s
  else .next s.enterD3

/-- R556, step 4: Struck. Cached lines are written back; what loses power is lost (R563), the ports' state with the fabric dies (R351). -/
def execStruck (furledCrew : List (Fin 64)) (s : State) : Res :=
  if ¬ s.pw.d3 ∨ s.stepOpen ∨ ¬ s.crew.all (fun n => furledCrew.any (fun f => f.val = n)) then .refused .notPending
  else
    let s := furledCrew.foldl (fun s f => s.arrived (.fleet (.furled f.val))) s
    let mem := s.cline.foldl (fun (m : List Host.Cell) l => l.2.bytes.foldl (fun m b => SM.setD 0 m (l.1 * 128 + b.1) b.2) m) s.mem
    let s : State := { s with mem := mem, cline := [], spad := [], tr := [], wa := [], chain := [], vthr := [], spar := [],
                              ports := s.ports.map (fun (p : Nat × Port) => (p.1, { st := .standby })),
                              pw := { s.pw with d3 := false } }
    .next (s.setFld fPWRSTATE 2)

/-- R556, R557: D0. From Struck READY is clear, and every port that the class and the code enable fully retrains at its highest generation;
WAKE goes to the crew, and READY is set, when none trains any longer. -/
def execD0 (s : State) : Res :=
  if s.isCrew then .refused .notPending
  else
    let s : State := { s with pw := { s.pw with d3 := false, d3Held := false } }
    if s.fld fPWRSTATE = 2 then
      let s := State.setFld { s with pw := { s.pw with d0Wait := true } } fREADY 0 |>.setFld fPWRSTATE 0
      let s := (List.range 16).foldl (fun s p => if s.portOn p ∧ s.fld fSTRCODE ≠ 12 then s.train p else s) s
      .next s.d0Check
    else .next (s.broadcast .wake)

end Sys2Proof.Machine
end

