-- ==== Sys2Proof/Machine/Health.lean ====
section
/-! DEFINITION. Replica comparison, margin tests, thermal response, patrol scrubbing and link repair (chapters 01, 09, 16, 17). -/

namespace Sys2Proof.Machine

/-! ## Comparing replicas (R526, R527) -/

/-- The update engines of the class in force, as ledger units. -/
def State.updUnits (s : State) : List (UnitId × Bool) :=
  ((List.range 32).filter s.tileOn).map (fun t => (BitVec.ofNat 38 (0x21 ||| (t / 8 + 1) <<< 8 ||| (t % 8) <<< 11), false))

/-- The value of a region that more than half of the records hold. -/
def standing (recs : List DigRec) (w : Nat) : Option (BitVec 16 × Nat) :=
  let vs := recs.filterMap (fun r => (r.vals.find? (fun v => v.1 = w)).map (·.2))
  vs.find? (fun v => decide (recs.length < 2 * (vs.filter (· = v)).length))

/-- The checkpoint that waits for the comparison is abandoned (R527); CKP_STAT.ABANDON is for want of snapshot slots alone (R495). -/
def State.digAbandon (s : State) : State := if s.ckpt.any (·.needDig) then s.endCkpt else s

/-- The comparison of a group ends with every member's record in hand (R527). A differing crew member is drained and tells the masthead; the
masthead counts the differing ranks lost, unsecured. -/
def State.digDecide (s : State) (key : Nat × BitVec 64) (recs : List DigRec) : State :=
  let s : State := { s with rec_ := { s.rec_ with digGroups := s.rec_.digGroups.filter (· ≠ key),
                                                  digRecs := s.rec_.digRecs.filter (fun (r : DigRec) => (r.group, r.tag) ≠ key) } }
  match recs with
  | [] => s
  | r0 :: _ =>
    if recs.any (fun r => r.mask ≠ r0.mask) then ((s.setFld fDIGSTAT 4).fire 0x006 0xF0 1).digAbandon
    else
      let ws := setBits 64 r0.mask.toNat
      if ws.any (fun w => (standing recs w).isNone) then ((s.setFld fDIGSTAT 2).fire 0x006 0xF0 0).digAbandon
      else
        let bad := recs.filter (fun r => ws.any (fun w => standing recs w ≠ (r.vals.find? (fun v => v.1 = w)).map (·.2)))
        if bad.isEmpty then
          let s := s.setFld fDIGSTAT 1
          if s.rec_.digGroups.isEmpty then s.ckptGoOn (fun c => { c with needDig := false }) else s
        else
          let s := (s.setFld fDIGSTAT 0).digAbandon
          let mine := bad.any (fun r => r.idx = s.myIdx)
          let s := if mine then s.event 15 s.updUnits else s
          if s.isCrew then
            if mine then (State.fleetTo { s with rec_ := { s.rec_ with drained := true } } 0 (.lost (s.nodeAt s.myIdx) .digest)).finishDrain
            else s
          else
            let ranks := bad.filterMap (fun r => s.rankOf r.idx)
            (State.rollbackFleet { s with mh := { s.mh with lostRanks := (s.mh.lostRanks ++ ranks).eraseDups } }).unsecuredLoss

/-- Ends every comparison under way for which each member's record has come. -/
def State.digTry (s : State) : State :=
  s.rec_.digGroups.foldl (fun s key =>
    let recs := s.rec_.digRecs.filter (fun r => (r.group, r.tag) = key)
    if recs.length < (SM.getD applyTr.emptyGroup s.comm.groups key.1).members.length then s else s.digDecide key recs) s

/-- R526, R527: a replica's digest record arrives, for a comparison under way or for a step that has yet to commit here; one of a comparison
that is over says nothing more. -/
def execDigestRecord (r : DigRec) (s : State) : Res :=
  let s := s.arrived (.digest r)
  let dup := s.rec_.digRecs.any (fun x => x.idx = r.idx ∧ x.group = r.group ∧ x.tag = r.tag)
  if dup ∨ ¬ (s.rec_.digGroups.contains (r.group, r.tag) ∨ s.comm.lastTag.toNat < r.tag.toNat) then .next s
  else .next (State.digTry { s with rec_ := { s.rec_ with digRecs := s.rec_.digRecs ++ [r] } })

/-! ## Commit (R62, R472, R497) -/

/-- The commit of the node's own oldest step, or of a step it only counts. Every comparison of the step before has ended, and none in a
disagreement that would have rolled the step back or abandoned the checkpoint (R526, R527), so a checkpoint that awaited one goes on. -/
def State.commitOwn (s : State) (tag : BitVec 64) (marks : List Nat) : State :=
  let s := s.ckptGoOn (fun c => { c with needDig := false })
  let s := match s.step? tag with
    | some x =>
      let s := s.commit x marks
      match x.resume with
      | some img => s.resumed img
      | none => s
    | none => s.commitSpare tag marks
  let s := s.digTry.d3Next
  if marks.contains (512 + s.myIdx) ∧ s.holdsRank then s.drainSelf else s

/-- R62: the commit is applied. A standalone node decides it alone, the masthead after its broadcast, a crew node on receipt;
spares count it (R472). New members join (R497). -/
def execCommitApply (tag : BitVec 64) (marks : List Nat) (s : State) : Res :=
  let s := s.arrived (.fleet (.commit tag marks))
  if s.role = 0 then
    match s.steps.head? with
    | some x =>
      if x.tag = tag ∧ x.doneSent then
        if s.flag fBRACE ∨ s.mh.unsecured then .next s
        else
          let (s, ms) := s.marksFor x (if s.flag fFLAGGED then [s.myIdx] else [])
          .next (s.commitOwn tag ms)
      else .refused .notPending
    | none => .refused .notPending
  else if s.isMast then
    if s.mh.committing = some tag then
      let s : State := { s with mh := { s.mh with
        committing := none
        dones := s.mh.dones.filter (fun (d : Nat × Nat × BitVec 64 × Bool) => d.2.2.1 ≠ tag) } }
      let s := s.commitOwn tag s.mh.marks
      .next (if s.mapIds = (List.range 64).map (fun n => s.fld (fFleetMap n)) then s else s.sendMap)
    else .refused .notPending
  else if s.holdsRank then
    if s.steps.head?.any (fun x => x.tag == tag && x.doneSent) then .next (s.commitOwn tag marks) else .refused .notPending
  else if s.comm.lastTag.toNat < tag.toNat then .next (s.commitSpare tag marks)
  else .refused .notPending

/-! ## Margin tests (R507, R511, R515, R519 to R522) -/

/-- The flag is cleared when no open entry is left and every repair has been applied (R515). -/
def State.unflag (s : State) : State :=
  if s.part.ledger.any (fun e => e.cls = 0) ∨ s.part.mramMap.length ≠ s.pw.mapApplied then s else (s.setFld fFLAGGED 0).setFld fSUSPECT 0

/-- Changes the ledger entries that a test covers. -/
def State.updLedger (s : State) (sel : LedEnt → Bool) (f : LedEnt → LedEnt) : State :=
  { s with part := { s.part with ledger := s.part.ledger.map (fun (e : LedEnt) => if sel e then f e else e) } }

/-- R520, R522: a test ends. Units that failed are in `fails`, those that failed again in the repeated profile in `again`. Its
working group, the lowest, and the scratchpads are wiped. -/
def execMarginTestDone (profile : BitVec 8) (fails : List UnitId) (again : List UnitId) (s : State) : Res :=
  if ¬ s.flag fMRUN ∨ profile.toNat ≠ s.fld fMPROF ∨ again.any (fun u => !fails.contains u) then .refused .notPending
  else
    let s := fails.foldl (fun s u => s.ledger 3 13 u false) s
    let s := again.foldl (fun s u => s.ledger 3 13 u false) s
    let passed := fun (e : LedEnt) => e.cls == 0 && !again.contains e.unit && (profile == 0x10 || fails.contains e.unit)
    let s := s.updLedger passed (fun e => { e with cls := 1 })
    let s := s.updLedger (fun e => profile = 0x10 && e.cls != 2 || fails.contains e.unit)
      (fun e => { e with mprof := profile, mres := if again.contains e.unit then 2 else 1 })
    let res := if again.isEmpty then 1 else 2
    let g := (s.groupsOf 0).head?
    let s : State := { s with spad := [], mem := s.mem.filter (fun (c : Host.Cell) => decide (some (groupOf c.1) ≠ g)) }
    let s := (s.setFld fMRUN 0).setFld fMRES res
    let s := s.fire 0x203 0xF0 (profile.toNat ||| res <<< 8)
    .next s.unflag

/-! ## Temperature (R308, R309, R551 to R553) -/

/-- The row of a table of thresholds that a temperature is in, with 2 °C of hysteresis against the row it was in. -/
def thermRow (rows : List (Nat × Nat)) (old temp : Nat) : Nat :=
  rows.foldl (fun n r => if r.1 ≤ temp ∨ (r.2 ≤ old ∧ r.1 < temp + 2) then max n r.2 else n) 0

def stackRows : List (Nat × Nat) := [(89, 1), (91, 2), (93, 3), (95, 4)]
def junctionRows : List (Nat × Nat) := [(100, 2), (103, 3), (105, 4)]

/-- The floor of one tile from its readings; a change writes a record (R309). -/
def State.tileTherm (s : State) (t : Nat) (x : Temps) : State :=
  let st := thermRow stackRows (SM.getD 0 s.pw.levels t) ((x.stack.getD t []).foldl max 0)
  let ju := thermRow junctionRows (SM.getD 0 s.pw.levels (32 + t)) (x.tileJ.getD t 0)
  let s : State := { s with pw := { s.pw with levels := SM.setD 0 (SM.setD 0 s.pw.levels t st) (32 + t) ju } }
  let f := max st ju
  if s.fld (fFLOOR t) = f then s
  else
    let s := (s.setFld (fFLOOR t) f).fire 0x105 t f
    if 0 < f then s.alert 4 else s

/-- R308, R552: the sensors are read. -/
def execThermalSensorRead (t : Temps) (s : State) : Res :=
  let s := (List.range 32).foldl (fun s k => s.tileTherm k t) s
  let s : State := { s with temps := t, pw := { s.pw with pdLevel := thermRow junctionRows s.pw.pdLevel t.pdJ } }
  let fd := fun (s : State) (k temp : Nat) =>
    let s : State := if 105 ≤ temp ∧ ¬ s.pw.fdHot.getLsbD k then s.fire 0x00A (0xC1 + k) temp else s
    { s with pw := { s.pw with fdHot := BitVec.ofNat 2 (putBits s.pw.fdHot.toNat k 1 (if 105 ≤ temp then 1 else 0)) } }
  let s := fd (fd s 0 t.fd0J) 1 t.fd1J
  .next (if t.tileJ.any (fun j => decide (100 ≤ j)) ∨ 100 ≤ t.pdJ ∨ 100 ≤ t.fd0J ∨ 100 ≤ t.fd1J then s.alert 16 else s)

/-! ## Array code and scrubbing (R292, R300 to R303) -/

/-- Multiplication in GF(2^8) of R300, over the low bits of `b`. -/
def gfMul (a : Nat) : Nat → Nat → Nat
  | 0, _ => 0
  | k + 1, b =>
    let t := if b.testBit 0 then a else 0
    let a2 := if a < 128 then 2 * a else (2 * a) ^^^ 0x11D
    t ^^^ gfMul a2 k (b / 2)

/-- The syndromes of a 36-symbol word, symbol 0 being the coefficient of x^35. -/
def syndromes (w : List Nat) : List Nat :=
  (List.range 4).map (fun k => w.foldl (fun acc c => gfMul ((List.range k).foldl (fun x _ => gfMul x 8 2) 1) 8 acc ^^^ c) 0)

/-- What the decoder finds: nothing, a symbol to correct with its difference, or an uncorrectable word. -/
inductive Rs where
  | clean
  | fix (pos diff : Nat)
  | lost
  deriving DecidableEq, Repr

/-- The decoder of R300. -/
def rsDecode (w : List Nat) : Rs :=
  match syndromes w with
  | [s0, s1, s2, s3] =>
    if s0 = 0 ∧ s1 = 0 ∧ s2 = 0 ∧ s3 = 0 then .clean
    else
      let hit := fun (p : Nat) =>
        let l := (List.range p).foldl (fun x _ => gfMul x 8 2) 1
        s0 ≠ 0 && s1 == gfMul s0 8 l && s2 == gfMul s1 8 l && s3 == gfMul s2 8 l
      match (List.range 36).find? hit with
      | some p => .fix (35 - p) s0
      | none => .lost
  | _ => .clean

/-- The node address of a stack-local address (the inverse of R292). -/
def State.addrOf (s : State) (stack l : Nat) : Nat :=
  let g := getBits l 30 4
  if (s.fld fSPREAD).testBit g then
    let hi := getBits l 13 17
    let f := getBits hi 0 5 ^^^ getBits hi 5 5 ^^^ getBits hi 10 5 ^^^ getBits hi 15 2
    let r := hi <<< 18 ||| (stack ^^^ f) <<< 13 ||| getBits l 0 13
    getBits r 30 5 <<< 34 ||| g <<< 30 ||| getBits r 0 30
  else stack <<< 34 ||| l

/-- R302: the patrol scrubber reads a sector; the word read is corrected and written back, or handled as uncorrectable. -/
def execPatrolScrubRead (stack : Fin 32) (sector : Nat) (tries : List Burst) (bond : Option (Fin 4224)) (copy : Option (ImgTag × Nat))
    (s : State) : Res :=
  match handedOn tries with
  | none => .refused .notPending
  | some b =>
    if s.pw.booting ∨ s.fld fPWRSTATE ≠ 0 ∨ 2 ^ 29 ≤ sector then .refused .notPending
    else
      let a := s.addrOf stack.val (32 * sector)
      let tag := (s.steps.head?.map (·.tag)).getD 0
      let s := if parityFails tries = 0 then s else (s.hwEv tag (.parity stack tries bond)).1
      match rsDecode (burstWord b) with
      | .clean => .next s
      | .fix pos d =>
        let data := (((burstWord b).modify pos (· ^^^ d)).take 32).map (BitVec.ofNat 8)
        .next (State.hwEv { s with mem := memWrite s.mem a data } tag (.corrected a)).1
      | .lost => .next (s.hwEv tag (.uncorrectable a copy)).1

/-- R307: a refresh keeps what the bank holds. -/
def execBankRefresh (_stack _channel _bank : Fin 32) (s : State) : Res := .next s

/-- R18: a die-to-die flit is retried; a wire that fails more than 16 flits in one second is repaired. -/
def execD2dParityRetry (link : Fin 26) (dir : Fin 2) (wire : Fin 1056) (second : Nat) (s : State) : Res :=
  if 24 ≤ link.val ∧ 528 ≤ wire.val then .refused .notPending
  else
    let u := link.val * 2112 + dir.val * 1056 + wire.val
    let key := 2 ^ 20 + u
    let h := ((SM.getD [] s.parity key).filter (· = second)) ++ [second]
    let s : State := { s with parity := SM.setD [] s.parity key h }
    let id : UnitId := BitVec.ofNat 38 (7 ||| u <<< 18)
    let s := s.ledger 2 11 id false
    .next (if 16 < h.length ∧ ¬ s.part.mramMap.any (fun e => meKind e = 7 ∧ meUnit e = u)
      then (s.addMap (repairEntry s.part.map id 2 s.comm.lastTag)).faultEdge s else s)

end Sys2Proof.Machine
end

