-- ==== Sys2Proof/Machine/Sideband.lean ====
section
/-! DEFINITION. The telltale recorder's host commands and flushes (chapter 19), and the SMBus target (chapter 22). -/

namespace Sys2Proof.Machine

/-! ## Telltale recorder (R590, R597 to R601) -/

/-- Offset of TT_CTL. -/
def oTT_CTL : Nat := 0x50000

/-- R590: a host write of FCODE, FARG and FIRE to TT_CTL. -/
def execFire (value : BitVec 64) (s : State) : Res :=
  .next (s.mmioWrite .host oTT_CTL true (BitVec.ofNat 64 (putBits (putBits value.toNat 12 12 1) 24 8 0)))

/-- A host write that sets one bit of TT_CTL, in its low half beside FCODE. -/
def State.ttBit (s : State) (k : Nat) : State := s.mmioWrite .host oTT_CTL false (BitVec.ofNat 64 (s.fld fFCODE ||| 2 ^ k))

/-- R599. -/
def execFreeze (s : State) : Res := .next (s.ttBit 13)
/-- R599. -/
def execThaw (s : State) : Res := .next (s.ttBit 14)
/-- R597. -/
def execFlush (s : State) : Res := .next (s.ttBit 15)

/-- R601: MCLEAR takes the key of the value. -/
def execMclear (value : BitVec 64) (s : State) : Res :=
  .next (s.mmioWrite .host oTT_CTL false (BitVec.ofNat 64 (s.fld fFCODE ||| getBits value.toNat 16 8 <<< 16)))

/-- R599: TT_FRZTO has expired. -/
def execFreezeTimeout (s : State) : Res := if s.flag fFROZEN then .next s.ttThaw else .refused .notPending

/-- R601, R584: a write of TT_RDCNT; one that is not host-side is dropped and counted. -/
def execTtRdcntWrite (src : WriteSrc) (value : BitVec 32) (s : State) : Res :=
  .next (s.mmioWrite src 0x50018 false (value.setWidth 64))

/-- A record enters the MRAM store, or takes the place of its own earlier copy (R597). -/
def State.storeRec (s : State) (r : TRec) : State :=
  if s.tt.store.any (fun x => x.seq = r.seq) then
    { s with tt := { s.tt with store := s.tt.store.map (fun x => if x.seq = r.seq then r else x) } }
  else
    let l := s.tt.store ++ [r]
    State.setFld { s with tt := { s.tt with store := l.drop (l.length - 32768) } } fMWRCNT (s.fld fMWRCNT + 1)

/-- The flush in progress copies its range, a frozen recorder's queue, and the marked records (R597, R599). -/
def State.flushTo (s : State) (target : Nat) : State :=
  let fl := s.fld fFLCNT
  let w := s.fld fWRCNT
  let n := (target + 2 ^ 32 - fl) % 2 ^ 32
  let back := (w + 2 ^ 32 - fl) % 2 ^ 32
  let l := if n < 2 ^ 31 then (s.tt.ring.drop (s.tt.ring.length - back)).take n else []
  let s := l.foldl State.storeRec s
  let s := if n < 2 ^ 31 then s.setFld fFLCNT target else s
  let s := if s.flag fFROZEN then s.tt.queue.foldl State.storeRec s else s
  let s := (s.tt.ring.filter (fun r => s.tt.marked.contains r.seq)).foldl (fun (s : State) r =>
    if s.tt.store.any (fun x => x.seq = r.seq) then s.storeRec r else s) s
  { s with tt := { s.tt with marked := [] } }

/-- R598: a flush completes; another begins at once when a record is left. -/
def execTelltaleFlushDone (s : State) : Res :=
  match s.tt.flush with
  | none => .refused .notPending
  | some t =>
    let s := s.flushTo t.toNat
    let s := State.setFld { s with tt := { s.tt with flush := none } } fFLUSHING 0
    .next (if s.fld fFLCNT ≠ s.fld fWRCNT then s.startFlush else s)

/-! ## SMBus target (R652, R653) -/

/-- The node is Off: VIN or VAUX is gone, or the trip holds it. -/
def State.isOff (s : State) : Bool := s.pw.supplyLow || s.pw.thermtrip

/-- A command of the target, which runs on VAUX (R651). -/
def State.smb (s : State) (k : State → State) : Res := if s.pw.vauxOff then .refused .notPending else .next (k s)

/-- The answer to a read word; in Off every command but STATUS and IDENT answers 0xFFFF. -/
def State.smbWord (s : State) (v : Nat) (offToo : Bool) : State :=
  s.emit (.smbus (leBytes 2 (if s.isOff ∧ ¬ offToo then 0xFFFF else v)))

/-- A reading that no state of the model holds. -/
def State.smbOpen (s : State) : State :=
  State.smbWord { s with freeCtr := s.freeCtr + 1 } ((Config.freeWord s.freeCtr).toNat % 65536) false

/-- STATUS. -/
def State.smbStatus (s : State) : Nat :=
  let b := fun (k : Nat) (p : Bool) => if p then 2 ^ k else 0
  b 0 (s.flag fREADY && !s.isOff) ||| b 1 s.faultN ||| b 2 (s.flag fFLAGGED) ||| b 3 (s.flag fREPLACE) ||| b 4 (s.flag fDRAINED)
    ||| b 5 (s.flag fBRACE) ||| b 6 s.pw.thermtrip ||| b 7 (s.flag fMAPBAD) ||| b 8 (s.flag fDEGRADED) ||| s.fld fPWRSTATE <<< 9

def execStatus (s : State) : Res := s.smb (fun s => s.smbWord s.smbStatus true)
def execVin (s : State) : Res := s.smb State.smbOpen
def execVaux (s : State) : Res := s.smb State.smbOpen
def execVbak (s : State) : Res := s.smb State.smbOpen

/-- POWER: the last 1 ms average that the power limiter sampled. -/
def execPower (s : State) : Res :=
  s.smb (fun s => match s.pw.avgW with
    | some w => s.smbWord w false
    | none => s.smbOpen)

/-- The hottest of a list of readings, open before the first reading. -/
def State.smbMax (s : State) (l : List Nat) : State :=
  if s.temps.tileJ = [] then s.smbOpen else s.smbWord (l.foldl max 0) false

def execTjmax (s : State) : Res := s.smb (fun s => s.smbMax (s.temps.tileJ ++ [s.temps.pdJ, s.temps.fd0J, s.temps.fd1J]))
def execTcasemax (s : State) : Res := s.smb (fun s => s.smbMax s.temps.stack.flatten)

/-- REEF: the cap in force and the highest thermal floor. -/
def execReef (s : State) : Res :=
  s.smb (fun s => s.smbWord (s.capInForce ||| ((List.range 32).foldl (fun m t => max m (s.fld (fFLOOR t))) 0) <<< 8) false)

def execAlertcauseRead (s : State) : Res := s.smb (fun s => s.smbWord s.alertCause.toNat false)
/-- ALERTCAUSE is cleared by ones. -/
def execAlertcauseWrite (v : BitVec 16) (s : State) : Res :=
  s.smb (fun s => if s.isOff then s else { s with alertCause := s.alertCause &&& ~~~ v })
def execAlertmaskRead (s : State) : Res := s.smb (fun s => s.smbWord s.alertMask.toNat false)
def execAlertmaskWrite (v : BitVec 16) (s : State) : Res :=
  s.smb (fun s => if s.isOff then s else { s with alertMask := v &&& 0x1F })

/-- IDENT: a block read of 16 bytes, with its byte count. -/
def execIdent (s : State) : Res :=
  s.smb (fun s => s.emit (.smbus (16 :: (leBytes 8 (s.regRead 0).toNat ++ leBytes 8 (s.regRead 8).toNat))))

/-- ALERT_N (R653). -/
def State.alertN (s : State) : Bool := s.alertCause &&& s.alertMask != 0

/-- R652: the Alert Response Address is answered with the node's address while it asserts ALERT_N. -/
def execAlertResponseAddress (s : State) : Res :=
  s.smb (fun s => if s.alertN then s.emit (.smbus (leBytes 1 (2 * s.smbAddr))) else s)

end Sys2Proof.Machine
end

