-- ==== Sys2Proof/Machine/SparVec.lean ====
section
/-! DEFINITION. The VXV long-vector extension (chapter 07): loads and stores, arithmetic under wards, reductions, widening
multiplies and dot products. -/

namespace Sys2Proof.Machine
open Sys2Proof.Fp

/-! ## Elements, spans and wards (R231, R232) -/

/-- Element `i` of `n` bytes of a vector register's contents, and the contents with that element replaced. -/
def zget (z n i : Nat) : Nat := getBits z (8 * n * i) (8 * n)
def zput (z n i v : Nat) : Nat := putBits z (8 * n * i) (8 * n) v

/-- The active count of an instruction whose counted elements are `n` bytes wide. -/
def State.active (s : State) (k n : Nat) : Nat := ((s.sth k).vspan + n - 1) / n

/-- The bits of a ward field: w0 to w7, or their complements. -/
def State.wardBits (s : State) (k field : Nat) : Nat :=
  if field < 8 then s.ward k field else 2 ^ 512 - 1 - s.ward k (field - 8)

/-- The elements that an instruction works on, rising: from VRI to the active count, under the ward. -/
def State.lanes (s : State) (k n field : Nat) : List Nat :=
  let m := s.wardBits k field
  (List.range (s.active k n)).filter (fun i => decide ((s.sth k).vri ≤ i) && m.testBit i)

/-- An instruction that completes sets VRI to 0. -/
def State.vdone (s : State) (k : Nat) : State := s.updSth k (fun x => { x with vri := 0 })

def causeBAD_VFORM : Nat := 0x0707

/-! ## Loads and stores (R233, R234, R241) -/

/-- The address of element `i`. DEDUCED: the offsets of an indexed access are elements of width EW, unsigned. -/
def State.vaddr (s : State) (k : Nat) (m : VMode) (zi n base i : Nat) : Nat :=
  match m with
  | .unit => wrapInt 64 (base + n * i)
  | .strided r => wrapInt 64 (base + sext 64 (s.ireg k r.val) * i)
  | .indexed _ => wrapInt 64 (base + zget zi n i)

/-- One element of a load or store; the error is what stops the instruction there. -/
def State.vaccess (s : State) (k : Nat) (w : Writer) (store : Bool) (z n i ea : Nat) : Except SRes State :=
  match s.sparAddr store ea n with
  | some c => .error (.fault (s.updSth k (fun x => { x with vri := i })) c ea)
  | none =>
    let s := s.uncache w.tag ea
    if store then
      match s.sparWrite w k ea (leBytes n (zget (s.zreg k z) n i)) with
      | .ok s => .ok s
      | .error e => .error (sparErr (s.updSth k (fun x => { x with vri := i })) ea e)
    else .ok (s.setZreg k z (zput (s.zreg k z) n i (leNat (s.sparRead ea n))))

def State.runVls (k : Nat) (store : Bool) (m : VMode) (ew field z base : Nat) (ev : List HwEv) (s : State) (d : DRef) : SRes :=
  let n := 2 ^ ew
  let w := s.sparWriter k d
  let (s, ok) := s.hwEvs w.tag ev
  if ¬ ok then .ok s
  else
    let b := s.ireg k base
    let zi := match m with
      | .indexed q => s.zreg k q.val
      | _ => 0
    let r := (s.lanes k n field).foldl (fun r i => match r with
      | .ok s => s.vaccess k w store z n i (s.vaddr k m zi n b i)
      | .error e => .error e) (.ok s : Except SRes State)
    match r with
    | .ok s => .ok ((s.vdone k).leaveL1 k 0 true)
    | .error e => e

/-- R233: the three forms of vector memory access. -/
def execVectorLoadStore (t : SThr) (store : Bool) (m : VMode) (ew : Fin 4) (ward : Fin 16) (z base : Fin 32) (ev : List HwEv) (s : State) : Res :=
  s.issueV t (State.runVls (sthKey t) store m ew.val ward.val z.val base.val ev)

/-! ## Arithmetic (R232, R235, R238) -/

/-- What an element comes to: its value (none: open), flags, NaN cause. -/
structure EltRes where
  v : Option Nat
  fl : Nat
  cause : Option Nat
  deriving DecidableEq, Repr

def eltFp (f : Fmt) (r : FpRes) : EltRes := ⟨some (encode f r.v), r.fl, r.cause⟩

/-- Writes element results of `n` bytes to z[d] and takes their flags and the NaN event of the lowest element that wrote one. -/
def State.putElts (s : State) (k iw d n : Nat) (l : List (Nat × EltRes)) : State :=
  let (z, s) := l.foldl (fun (a : Nat × State) e =>
    let (v, s) := a.2.openIf (8 * n) e.2.v
    (zput a.1 n e.1 v, s)) (s.zreg k d, s)
  let s := (s.setZreg k d z).vdone k
  let s := s.fpcFlags k (l.foldl (fun m e => m ||| e.2.fl) 0)
  s.sparNan k iw ((l.filterMap (fun e => e.2.cause.map (fun c => (e.1, c)))).head?)

/-- Writes comparison bits to a ward register; other bits stay. -/
def State.putWard (s : State) (k d : Nat) (l : List (Nat × Bool × Nat)) : State :=
  let w := l.foldl (fun w e => putBits w e.1 1 (if e.2.1 then 1 else 0)) (s.ward k d)
  ((s.setWard k d w).vdone k).fpcFlags k (l.foldl (fun m e => m ||| e.2.2) 0)

/-- An integer comparison (R223). -/
def isIntCmp : IntOp → Bool
  | .eq => true | .ne => true | .lt => true | .ltu => true | .le => true | .leu => true | _ => false

/-- A node of a reduction in a rounding direction: a sum, or R173's maximum or minimum; none is a masked place. -/
def vnode (f : Fmt) (rm : Rm) (op : FpOp) (a b : Option Val × Nat) : Option Val × Nat :=
  match a.1, b.1 with
  | none, _ => (b.1, a.2 ||| b.2)
  | _, none => (a.1, a.2 ||| b.2)
  | some x, some y => match fpArith f rm op x y Val.zero with
    | some r => (some r.v, a.2 ||| b.2 ||| r.fl)
    | none => (some x, a.2 ||| b.2)

/-- A scalar FP result of a reduction. -/
def State.putRed (s : State) (k iw d : Nat) (f : Fmt) (r : Option Val × Nat) (ops : List Val) : State :=
  match r.1 with
  | some v =>
    (((s.setFpat k d f (encode f v)).fpcFlags k r.2).vdone k).sparNan k iw
      (if v.isNan then some (0, if ops.any Val.isNan ∧ ¬ r.2.testBit 0 then 1 else 0) else none)
  | none => let (v, s) := s.openIf 64 none; (s.setFreg k d v).vdone k

def State.runVec (k iw : Nat) (op : VecOp) (ew field d a b c : Nat) (ev : List HwEv) (s : State) (q : DRef) : SRes :=
  let (s, ok) := s.hwEvs (s.sparWriter k q).tag ev
  if ¬ ok then .ok s
  else
    let s := s.plainResidue (s.sparWriter k q).tag 7 (s.sparUnit k) ev
    let n := 2 ^ ew
    let w := 8 * n
    let rm := rmOf (s.sth k).fpc
    let za := s.zreg k a
    let zb := s.zreg k b
    let zc := s.zreg k c
    let ls := s.lanes k n field
    match op with
    | .int o =>
      if o = .reserved ∨ isIntCmp o then .fault s causeILLEGAL 0
      else .ok (s.putElts k iw d n (ls.map (fun i => (i, ⟨intOp w o (zget za n i) (zget zb n i), 0, none⟩))))
    | .mul => .ok (s.putElts k iw d n (ls.map (fun i => (i, ⟨some (zget za n i * zget zb n i % 2 ^ w), 0, none⟩))))
    | .cmpInt o =>
      if ¬ isIntCmp o then .fault s causeILLEGAL 0
      else .ok (s.putWard k (d % 8) (ls.map (fun i => (i, intOp w o (zget za n i) (zget zb n i) == some 1, 0))))
    | .merge =>
      let m := s.wardBits k field
      .ok (s.putElts k iw d n (((List.range (s.active k n)).filter (fun i => (s.sth k).vri ≤ i)).map (fun i =>
        (i, ⟨some (if m.testBit i then zget za n i else zget zb n i), 0, none⟩))))
    | .fp (.cvt src dst) => (match cvtFmt src.val, cvtFmt dst.val with
      | some fa, some fb =>
        if ¬ cvtOk fa fb then .fault s causeILLEGAL 0
        else
          let na := Mx.eltBytes fa
          let nb := Mx.eltBytes fb
          .ok (s.putElts k iw d nb ((s.lanes k nb field).map (fun i =>
            (i, if 512 < na * (i + 1) then ⟨none, 0, none⟩ else eltFp fb (cvtVal fa fb rm (zget za na i))))))
      | _, _ => .fault s causeILLEGAL 0)
    | .fp o => (match ewFmt ew with
      | none => .fault s causeBAD_VFORM 0
      | some f =>
        if o = .classify then .ok (s.putElts k iw d n (ls.map (fun i => (i, ⟨none, 0, none⟩))))
        else if (fpArith f rm o Val.zero Val.zero Val.zero).isNone then .fault s causeILLEGAL 0
        else .ok (s.putElts k iw d n (ls.map (fun i =>
          (i, match fpArith f rm o (decode f (zget za n i)) (decode f (zget zb n i)) (decode f (zget zc n i)) with
            | some r => eltFp f r
            | none => ⟨none, 0, none⟩)))))
    | .cmpFp o => (match ewFmt ew with
      | none => .fault s causeBAD_VFORM 0
      | some f =>
        if (fpCmp o Val.zero Val.zero).isNone then .fault s causeILLEGAL 0
        else .ok (s.putWard k (d % 8) (ls.map (fun i =>
          (i, (fpCmp o (decode f (zget za n i)) (decode f (zget zb n i))).getD (false, 0))))))
    | .redMax => (match ewFmt ew with
      | none => .fault s causeBAD_VFORM 0
      | some f =>
        let vs := ls.map (fun i => decode f (zget za n i))
        .ok (s.putRed k iw d f (vs.foldl (fun x v => vnode f rm .max x (some v, 0)) (none, 0)) vs))
    | .redMin => (match ewFmt ew with
      | none => .fault s causeBAD_VFORM 0
      | some f =>
        let vs := ls.map (fun i => decode f (zget za n i))
        .ok (s.putRed k iw d f (vs.foldl (fun x v => vnode f rm .min x (some v, 0)) (none, 0)) vs))
    | .reserved => .fault s causeILLEGAL 0

/-- R232 and R234: element-by-element arithmetic, comparisons into a ward, merges, conversions, and the maximum and minimum of
R173. DEDUCED: a merge takes z[a] where the ward is set and z[b] elsewhere; a conversion counts elements of its target. -/
def execVectorArithmetic (t : SThr) (op : VecOp) (ew : Fin 4) (ward : Fin 16) (d a b c : Fin 32) (ev : List HwEv) (s : State) : Res :=
  s.issueV t (State.runVec (sthKey t) t.word.toNat op ew.val ward.val d.val a.val b.val c.val ev)

/-! ## Sums (R235) -/

/-- VSUMS: the active elements added to f[d] in ascending order. -/
def execVsums (t : SThr) (ew : Fin 4) (ward : Fin 16) (d a : Fin 32) (s : State) : Res :=
  s.issueV t (fun s _ =>
    let k := sthKey t
    match ewFmt ew.val with
    | none => .fault s causeBAD_VFORM 0
    | some f =>
      let vs := (s.lanes k (2 ^ ew.val) ward.val).map (fun i => decode f (zget (s.zreg k a.val) (2 ^ ew.val) i))
      let x := decode f (s.freg k d.val)
      let r := vs.foldl (fun y v => vnode f (rmOf (s.sth k).fpc) .add y (some v, 0)) (some x, 0)
      if vs = [] then .ok (s.vdone k) else .ok (s.putRed k t.word.toNat d.val f r (x :: vs)))

/-- VSUMT: the active elements by the tree of R170, with inactive places masked, then added to f[d]. -/
def execVsumt (t : SThr) (ew : Fin 4) (ward : Fin 16) (d a : Fin 32) (s : State) : Res :=
  s.issueV t (fun s _ =>
    let k := sthKey t
    match ewFmt ew.val with
    | none => .fault s causeBAD_VFORM 0
    | some f =>
      let n := 2 ^ ew.val
      let rm := rmOf (s.sth k).fpc
      let on := s.lanes k n ward.val
      let vs : List (Option Val × Nat) := (List.range (s.active k n)).map (fun i =>
        (if on.contains i then some (decode f (zget (s.zreg k a.val) n i)) else none, 0))
      let x := decode f (s.freg k d.val)
      let tr := ((Ep.tree (vnode f rm .add) 8 vs).head?).getD (none, 0)
      if on = [] then .ok (s.vdone k)
      else .ok (s.putRed k t.word.toNat d.val f (vnode f rm .add tr (some x, 0)) (x :: vs.filterMap (·.1))))

/-! ## Widening multiplies and dot products (R236) -/

/-- Source width code, source and destination bytes of an instruction of the table; none where the table has no such row. -/
def wideShape (op : WideOp) (dot : Bool) : Option (Nat × Nat × Nat) :=
  match op, dot with
  | .i8, false => some (0, 1, 2) | .i16, false => some (1, 2, 4) | .i32, false => some (2, 4, 8)
  | .eq16, false => some (1, 2, 4) | .f32, false => some (2, 4, 8)
  | .i8, true => some (0, 1, 4) | .u8s8, true => some (0, 1, 4) | .eq16, true => some (1, 2, 4) | .f32, true => some (2, 4, 8)
  | _, _ => none

/-- The exact sum of products added to an accumulator with one rounding; with none, the product alone. -/
def dotRound (f : Fmt) (rm : Rm) (acc : Option Val) (ab : List (Val × Val)) : FpRes :=
  let ops := acc.toList ++ ab.flatMap (fun p => [p.1, p.2])
  match acc, ab with
  | none, (a, b) :: _ => fpRes [a, b] (mul f rm a b)
  | some c, [(a, b)] => fpRes [a, b, c] (fma f rm a b c)
  | _, _ =>
    if ops.any Val.isNan then fpRes ops (nanRes ops)
    else match Mx.exactDot ab with
      | none => fpRes [] invalidRes
      | some p => fpRes [] (add f rm (acc.getD Val.zero) p)

/-- Element `i` of a widening instruction: `acc` is set for VXMAC and VDOT, `m` is the products per element. -/
def wideElt (op : WideOp) (rm : Rm) (acc : Bool) (m n w i o : Nat) (za zb zd : Nat) : EltRes :=
  let idx := (List.range m).map (fun t => o + m * i + t)
  let s := fun (signed : Bool) (z j : Nat) => if signed then sext (8 * n) (zget z n j) else ((zget z n j : Nat) : Int)
  let int := fun (sa : Bool) =>
    let p := idx.foldl (fun (x : Int) j => x + s sa za j * s true zb j) (if acc then sext (8 * w) (zget zd w i) else 0)
    (⟨some (wrapInt (8 * w) p), 0, none⟩ : EltRes)
  let fp := fun (f g : Fmt) =>
    eltFp g (dotRound g rm (if acc then some (decode g (zget zd w i)) else none)
      (idx.map (fun j => (decode f (zget za n j), decode f (zget zb n j)))))
  match op with
  | .u8s8 => int false
  | .eq16 => fp .eq16 .fp32
  | .f32 => fp .fp32 .fp64
  | _ => int true

/-- The shared body of VXMUL, VXMAC and VDOT: `high` selects the upper halves of the sources. -/
def State.runWide (k iw : Nat) (op : WideOp) (acc dot high : Bool) (ew field d a b : Nat) (s : State) (_ : DRef) : SRes :=
  match wideShape op dot with
  | none => .fault s causeILLEGAL 0
  | some (e, n, w) =>
    if acc ∧ ¬ dot ∧ op ≠ .f32 then .fault s causeILLEGAL 0
    else if e ≠ ew then .fault s causeBAD_VFORM 0
    else
      let za := s.zreg k a
      let zb := s.zreg k b
      let zd := s.zreg k d
      let o := if high then 256 / n else 0
      .ok (s.putElts k iw d w ((s.lanes k w field).map (fun i =>
        (i, wideElt op (rmOf (s.sth k).fpc) acc (if dot then w / n else 1) n w i o za zb zd))))

def execVxmul (t : SThr) (op : WideOp) (high : Bool) (ew : Fin 4) (ward : Fin 16) (d a b : Fin 32) (s : State) : Res :=
  s.issueV t (State.runWide (sthKey t) t.word.toNat op false false high ew.val ward.val d.val a.val b.val)

def execVxmac (t : SThr) (op : WideOp) (high : Bool) (ew : Fin 4) (ward : Fin 16) (d a b : Fin 32) (s : State) : Res :=
  s.issueV t (State.runWide (sthKey t) t.word.toNat op true false high ew.val ward.val d.val a.val b.val)

def execVdot (t : SThr) (op : WideOp) (ew : Fin 4) (ward : Fin 16) (d a b : Fin 32) (s : State) : Res :=
  s.issueV t (State.runWide (sthKey t) t.word.toNat op true true false ew.val ward.val d.val a.val b.val)

end Sys2Proof.Machine
end

