-- ==== Sys2Proof/Machine/Switch.lean ====
section
/-! DEFINITION. The fabric die's switch: which packet of a channel moves, and a packet for the node itself (R333 to R337, R354). -/

namespace Sys2Proof.Machine

/-- A remote request or response for the node itself passes through the receiving path of its own fabric die (R354), which refuses another
job's and does the rest as `execRemoteRequestReceive` does; none where a response's local write has to wait, and for other packets. DESIGN
CHOICE (log 47): the path is that of fabric die 0. -/
def State.deliverSelf (s : State) (b : Payload) : Option State :=
  match b with
  | .req r => some (if r.job.toNat = s.fld fJOBSTAMP then s.takeRequest 0 r else s)
  | .resp r =>
    if r.job.toNat ≠ s.fld fJOBSTAMP then some s
    else if s.responseWaits r then none
    else some (s.takeResponse r)
  | _ => none

/-- A packet of a channel that is addressed to the node itself. -/
def State.ownPacket (s : State) (vc : Nat) : Option Packet :=
  s.portQ.find? (fun k => k.vc = vc ∧ k.ports = 0xFFFF ∧ k.dst.toNat = s.fld fNODEID)

/-- The ports whose credits hold back a packet of a channel (R340). -/
def State.starved (s : State) (vc : Nat) : List Nat :=
  ((s.portQ.filter (fun k => k.vc = vc)).filterMap (fun k =>
    (s.choose vc (s.upFor k)).filter (fun p => decide ((s.port p).free vc < k.units)))).eraseDups

/-- The next packet of a channel leaves through a port, if one can: what arbitration puts first goes first (R333), injection keeps to its rate
(R342), and a packet that waits for credits is counted with the time `waited` that it has waited (R340). -/
def State.moveOut (s : State) (vc : Nat) (room : Bool) (waited : Nat) : State :=
  match s.firstGo vc s.portQ [] with
  | some (k, p) =>
    if s.outranked p vc ∨ (s.fld ⟨0x20010, 0, 12⟩ ≠ 0 ∧ ¬ room) then s
    else (State.sendPacket { s with portQ := s.portQ.erase k } p k).collLeft k.body
  | none => (s.starved vc).foldl (fun s p => s.addFld (fPcnt p (13 + vc)) waited) s

/-- R334, R354: the switch moves a packet of a channel. -/
def execPacketSend (vc : Fin 8) (turn : Turn) (s : State) : Res :=
  if s.portQ.all (fun k => k.vc ≠ vc.val) then .refused .notPending
  else match s.ownPacket vc.val with
    | some k => .next ((State.deliverSelf { s with portQ := s.portQ.erase k } k.body).getD (s.moveOut vc.val turn.room turn.waited))
    | none => .next (s.moveOut vc.val turn.room turn.waited)

end Sys2Proof.Machine
end

