-- ==== Sys2Proof/Machine/Dispatch.lean ====
section
/-! DEFINITION. The meaning of every command: one arm for each constructor of `Instr`. -/

namespace Sys2Proof.Machine

/-- The effect of a command on everything but the queue. -/
def exec (i : Instr) (s : State) : Host.Outcome State Fault Refusal :=
  match i with
  | .doorbellTail page off wide value => Sys2Proof.Machine.execDoorbellTail page off wide value s
  | .doorbellHead page off wide value => Sys2Proof.Machine.execDoorbellHead page off wide value s
  | .descriptorFetch r ds => Sys2Proof.Machine.execDescriptorFetch r ds s
  | .ringEnable q cfg => Sys2Proof.Machine.execRingEnable q cfg s
  | .ringDisable q cfg => Sys2Proof.Machine.execRingDisable q cfg s
  | .poisonedTlpReceived w => Sys2Proof.Machine.execPoisonedTlpReceived w s
  | .pointerRecordWrite r => Sys2Proof.Machine.execPointerRecordWrite r s
  | .commitStall tag => Sys2Proof.Machine.execCommitStall tag s
  | .postWaitingRecords c => Sys2Proof.Machine.execPostWaitingRecords c s
  | .nop d => Sys2Proof.Machine.execNop d s
  | .query d => Sys2Proof.Machine.execQuery d s
  | .setup d list => Sys2Proof.Machine.execSetup d list s
  | .registerWrite src off wide value => Sys2Proof.Machine.execRegisterWrite src off wide value s
  | .stepSeal d exp => Sys2Proof.Machine.execStepSeal d exp s
  | .tileRun d halts => Sys2Proof.Machine.execTileRun d halts s
  | .trainRun d halts => Sys2Proof.Machine.execTrainRun d halts s
  | .update d ev => Sys2Proof.Machine.execUpdate d ev s
  | .wregion d ev => Sys2Proof.Machine.execWregion d ev s
  | .wsplit d ev => Sys2Proof.Machine.execWsplit d ev s
  | .wjoin d ev => Sys2Proof.Machine.execWjoin d ev s
  | .wvTimeout d => Sys2Proof.Machine.execWvTimeout d s
  | .xconv d ev => Sys2Proof.Machine.execXconv d ev s
  | .xstat d ev => Sys2Proof.Machine.execXstat d ev s
  | .htod d data ev => Sys2Proof.Machine.execHtod d data ev s
  | .dtoh d ev => Sys2Proof.Machine.execDtoh d ev s
  | .sparRun d => Sys2Proof.Machine.execSparRun d s
  | .sfStruct d ev => Sys2Proof.Machine.execSfStruct d ev s
  | .sfRefactor d run ev => Sys2Proof.Machine.execSfRefactor d run ev s
  | .sfSolve d run ev => Sys2Proof.Machine.execSfSolve d run ev s
  | .sfFree d => Sys2Proof.Machine.execSfFree d s
  | .deadlineMiss e => Sys2Proof.Machine.execDeadlineMiss e s
  | .cdef d ev => Sys2Proof.Machine.execCdef d ev s
  | .coll d => Sys2Proof.Machine.execColl d s
  | .schedLoad d ev => Sys2Proof.Machine.execSchedLoad d ev s
  | .ckpt d => Sys2Proof.Machine.execCkpt d s
  | .resume d img => Sys2Proof.Machine.execResume d img s
  | .drainRank d => Sys2Proof.Machine.execDrainRank d s
  | .lkread d dma => Sys2Proof.Machine.execLkread d dma s
  | .stepDone tag => Sys2Proof.Machine.execStepDone tag s
  | .stepDoneReceive idx rank tag drain fbid bid => Sys2Proof.Machine.execStepDoneReceive idx rank tag drain fbid bid s
  | .commitApply tag marks => Sys2Proof.Machine.execCommitApply tag marks s
  | .nodeLost idx why secured fit => Sys2Proof.Machine.execNodeLost idx why secured fit s
  | .rollback tag epoch => Sys2Proof.Machine.execRollback tag epoch s
  | .spareBind rank idx epoch source pointers cqs rings => Sys2Proof.Machine.execSpareBind rank idx epoch source pointers cqs rings s
  | .spareReady idx regs cells waiting => Sys2Proof.Machine.execSpareReady idx regs cells waiting s
  | .go => Sys2Proof.Machine.execGo s
  | .trailPacketReceive port h data => Sys2Proof.Machine.execTrailPacketReceive port h data s
  | .secured port h => Sys2Proof.Machine.execSecured port h s
  | .resend port h => Sys2Proof.Machine.execResend port h s
  | .cowImageCopy tag page ev => Sys2Proof.Machine.execCowImageCopy tag page ev s
  | .lockerCompletion r => Sys2Proof.Machine.execLockerCompletion r s
  | .checkpointDone idx gen abandoned => Sys2Proof.Machine.execCheckpointDone idx gen abandoned s
  | .beatInEdge t => Sys2Proof.Machine.execBeatInEdge t s
  | .fabricBeat port b t residence => Sys2Proof.Machine.execFabricBeat port b t residence s
  | .beatApply t => Sys2Proof.Machine.execBeatApply t s
  | .flywheelBeat t => Sys2Proof.Machine.execFlywheelBeat t s
  | .laneLockLost p lanes => Sys2Proof.Machine.execLaneLockLost p lanes s
  | .flitReceive p t errs align f => Sys2Proof.Machine.execFlitReceive p t errs align f s
  | .flitAckTimeout p => Sys2Proof.Machine.execFlitAckTimeout p s
  | .packetSend vc turn => Sys2Proof.Machine.execPacketSend vc turn s
  | .fastRetrainDone p => Sys2Proof.Machine.execFastRetrainDone p s
  | .fastRetrainFail p => Sys2Proof.Machine.execFastRetrainFail p s
  | .portDownNotice src port up => Sys2Proof.Machine.execPortDownNotice src port up s
  | .portTrainRequest d p => Sys2Proof.Machine.execPortTrainRequest d p s
  | .portTrainingDone p r => Sys2Proof.Machine.execPortTrainingDone p r s
  | .tdeadSuspendEnd node => Sys2Proof.Machine.execTdeadSuspendEnd node s
  | .rld x => Sys2Proof.Machine.execRld x s
  | .rst x => Sys2Proof.Machine.execRst x s
  | .rfst x => Sys2Proof.Machine.execRfst x s
  | .radd x => Sys2Proof.Machine.execRadd x s
  | .rmin x => Sys2Proof.Machine.execRmin x s
  | .rmax x => Sys2Proof.Machine.execRmax x s
  | .rfadd x => Sys2Proof.Machine.execRfadd x s
  | .rfmin x => Sys2Proof.Machine.execRfmin x s
  | .rfmax x => Sys2Proof.Machine.execRfmax x s
  | .rcas x => Sys2Proof.Machine.execRcas x s
  | .rfence x => Sys2Proof.Machine.execRfence x s
  | .remoteRequestReceive port r => Sys2Proof.Machine.execRemoteRequestReceive port r s
  | .atomicUnitApply stack sector ev => Sys2Proof.Machine.execAtomicUnitApply stack sector ev s
  | .sectorBufferWriteback stack sector => Sys2Proof.Machine.execSectorBufferWriteback stack sector s
  | .combinerWindowClose fd addr => Sys2Proof.Machine.execCombinerWindowClose fd addr s
  | .ack src => Sys2Proof.Machine.execAck src s
  | .remoteResponseReceive port r => Sys2Proof.Machine.execRemoteResponseReceive port r s
  | .defer port r => Sys2Proof.Machine.execDefer port r s
  | .deferResend dst seq => Sys2Proof.Machine.execDeferResend dst seq s
  | .tdeadExpiry dst seq => Sys2Proof.Machine.execTdeadExpiry dst seq s
  | .collGrant port h => Sys2Proof.Machine.execCollGrant port h s
  | .collData port h data => Sys2Proof.Machine.execCollData port h data s
  | .collMarker port h => Sys2Proof.Machine.execCollMarker port h s
  | .collWorkUnit tile thread group seq chunk k ev => Sys2Proof.Machine.execCollWorkUnit tile thread group seq chunk k ev s
  | .markerSend tag => Sys2Proof.Machine.execMarkerSend tag s
  | .collTimeout d => Sys2Proof.Machine.execCollTimeout d s
  | .notOpen tile group chunk => Sys2Proof.Machine.execNotOpen tile group chunk s
  | .mzero x => Sys2Proof.Machine.execMzero x s
  | .mma x order ev => Sys2Proof.Machine.execMma x order ev s
  | .mclose x => Sys2Proof.Machine.execMclose x s
  | .mload x ev => Sys2Proof.Machine.execMload x ev s
  | .mstore x => Sys2Proof.Machine.execMstore x s
  | .mmaf x order ev => Sys2Proof.Machine.execMmaf x order ev s
  | .eprun x ev => Sys2Proof.Machine.execEprun x ev s
  | .xfer x ev => Sys2Proof.Machine.execXfer x ev s
  | .xferComplete tile thread slot ev => Sys2Proof.Machine.execXferComplete tile thread slot ev s
  | .fence x => Sys2Proof.Machine.execFence x s
  | .integerRegisterOp t op d a b => Sys2Proof.Machine.execIntegerRegisterOp t op d a b s
  | .integerImmediateOp t op d a imm => Sys2Proof.Machine.execIntegerImmediateOp t op d a imm s
  | .immx t d imm => Sys2Proof.Machine.execImmx t d imm s
  | .multiplyDivide t op d a b => Sys2Proof.Machine.execMultiplyDivide t op d a b s
  | .branch t op a b off => Sys2Proof.Machine.execBranch t op a b off s
  | .call t d off => Sys2Proof.Machine.execCall t d off s
  | .scalarLoadStore t op ev => Sys2Proof.Machine.execScalarLoadStore t op ev s
  | .nodeAtomic t op wide d a b c ev => Sys2Proof.Machine.execNodeAtomic t op wide d a b c ev s
  | .scalarFloatingPoint t op ew d a b c ev => Sys2Proof.Machine.execScalarFloatingPoint t op ew d a b c ev s
  | .fenceL t => Sys2Proof.Machine.execFenceL t s
  | .fenceN t => Sys2Proof.Machine.execFenceN t s
  | .cwb t a => Sys2Proof.Machine.execCwb t a s
  | .cinv t a => Sys2Proof.Machine.execCinv t a s
  | .controlRegisterAccess t write c r => Sys2Proof.Machine.execControlRegisterAccess t write c r s
  | .trap t code => Sys2Proof.Machine.execTrap t code s
  | .fresume t => Sys2Proof.Machine.execFresume t s
  | .halt t => Sys2Proof.Machine.execHalt t s
  | .yield t => Sys2Proof.Machine.execYield t s
  | .dpost t d a => Sys2Proof.Machine.execDpost t d a s
  | .dwait t d a => Sys2Proof.Machine.execDwait t d a s
  | .remoteAccessReturn t => Sys2Proof.Machine.execRemoteAccessReturn t s
  | .vspanset t d a => Sys2Proof.Machine.execVspanset t d a s
  | .vectorLoadStore t store m ew ward z base ev => Sys2Proof.Machine.execVectorLoadStore t store m ew ward z base ev s
  | .vectorArithmetic t op ew ward d a b c ev => Sys2Proof.Machine.execVectorArithmetic t op ew ward d a b c ev s
  | .vsums t ew ward d a => Sys2Proof.Machine.execVsums t ew ward d a s
  | .vsumt t ew ward d a => Sys2Proof.Machine.execVsumt t ew ward d a s
  | .vxmul t op high ew ward d a b => Sys2Proof.Machine.execVxmul t op high ew ward d a b s
  | .vxmac t op high ew ward d a b => Sys2Proof.Machine.execVxmac t op high ew ward d a b s
  | .vdot t op ew ward d a b => Sys2Proof.Machine.execVdot t op ew ward d a b s
  | .patrolScrubRead stack sector tries bond copy => Sys2Proof.Machine.execPatrolScrubRead stack sector tries bond copy s
  | .d2dParityRetry link dir wire second => Sys2Proof.Machine.execD2dParityRetry link dir wire second s
  | .bankRefresh stack channel bank => Sys2Proof.Machine.execBankRefresh stack channel bank s
  | .thermalSensorRead t => Sys2Proof.Machine.execThermalSensorRead t s
  | .lostPageClear d list => Sys2Proof.Machine.execLostPageClear d list s
  | .nanTrapClear d list => Sys2Proof.Machine.execNanTrapClear d list s
  | .mapImpose d list => Sys2Proof.Machine.execMapImpose d list s
  | .logHeadUpdate d list => Sys2Proof.Machine.execLogHeadUpdate d list s
  | .divergeClear d list => Sys2Proof.Machine.execDivergeClear d list s
  | .unitReport d list => Sys2Proof.Machine.execUnitReport d list s
  | .fleetEntryWrite n value => Sys2Proof.Machine.execFleetEntryWrite n value s
  | .fleetIndexAssign n => Sys2Proof.Machine.execFleetIndexAssign n s
  | .fleetMap ids part cow => Sys2Proof.Machine.execFleetMap ids part cow s
  | .relayedHostTraffic item => Sys2Proof.Machine.execRelayedHostTraffic item s
  | .crewWindowRead off wide => Sys2Proof.Machine.execCrewWindowRead off wide s
  | .crewWindowWrite off wide value => Sys2Proof.Machine.execCrewWindowWrite off wide value s
  | .crewReadTimeout idx => Sys2Proof.Machine.execCrewReadTimeout idx s
  | .relayLost => Sys2Proof.Machine.execRelayLost s
  | .relayReturn => Sys2Proof.Machine.execRelayReturn s
  | .relayHold => Sys2Proof.Machine.execRelayHold s
  | .relayResume => Sys2Proof.Machine.execRelayResume s
  | .relayHoldTimeout => Sys2Proof.Machine.execRelayHoldTimeout s
  | .powerOn vbakKept => Sys2Proof.Machine.execPowerOn vbakKept s
  | .vinLow => Sys2Proof.Machine.execVinLow s
  | .vauxLow vbakLow => Sys2Proof.Machine.execVauxLow vbakLow s
  | .thermtrip => Sys2Proof.Machine.execThermtrip s
  | .perst c released => Sys2Proof.Machine.execPerst c released s
  | .resetN released => Sys2Proof.Machine.execResetN released s
  | .boot b => Sys2Proof.Machine.execBoot b s
  | .warmReset value => Sys2Proof.Machine.execWarmReset value s
  | .watchdogExpiry => Sys2Proof.Machine.execWatchdogExpiry s
  | .lock => Sys2Proof.Machine.execLock s
  | .jobCommand value => Sys2Proof.Machine.execJobCommand value s
  | .jobCommandReceive src id => Sys2Proof.Machine.execJobCommandReceive src id s
  | .jobResetDone idx => Sys2Proof.Machine.execJobResetDone idx s
  | .blockResetRequest id => Sys2Proof.Machine.execBlockResetRequest id s
  | .blockHangDetect id => Sys2Proof.Machine.execBlockHangDetect id s
  | .blockIsolate id idle => Sys2Proof.Machine.execBlockIsolate id idle s
  | .blockResetDone id => Sys2Proof.Machine.execBlockResetDone id s
  | .braceEntry => Sys2Proof.Machine.execBraceEntry s
  | .braceExit micros => Sys2Proof.Machine.execBraceExit micros s
  | .powerLimiterSample avg cur lowFor10ms sinceChange => Sys2Proof.Machine.execPowerLimiterSample avg cur lowFor10ms sinceChange s
  | .frefLoss => Sys2Proof.Machine.execFrefLoss s
  | .furled d list => Sys2Proof.Machine.execFurled d list s
  | .furl => Sys2Proof.Machine.execFurl s
  | .wake by_ => Sys2Proof.Machine.execWake by_ s
  | .d3hot => Sys2Proof.Machine.execD3hot s
  | .d0 => Sys2Proof.Machine.execD0 s
  | .digestRecord r => Sys2Proof.Machine.execDigestRecord r s
  | .marginTestDone profile fails again => Sys2Proof.Machine.execMarginTestDone profile fails again s
  | .fire value => Sys2Proof.Machine.execFire value s
  | .freeze => Sys2Proof.Machine.execFreeze s
  | .thaw => Sys2Proof.Machine.execThaw s
  | .freezeTimeout => Sys2Proof.Machine.execFreezeTimeout s
  | .flush => Sys2Proof.Machine.execFlush s
  | .telltaleFlushDone => Sys2Proof.Machine.execTelltaleFlushDone s
  | .mclear value => Sys2Proof.Machine.execMclear value s
  | .ttRdcntWrite src value => Sys2Proof.Machine.execTtRdcntWrite src value s
  | .fwWrite img => Sys2Proof.Machine.execFwWrite img s
  | .svnCommit => Sys2Proof.Machine.execSvnCommit s
  | .revoke => Sys2Proof.Machine.execRevoke s
  | .attest => Sys2Proof.Machine.execAttest s
  | .dbgChallenge => Sys2Proof.Machine.execDbgChallenge s
  | .dbgResponse => Sys2Proof.Machine.execDbgResponse s
  | .dbgNonceExpiry => Sys2Proof.Machine.execDbgNonceExpiry s
  | .dbgClose => Sys2Proof.Machine.execDbgClose s
  | .lcAdvance => Sys2Proof.Machine.execLcAdvance s
  | .rcvLoad img => Sys2Proof.Machine.execRcvLoad img s
  | .nodeidSet => Sys2Proof.Machine.execNodeidSet s
  | .pwunlock pw => Sys2Proof.Machine.execPwunlock pw s
  | .extest => Sys2Proof.Machine.execExtest s
  | .getVersion => Sys2Proof.Machine.execGetVersion s
  | .getCapabilities => Sys2Proof.Machine.execGetCapabilities s
  | .negotiateAlgorithms => Sys2Proof.Machine.execNegotiateAlgorithms s
  | .getDigests => Sys2Proof.Machine.execGetDigests s
  | .getCertificate slot off len => Sys2Proof.Machine.execGetCertificate slot off len s
  | .challenge slot nonce => Sys2Proof.Machine.execChallenge slot nonce s
  | .getMeasurements index => Sys2Proof.Machine.execGetMeasurements index s
  | .status => Sys2Proof.Machine.execStatus s
  | .vin => Sys2Proof.Machine.execVin s
  | .vaux => Sys2Proof.Machine.execVaux s
  | .vbak => Sys2Proof.Machine.execVbak s
  | .power => Sys2Proof.Machine.execPower s
  | .tjmax => Sys2Proof.Machine.execTjmax s
  | .tcasemax => Sys2Proof.Machine.execTcasemax s
  | .reef => Sys2Proof.Machine.execReef s
  | .alertcauseRead => Sys2Proof.Machine.execAlertcauseRead s
  | .alertcauseWrite v => Sys2Proof.Machine.execAlertcauseWrite v s
  | .alertmaskRead => Sys2Proof.Machine.execAlertmaskRead s
  | .alertmaskWrite v => Sys2Proof.Machine.execAlertmaskWrite v s
  | .ident => Sys2Proof.Machine.execIdent s
  | .frefReturn => Sys2Proof.Machine.execFrefReturn s
  | .struck furledCrew => Sys2Proof.Machine.execStruck furledCrew s
  | .bidHashReport idx rank bid => Sys2Proof.Machine.execBidHashReport idx rank bid s
  | .alertResponseAddress => Sys2Proof.Machine.execAlertResponseAddress s

end Sys2Proof.Machine
end

