-- ==== Sys2Proof/WellFormed.lean ====
section
/-! DEFINITION. Well-formed commands: operands within the fields that carry them on their bus or packet. -/

namespace Sys2Proof

/-- An access of 4 or 8 bytes inside a window of `n` bytes, aligned to its size (R614). -/
def mmioOk (n off : Nat) (wide : Bool) : Bool := decide (off < n) && decide (off % (if wide then 8 else 4) = 0)

/-- The fields of a remote request (R357, R362). -/
def requestOk (r : Request) : Bool :=
  decide (r.rop < 16) && decide (r.size < 8) && decide (r.seq < 2 ^ 32) && decide (r.data.length ≤ 256)

/-- The fields of a response or ACK (R362). -/
def responseOk (r : Response) : Bool := decide (r.seq < 2 ^ 32) && decide (r.cum < 2 ^ 32) && decide (r.data.length ≤ 256)

/-- The fields of a collective header (R409). -/
def collOk (h : CollHdr) : Bool := decide (h.seq < 2 ^ 32) && decide (h.chunk < 2 ^ 24) && decide (h.part < 1024)

/-- The fields of a trail header (R475). -/
def trailOk (h : TrailHdr) : Bool := decide (h.part < 4) && decide (h.page < 2 ^ 27)

/-- A beat packet (R348, R349). -/
def beatOk (b : BeatPkt) : Bool := decide (b.num < 2 ^ 64) && decide (b.hops ≤ 8)

/-- The fields of a flit header (R330). -/
def flitOk (f : Flit) : Bool :=
  decide (f.seq < 4096) && decide (f.ack < 4096) && decide (f.cvc < 8) && decide (f.ccnt < 4096) && decide (f.kind < 4)

/-- Sensor readings: four for each of 32 stacks, one for each of 32 tiles (R307, R308). -/
def tempsOk (t : Temps) : Bool :=
  decide (t.stack.length = 32) && t.stack.all (fun l => decide (l.length = 4)) && decide (t.tileJ.length = 32)

/-- A link delay fits FAB_PSTAT's 16 bits, and the coefficients are those of eight lanes (R325, R327). -/
def trainOk : TrainEnd → Bool
  | .up _ _ delay coefs => decide (delay < 65536) && decide (coefs.length = 8)
  | .eqFail _ => true

/-- A command whose operands fit the fields that carry them. -/
def WellFormed : Instr → Bool
  | .doorbellTail _ off wide _ => mmioOk 0x1000 off wide
  | .doorbellHead _ off wide _ => mmioOk 0x1000 off wide
  | .descriptorFetch _ ds => decide (ds ≠ [])
  | .ringEnable .. => true
  | .ringDisable .. => true
  | .poisonedTlpReceived .. => true
  | .pointerRecordWrite .. => true
  | .commitStall .. => true
  | .postWaitingRecords .. => true
  | .nop .. => true
  | .query .. => true
  | .setup _ list => decide (list.length ≤ 256)
  | .registerWrite _ off wide _ => mmioOk 0x2000000 off wide
  | .stepSeal .. => true
  | .tileRun .. => true
  | .trainRun .. => true
  | .update .. => true
  | .wregion .. => true
  | .wsplit .. => true
  | .wjoin .. => true
  | .wvTimeout .. => true
  | .xconv .. => true
  | .xstat .. => true
  | .htod _ data _ => decide (data.length ≤ 2 ^ 32)
  | .dtoh .. => true
  | .sparRun .. => true
  | .sfStruct .. => true
  | .sfRefactor .. => true
  | .sfSolve .. => true
  | .sfFree .. => true
  | .deadlineMiss .. => true
  | .cdef .. => true
  | .coll .. => true
  | .schedLoad .. => true
  | .ckpt .. => true
  | .resume .. => true
  | .drainRank .. => true
  | .lkread .. => true
  | .stepDone tag => decide (tag ≠ 0)
  | .stepDoneReceive _ rank tag _ _ _ => decide (rank < 4096) && decide (tag ≠ 0)
  | .commitApply tag _ => decide (tag ≠ 0)
  | .nodeLost .. => true
  | .rollback .. => true
  | .spareBind rank _ _ _ _ _ _ => decide (rank < 4096)
  | .spareReady .. => true
  | .go => true
  | .trailPacketReceive _ h data => trailOk h && decide (data.length ≤ 1024)
  | .secured _ h => trailOk h
  | .resend _ h => trailOk h
  | .cowImageCopy _ page _ => decide (page < 2 ^ 27)
  | .lockerCompletion .. => true
  | .checkpointDone .. => true
  | .beatInEdge .. => true
  | .fabricBeat _ b _ _ => beatOk b
  | .beatApply .. => true
  | .flywheelBeat .. => true
  | .laneLockLost .. => true
  | .flitReceive _ _ errs _ f => flitOk f && decide (errs.Nodup)
  | .flitAckTimeout .. => true
  | .packetSend .. => true
  | .fastRetrainDone .. => true
  | .fastRetrainFail .. => true
  | .portDownNotice .. => true
  | .portTrainRequest .. => true
  | .portTrainingDone _ r => trainOk r
  | .tdeadSuspendEnd .. => true
  | .rld .. => true
  | .rst .. => true
  | .rfst .. => true
  | .radd .. => true
  | .rmin .. => true
  | .rmax .. => true
  | .rfadd .. => true
  | .rfmin .. => true
  | .rfmax .. => true
  | .rcas .. => true
  | .rfence .. => true
  | .remoteRequestReceive _ r => requestOk r
  | .atomicUnitApply _ sector _ => decide (sector < 2 ^ 34)
  | .sectorBufferWriteback _ sector => decide (sector < 2 ^ 34)
  | .combinerWindowClose _ addr => decide (addr < 2 ^ 39)
  | .ack .. => true
  | .remoteResponseReceive _ r => responseOk r
  | .defer _ r => responseOk r
  | .deferResend _ seq => decide (seq < 2 ^ 32)
  | .tdeadExpiry _ seq => decide (seq < 2 ^ 32)
  | .collGrant _ h => collOk h
  | .collData _ h data => collOk h && decide (data.length ≤ 1024)
  | .collMarker _ h => collOk h
  | .collWorkUnit _ thread group seq chunk _ _ => decide (12 ≤ thread.val) && decide (group < 1024) && decide (seq < 2 ^ 32) && decide (chunk < 2 ^ 24)
  | .markerSend .. => true
  | .collTimeout .. => true
  | .notOpen _ group chunk => decide (group < 1024) && decide (chunk < 2 ^ 24)
  | .mzero .. => true
  | .mma .. => true
  | .mclose .. => true
  | .mload .. => true
  | .mstore .. => true
  | .mmaf .. => true
  | .eprun .. => true
  | .xfer .. => true
  | .xferComplete _ _ slot _ => decide (slot < 8)
  | .fence .. => true
  | .integerRegisterOp .. => true
  | .integerImmediateOp .. => true
  | .immx .. => true
  | .multiplyDivide .. => true
  | .branch .. => true
  | .call .. => true
  | .scalarLoadStore .. => true
  | .nodeAtomic .. => true
  | .scalarFloatingPoint .. => true
  | .fenceL .. => true
  | .fenceN .. => true
  | .cwb .. => true
  | .cinv .. => true
  | .controlRegisterAccess .. => true
  | .trap .. => true
  | .fresume .. => true
  | .halt .. => true
  | .yield .. => true
  | .dpost .. => true
  | .dwait .. => true
  | .remoteAccessReturn .. => true
  | .vspanset .. => true
  | .vectorLoadStore .. => true
  | .vectorArithmetic .. => true
  | .vsums .. => true
  | .vsumt .. => true
  | .vxmul .. => true
  | .vxmac .. => true
  | .vdot .. => true
  | .patrolScrubRead _ sector tries _ _ => decide (sector < 2 ^ 29) && decide (tries ≠ []) && decide (tries.length ≤ 4)
  | .d2dParityRetry .. => true
  | .bankRefresh .. => true
  | .thermalSensorRead t => tempsOk t
  | .lostPageClear _ list => decide (list.length ≤ 256)
  | .nanTrapClear _ list => decide (list.length ≤ 256)
  | .mapImpose _ list => decide (list.length ≤ 256)
  | .logHeadUpdate _ list => decide (list.length ≤ 256)
  | .divergeClear _ list => decide (list.length ≤ 256)
  | .unitReport _ list => decide (list.length ≤ 256)
  | .fleetEntryWrite .. => true
  | .fleetIndexAssign .. => true
  | .fleetMap ids _ _ => decide (ids.length ≤ 64) && ids.all (fun i => decide (i < 8192))
  | .relayedHostTraffic .. => true
  | .crewWindowRead off wide => decide (0x1000000 ≤ off) && mmioOk 0x2000000 off wide
  | .crewWindowWrite off wide _ => decide (0x1000000 ≤ off) && mmioOk 0x2000000 off wide
  | .crewReadTimeout .. => true
  | .relayLost => true
  | .relayReturn => true
  | .relayHold => true
  | .relayResume => true
  | .relayHoldTimeout => true
  | .powerOn .. => true
  | .vinLow => true
  | .vauxLow .. => true
  | .thermtrip => true
  | .perst .. => true
  | .resetN .. => true
  | .boot b => b.upPorts.all (fun u => trainOk (.up u.peer u.width u.delay u.coefs))
  | .warmReset .. => true
  | .watchdogExpiry => true
  | .lock => true
  | .jobCommand .. => true
  | .jobCommandReceive .. => true
  | .jobResetDone .. => true
  | .blockResetRequest .. => true
  | .blockHangDetect .. => true
  | .blockIsolate .. => true
  | .blockResetDone .. => true
  | .braceEntry => true
  | .braceExit .. => true
  | .powerLimiterSample .. => true
  | .frefLoss => true
  | .furled _ list => decide (list.length ≤ 256)
  | .furl => true
  | .wake .. => true
  | .d3hot => true
  | .d0 => true
  | .digestRecord .. => true
  | .marginTestDone .. => true
  | .fire .. => true
  | .freeze => true
  | .thaw => true
  | .freezeTimeout => true
  | .flush => true
  | .telltaleFlushDone => true
  | .mclear .. => true
  | .ttRdcntWrite .. => true
  | .fwWrite .. => true
  | .svnCommit => true
  | .revoke => true
  | .attest => true
  | .dbgChallenge => true
  | .dbgResponse => true
  | .dbgNonceExpiry => true
  | .dbgClose => true
  | .lcAdvance => true
  | .rcvLoad .. => true
  | .nodeidSet => true
  | .pwunlock .. => true
  | .extest => true
  | .getVersion => true
  | .getCapabilities => true
  | .negotiateAlgorithms => true
  | .getDigests => true
  | .getCertificate slot off len => decide (slot < 8) && decide (off < 65536) && decide (len < 65536)
  | .challenge slot _ => decide (slot < 8)
  | .getMeasurements index => decide (index < 256)
  | .status => true
  | .vin => true
  | .vaux => true
  | .vbak => true
  | .power => true
  | .tjmax => true
  | .tcasemax => true
  | .reef => true
  | .alertcauseRead => true
  | .alertcauseWrite .. => true
  | .alertmaskRead => true
  | .alertmaskWrite .. => true
  | .ident => true
  | .frefReturn => true
  | .struck .. => true
  | .bidHashReport _ rank _ => decide (rank < 4096)
  | .alertResponseAddress => true

end Sys2Proof
end

