-- ==== Sys2Proof/Safety.lean ====
section
/-! DEFINITION. What a safe run is, in the terms the statements use: the canonical form of the memories, a command that
completes, a queue that runs to its end, and the conditions under which a descriptor, an instruction or a packet goes ahead. -/

namespace Sys2Proof.Machine

/-- The two addressed memories of the node, node memory and the scratchpads, in canonical form. -/
abbrev State.memOk (s : State) : Prop := Memory.wf s.mem ∧ Memory.wf s.spad

/-- The keys of the state's sparse maps rise strictly (registers, MSI-X table, rings, ports, tile registers, wide accumulators,
chains, threads and their registers), an exact chain is bound to one of the two wide accumulators of its core (R114), and no thread
spans more than 512 bytes (R231). -/
abbrev State.mapsOk (s : State) : Prop :=
  SM.Sorted s.regs ∧ SM.Sorted s.msix ∧ SM.Sorted s.sq ∧ SM.Sorted s.cq ∧ SM.Sorted s.ports ∧ SM.Sorted s.tr ∧ SM.Sorted s.wa
    ∧ SM.Sorted s.chain ∧ SM.Sorted s.vthr ∧ SM.Sorted s.spar ∧ (∀ p ∈ s.vthr, SM.Sorted p.2.g)
    ∧ (∀ p ∈ s.spar, SM.Sorted p.2.i ∧ SM.Sorted p.2.f ∧ SM.Sorted p.2.z ∧ SM.Sorted p.2.w)
    ∧ (∀ p ∈ s.chain, ∀ k n, p.2.c = .wide k n → k < 2) ∧ (∀ p ∈ s.spar, p.2.vspan ≤ 512 ∧ p.2.fspan ≤ 512)

/-- The well-formed states: the two memories in canonical form, and every other sparse map with its keys in order. -/
abbrev State.wf (s : State) : Prop := s.memOk ∧ s.mapsOk

/-- The command completes: `exec` answers a next state. -/
def Completes (i : Instr) (s : State) : Prop := ∃ t, exec i s = .next t

/-- A step that neither stops with a fault nor is refused. -/
def SafeStep (s : State) : Prop := ∃ t, step s = .next t

/-- `k` steps that neither stop nor are refused. -/
def SafeRun : Nat → State → Prop
  | 0, _ => True
  | k + 1, s => ∃ t, step s = .next t ∧ SafeRun k t

/-- Descriptor `d` is held as `x`, has not started, and neither its fences, SERIAL nor the order of its stream hold it back
(R43, R44). -/
def State.Startable (s : State) (d : DRef) (x : InDesc) : Prop :=
  s.desc? d = some x ∧ x.st = .waiting ∧ s.orderOk x = true

/-- Descriptor `d` stands as `x` but for its end, with a status and a RESULT (R46). -/
def State.Finished (t : State) (d : DRef) (x : InDesc) (status result : Nat) : Prop :=
  t.desc? d = some { x with st := .finished, status := BitVec.ofNat 16 status, result := BitVec.ofNat 32 result }

/-- The two states differ in nothing but descriptors, steps and the marks of what the factor engines run: what the end of a
step descriptor without other effect changes (R48). -/
def State.OnlyEnds (s t : State) : Prop := t = { s with descs := t.descs, steps := t.steps, eng := t.eng }

/-- The host address at which the next record of completion ring `c` is written (R46, R49). -/
def State.recSlot (s : State) (c : Nat) : Nat :=
  getBits (s.word (fCqCfg c)).toNat 12 52 * 4096 + 32 * ((s.cring c).written.toNat % cfgSize (s.word (fCqCfg c)))

/-- Nothing keeps a record of descriptor `x` from being posted at once by this node itself: no record waits, the node is no crew
node, and the completion ring is enabled, has a slot, and lies in the outbound windows (R65, R66, R585). -/
def State.PostsAtOnce (s : State) (x : InDesc) : Prop :=
  s.recs = [] ∧ s.isCrew = false ∧ s.cqRoom (dCring x.raw) = true ∧ s.winOk true (s.recSlot (dCring x.raw)) 32 = true

/-- The host write of the record of an immediate descriptor at count `c` of ring `r` (R46): no digest, the phase of the present
pass round the ring, and the epoch. -/
def State.recWrite (s : State) (r c : Nat) (x : InDesc) (status : BitVec 16) (result : BitVec 32) : Out :=
  .hostWrite (s.recSlot (dCring x.raw)) (leBytes 32 (recNat r s.myIdx c (dTag x.raw) status result 0
    (1 - (s.cring (dCring x.raw)).written.toNat / cfgSize (s.word (fCqCfg (dCring x.raw))) % 2) (s.fld fEPOCH)))

/-- What the end of an immediate descriptor does (R46, R48, R65, R66): the memories, the register state, the registers but the rings' own and the open steps stay; its record is
the next thing the node writes where nothing keeps it back, waits where the completion ring has no room, and is left out for a QUIET
descriptor that ends well. -/
def State.ImmEnds (s t : State) (r : Fin 64) (c : Nat) (x : InDesc) (status : BitVec 16) (result : BitVec 32) : Prop :=
  t.mem = s.mem ∧ t.spad = s.spad ∧ t.comm = s.comm ∧ t.live = s.live ∧ t.steps = s.steps
    ∧ (¬ (dQuiet x.raw = true ∧ status.toNat < 0x100) → s.PostsAtOnce x →
      (∃ o, t.out = s.out ++ s.recWrite r.val c x status result :: o)
        ∧ (t.cring (dCring x.raw)).written = (s.cring (dCring x.raw)).written + 1)
    ∧ (¬ (dQuiet x.raw = true ∧ status.toNat < 0x100) → s.recs = [] → s.cqRoom (dCring x.raw) = false →
      t.recs = [⟨r.val, c, dTag x.raw, status, result, 0, dCring x.raw, dIrq x.raw, true⟩])
    ∧ (dQuiet x.raw = true ∧ status.toNat < 0x100 → s.recs = [] → t.recs = [])
    ∧ (SM.Sorted s.regs → ∀ o, o < 0x10000 ∨ 0x10200 ≤ o → t.word o = s.word o)

/-- What the scalar instructions before an engine instruction make of the state, for the descriptor that the thread runs. -/
def State.scalarsOf (s : State) (i : VxtIssue) : VRes :=
  match (s.thr i.tile.val i.thread.val).run with
  | some d => s.scalars i.tile.val i.thread.val d i.scalars
  | none => .wait

/-- The state as an engine instruction finds it: the scalar instructions of its thread have run, and the thread stands at it. -/
def State.issued (s : State) (i : VxtIssue) : State :=
  match s.scalarsOf i with
  | .ok u => u.updThr i.tile.val i.thread.val (fun x => { x with pc := i.pc })
  | _ => s

/-- After an engine instruction: its thread halts where the instruction is its program's last. -/
def State.after (s : State) (i : VxtIssue) : State := if i.last then s.haltThr i.tile.val i.thread.val else s

/-- A thread of a tile core issues an engine instruction with OP `op` for descriptor `d`: it runs that descriptor, has not halted, waits for no
remote operation, its tile issues (R7), and its scalar instructions run without fault. -/
def State.CanIssue (s : State) (i : VxtIssue) (d : DRef) (op : Nat) : Prop :=
  (s.thr i.tile.val i.thread.val).run = some d ∧ (s.thr i.tile.val i.thread.val).halted = false ∧ i.word.toNat % 256 = op
    ∧ (s.remote.ops.any (fun o => o.by_ = .tile i.tile.val i.thread.val && o.waits)) = false
    ∧ s.reefStop i.tile.val = false ∧ ∃ u, s.scalarsOf i = .ok u

/-- The registers, wide accumulators and chains of every tile but `t` are the same. -/
def State.OtherTilesKept (s u : State) (t : Nat) : Prop :=
  (∀ k, k / 131072 ≠ t → SM.getD 0 u.tr k = SM.getD 0 s.tr k)
    ∧ (∀ k, k / 65536 ≠ t → SM.getD ⟨0, false, 0⟩ u.wa k = SM.getD ⟨0, false, 0⟩ s.wa k)
    ∧ (∀ k, k / 16 ≠ t → SM.getD {} u.chain k = SM.getD {} s.chain k)

/-- An engine descriptor of a tile queue that carries opcode `op` may do its work: it is startable, has a place in its queue, no tile of it is
under BLOCK reset or has its stream stopped, and the weight-version scoreboard lets it go (R181, R182, R196, R197). -/
def State.EngReady (s : State) (d : DRef) (x : InDesc) (op : Nat) : Prop :=
  s.Startable d x ∧ dOp x.raw = op ∧ x.step ≠ 0 ∧ s.queueFull x = false ∧ s.tileClosed x.raw = false ∧ s.score x = .go
    ∧ (tilesOf x.raw).any (fun t => s.isStopped t (dStream x.raw) 0) = false

/-- Node memory after several writes, in order. -/
def memWrites (m : List Host.Cell) (ws : List (Nat × Nat × List Byte)) : List Host.Cell :=
  ws.foldl (fun m w => memWrite m w.2.1 w.2.2) m

/-- Thread `t` of the Spar cores is ready and runs descriptor `d` (R219), its core issues (R7), and its instruction is of one of the classes
`cls` and has no reserved encoding (R223). -/
def State.SparReady (s : State) (t : SThr) (d : DRef) (cls : List Nat) : Prop :=
  (s.sth (sthKey t)).run = some d ∧ (s.sth (sthKey t)).halted = false ∧ (s.sth (sthKey t)).wait = .none_ ∧ s.capStop = false
    ∧ getBits t.word.toNat 27 5 ∈ cls ∧ t.reserved = false

/-- The state as an operation of thread `t` finds it once the storage happenings named with it have struck, and whether they let it go on. -/
def State.sparSeen (s : State) (t : SThr) (d : DRef) (ev : List HwEv) : State := (s.hwEvs (s.sparWriter (sthKey t) d).tag ev).1
def State.sparGoes (s : State) (t : SThr) (d : DRef) (ev : List HwEv) : Bool := (s.hwEvs (s.sparWriter (sthKey t) d).tag ev).2

/-- The same once the residues of the core's arithmetic are compared (R503). -/
def State.sparChecked (s : State) (t : SThr) (d : DRef) (ev : List HwEv) : State :=
  let z := s.sparSeen t d ev
  z.plainResidue (z.sparWriter (sthKey t) d).tag 7 (z.sparUnit (sthKey t)) ev

/-- The five arithmetic operations, the square root, and the maximum and minimum of R173. -/
def fpSpec (f : Fp.Fmt) (rm : Fp.Rm) (op : FpOp) (a b c : Fp.Val) : Option Fp.Res :=
  match op with
  | .add => some (Fp.add f rm a b)
  | .sub => some (Fp.sub f rm a b)
  | .mul => some (Fp.mul f rm a b)
  | .fma => some (Fp.fma f rm a b c)
  | .div => some (Fp.div f rm a b)
  | .sqrt => some (Fp.sqrt f rm a)
  | .max => some (if a.isNan || b.isNan then Fp.nanRes [a, b] else ⟨Ep.maxV a b, 0⟩)
  | .min => some (if a.isNan || b.isNan then Fp.nanRes [a, b] else ⟨Ep.minV a b, 0⟩)
  | _ => none

/-- Nothing but Spar-core thread `t` and the count of free values taken differs. -/
def State.OnlySpar (s u : State) (t : SThr) : Prop :=
  u = { s with spar := u.spar, freeCtr := u.freeCtr } ∧ ∀ j, j ≠ sthKey t → u.sth j = s.sth j

/-- The instruction wrote `v` to integer register `d` (nothing to i31), and the thread goes on behind it; no other register of the
thread changes, and nothing else of the node. -/
def State.SparWrote (s u : State) (t : SThr) (d : Fin 32) (v : BitVec 64) : Prop :=
  s.OnlySpar u t
    ∧ (∀ n, u.ireg (sthKey t) n = if n = d.val ∧ n ≠ 31 then v.toNat else s.ireg (sthKey t) n)
    ∧ u.sth (sthKey t) = { s.sth (sthKey t) with i := (u.sth (sthKey t)).i, pc := (s.sth (sthKey t)).pc + 4 }

/-- The same node with thread `t` behind its instruction. -/
def State.sparNext (s : State) (t : SThr) : State := s.updSth (sthKey t) (fun x => { x with pc := x.pc + 4 })

/-- The thread goes on behind its instruction, unless that has ended it. -/
def State.sparEnd (s : State) (t : SThr) (d : DRef) : State :=
  if (s.sth (sthKey t)).run = some d ∧ (s.sth (sthKey t)).halted = false then s.sparNext t else s

/-- A restarting fault with a handler (R243): the registers it saves, and where the thread goes on. A scalar instruction faults as if it were
element 0 (R241). -/
def State.sparFaulted (s : State) (t : SThr) (cause : Nat) (data : BitVec 64) : State :=
  s.setSth (sthKey t) { s.sth (sthKey t) with
    fret := (s.sth (sthKey t)).pc, fcode := cause, fdata := data, fspan := (s.sth (sthKey t)).vspan,
    fvri := if getBits t.word.toNat 27 5 < 16 then 0 else (s.sth (sthKey t)).vri, vri := 0, inh := true, pc := (s.sth (sthKey t)).fvec }

/-- The integer operations of R223 on words, written with the operations of bit vectors; none where the manual states no result (a
shift by the width or more) and for a reserved encoding. -/
def intSpec {w : Nat} (op : IntOp) (a b : BitVec w) : Option (BitVec w) :=
  let bool := fun (p : Bool) => some (if p then 1#w else 0#w)
  match op with
  | .add => some (a + b)
  | .sub => some (a - b)
  | .and => some (a &&& b)
  | .or => some (a ||| b)
  | .xor => some (a ^^^ b)
  | .sll => if b.toNat < w then some (a <<< b.toNat) else none
  | .srl => if b.toNat < w then some (a >>> b.toNat) else none
  | .sra => if b.toNat < w then some (a.sshiftRight b.toNat) else none
  | .rotl => some (a.rotateLeft (b.toNat % w))
  | .rotr => some (a.rotateRight (b.toNat % w))
  | .eq => bool (a == b)
  | .ne => bool (a != b)
  | .lt => bool (a.slt b)
  | .ltu => bool (a.ult b)
  | .le => bool (a.sle b)
  | .leu => bool (a.ule b)
  | .min => some (if a.sle b then a else b)
  | .max => some (if b.sle a then a else b)
  | .minu => some (if a.ule b then a else b)
  | .maxu => some (if b.ule a then a else b)
  | .popcount => some (BitVec.ofNat w ((List.range w).filter (fun i => a.getLsbD i)).length)
  | .clz => some (BitVec.ofNat w ((List.range w).takeWhile (fun i => !a.getMsbD i)).length)
  | .bytrev => some (BitVec.ofNat w (leNat (leBytes (w / 8) a.toNat).reverse))
  | .reserved => none

/-- Vector element `i`, of `n` bytes, is active under a ward field (R232). -/
def State.laneOn (s : State) (t : SThr) (n field i : Nat) : Prop :=
  (s.sth (sthKey t)).vri ≤ i ∧ i < ((s.sth (sthKey t)).vspan + n - 1) / n
    ∧ (if field < 8 then (s.ward (sthKey t) field).testBit i = true else (s.ward (sthKey t) (field - 8)).testBit i = false)

/-- What a vector instruction that writes z[d] leaves alone: every other vector register, every register of another kind but FPC, and
the rest of the node; VRI is 0 (R232). -/
def State.VecDone (s u : State) (t : SThr) (d : Fin 32) : Prop :=
  s.OnlySpar u t ∧ (∀ r, r ≠ d.val → u.zreg (sthKey t) r = s.zreg (sthKey t) r)
    ∧ u.sth (sthKey t) = { s.sth (sthKey t) with z := (u.sth (sthKey t)).z, fpc := (u.sth (sthKey t)).fpc, vri := 0 }

/-- Every element of z[d] of `n` bytes that `on` marks holds what `val` says, where that is stated; every other one is as before. -/
def State.Elements (s u : State) (t : SThr) (d : Fin 32) (n : Nat) (on : Nat → Prop) (val : Nat → Option Nat) : Prop :=
  ∀ i, i < 512 / n → (on i → ∀ v, val i = some v → zget (u.zreg (sthKey t) d.val) n i = v)
    ∧ (¬ on i → zget (u.zreg (sthKey t) d.val) n i = zget (s.zreg (sthKey t) d.val) n i)

/-- The status record of a descriptor of engine `e` lies outside the workspaces of that engine and of those that hold a structure. -/
def State.RecApart (s : State) (raw : BitVec 512) (e : Nat) : Prop :=
  ∀ j ∈ e :: s.live.sol.map (·.1), dProg raw + 64 ≤ s.fld (fWSBASE j) * 4096 ∨ (s.fld (fWSBASE j) + s.fld (fWSLEN j)) * 4096 ≤ dProg raw

/-- The write of the status record need not wait for an image slot (R261, R470), whatever the record holds. -/
def State.RecGoes (s : State) (d : DRef) (e : Nat) : Prop := (s.writeRec d e {}).isSome = true

/-- An engine descriptor that may start now on a free engine: `op` on engine `e` (R255). -/
def State.SolverStarts (s : State) (d : DRef) (x : InDesc) (op e : Nat) : Prop :=
  s.Startable d x ∧ dOp x.raw = op ∧ x.step ≠ 0 ∧ e = dEngine x.raw ∧ s.isStopped (0x80 + e) 3 0 = false
    ∧ s.inBlk (0x20 + e) = false ∧ s.capStop = false ∧ (s.engRec e).run = none ∧ SM.Sorted s.live.sol ∧ SM.Sorted s.eng ∧ s.RecApart x.raw e

/-- The same once an SF_REFACTOR or SF_SOLVE has started on the engine. -/
def State.onEngine (s : State) (d : DRef) (x : InDesc) (e : Nat) : State :=
  (s.running d 0).setEng e { s.engRec e with run := some d, start := s.word 0x80008, deadline := dDeadline x.raw }

/-- Descriptor `d` runs `op` on engine `e` and has not reached its deadline. -/
def State.SolverRuns (s : State) (d : DRef) (x : InDesc) (op e : Nat) : Prop :=
  s.desc? d = some x ∧ x.st = .running ∧ dOp x.raw = op ∧ x.step ≠ 0 ∧ e = dEngine x.raw ∧ s.inBlk (0x20 + e) = false ∧ s.capStop = false
    ∧ ((s.engRec e).deadline = 0 ∨ s.fld fBEATCNT < (s.engRec e).start.toNat + (s.engRec e).deadline)
    ∧ SM.Sorted s.live.sol ∧ SM.Sorted s.eng ∧ s.RecApart x.raw e

/-- The state, and the context, on which an engine works once the happenings of storage and of its datapath have struck: they let it go on, and where another
unit has written the workspace, or no two results agree, every value is open (R258, R284). -/
def State.engSees (s : State) (d : DRef) (e : Nat) (ev : List HwEv) : SolCtx × State :=
  let r := s.hwEvs (s.writer d 0).tag ev
  let q := r.1.solChecks (s.writer d 0).tag e ev
  q.1.workCtx e q.2
def State.engGoes (s : State) (d : DRef) (ev : List HwEv) : Bool := (s.hwEvs (s.writer d 0).tag ev).2

end Sys2Proof.Machine
end

