-- ==== Sys2Proof/Certificates/Slice0/Obligations.lean ====
section
/-! DEFINITION. The statements for the provers: what the commands do, family by family, and what every step keeps. -/

open Sys2Proof Sys2Proof.Machine

/-! ## The queue -/

/-- A step takes the command at the front of the queue and runs it with the queue's rest.

A step of a state whose queue is empty changes nothing (the model's choice, log entry 4). -/
def Obligations.StepRunsTheFrontCommand : Prop :=
  (
  ∀ (c : Instr) (cs : List Instr) (s : State), s.pending = c :: cs → step s = exec c { s with pending := cs }
  ) ∧ (
  ∀ s : State, s.pending = [] → step s = .next s
  )

/-- The machine after reset is well-formed: both memories read 0 everywhere (log entry 3), every stored register
word is the reset word of the register map, no ring holds a descriptor, no step is open, no port is up, and no command waits. -/
def Obligations.ResetState : Prop :=
  State.reset.wf ∧ (∀ a, State.reset.rdByte a = 0) ∧ (∀ off, State.reset.word off = Reg.resetWord (off / 8 * 8))
    ∧ (∀ r, State.reset.ring r = {}) ∧ State.reset.steps = [] ∧ State.reset.descs = [] ∧ State.reset.pending = []
    ∧ (∀ p, (State.reset.port p).st = .disabled) ∧ State.reset.comm = State.reset.live

/-- Node memory and the scratchpads keep their canonical form under every command: addresses strictly rising, and no byte listed
that reads as it would unlisted. -/
def Obligations.StepKeepsMemories : Prop :=
  ∀ s t : State, s.memOk → step s = .next t → t.memOk

/-- The registers, the MSI-X table, the rings, the ports, the tile registers, the wide accumulators, the chains and the threads stay
well-formed maps, with keys strictly rising, under every command. -/
def Obligations.StepKeepsMaps : Prop :=
  ∀ s t : State, s.mapsOk → step s = .next t → t.mapsOk

/-! ## Host interface (chapter 02) -/

/-- R51, R56, R57, R554: the tail doorbell of ring r of this node, which wakes a Furled node first. A disabled ring counts the doorbell in
HIF_DBDROP; a value between tail and retire + ring size becomes the tail; any other halts the ring and raises vector 18. That a halted
ring takes no doorbell is the model's choice (log entry 42). Bits [63:32] of the write are ignored. The rest of the state stays.

R56, R57, R554: the head doorbell of completion ring c of this node: a value from the head to the count of records written becomes
the head; a disabled ring and any other value count in HIF_DBDROP, and the head keeps its value.

R56, R71: a write to the reserved area of the node's own doorbell page is dropped and counted in HIF_DBDROP, and changes nothing else. A
write to page n of the masthead goes to the crew node that HIF_FLEETn names, whatever its offset. One to the page of an empty
index is dropped and counted in HIF_DBDROP, which is the model's choice (log entry 42).

R51, R55, R60, R49, R659: a fetch of one descriptor, of an immediate or a step ring, that the node may fetch from moves the ring's head
on by one and leaves its tail; where no held descriptor has a fence on it, node memory and the committed register state stay. At a descriptor of a step later than the two oldest uncommitted tags
head is held, and nothing changes. From a ring that is not enabled, that is halted or disabling, or whose head is at its tail, nothing
is fetched and nothing changes. -/
def Obligations.DoorbellsAndFetches : Prop :=
  (
  ∀ (s : State) (p r : Fin 64) (wide : Bool) (v : BitVec 64), s.pw.booting = false → p.val = s.myIdx →
    let u := s.wakeSelf
    exec (.doorbellTail p (8 * r.val) wide v) s = .next (
      if (u.word (fSqCfg r.val)).getLsbD 0 = false then u.setFld fDBDROP (satInc 32 (u.fld fDBDROP))
      else if (u.ring r.val).halted then u
      else if ((u.ring r.val).tail - (u.ring r.val).retire).toNat ≤ (v.setWidth 32 - (u.ring r.val).retire).toNat
          ∧ (v.setWidth 32 - (u.ring r.val).retire).toNat ≤ cfgSize (u.word (fSqCfg r.val)) then
        u.setRing r.val { u.ring r.val with tail := v.setWidth 32 }
      else (u.setRing r.val { u.ring r.val with halted := true }).vector 18)
  ) ∧ (
  ∀ (s : State) (p : Fin 64) (c : Fin 16) (wide : Bool) (v : BitVec 64), s.pw.booting = false → p.val = s.myIdx →
    let u := s.wakeSelf
    exec (.doorbellHead p (0x400 + 8 * c.val) wide v) s = .next (
      if (u.word (fCqCfg c.val)).getLsbD 0
          ∧ (v.setWidth 32 - (u.cring c.val).head).toNat ≤ ((u.cring c.val).written - (u.cring c.val).head).toNat then
        u.setCring c.val { u.cring c.val with head := v.setWidth 32 }
      else u.setFld fDBDROP (satInc 32 (u.fld fDBDROP)))
  ) ∧ (
  ∀ (s : State) (p : Fin 64) (off : Nat) (wide : Bool) (v : BitVec 64) (i : Instr),
    s.pw.booting = false → (i = .doorbellTail p off wide v ∨ i = .doorbellHead p off wide v) →
    (p.val = s.myIdx → (∀ r : Fin 64, off ≠ 8 * r.val) → (∀ c : Fin 16, off ≠ 0x400 + 8 * c.val) →
      exec i s = .next (s.wakeSelf.setFld fDBDROP (satInc 32 (s.wakeSelf.fld fDBDROP))))
    ∧ (p.val ≠ s.myIdx → s.isMast = true → s.fld (fFleet p.val) ≠ 0 →
      exec i s = .next { s with portQ := s.portQ ++
        [⟨7, BitVec.ofNat 12 (s.fld (fFleet p.val)), 0xFFFF, 32, .fleet (.relay (.doorbell p off wide v))⟩] })
    ∧ (p.val ≠ s.myIdx → s.isMast = false ∨ s.fld (fFleet p.val) = 0 →
      exec i s = .next (s.setFld fDBDROP (satInc 32 (s.fld fDBDROP))))
  ) ∧ (
  (∀ (s : State) (r : Fin 64) (raw : BitVec 512),
    s.mayFetch r.val = true → (s.ring r.val).tail ≠ (s.ring r.val).head → s.unstarted r.val < 32 →
    (∀ y ∈ s.descs, (r.val, (s.ring r.val).head.toNat) ∉ y.fences) →
    s.winOk false (getBits (s.word (fSqCfg r.val)).toNat 12 52 * 4096
      + 64 * ((s.ring r.val).head.toNat % cfgSize (s.word (fSqCfg r.val)))) 64 = true →
    (s.isImm r.val = true ∨ dTag raw = 0 ∨ (dTag raw).toNat ≤ s.comm.lastTag.toNat ∨ s.older (dTag raw) < 2 →
      ∃ t, exec (.descriptorFetch r [raw]) s = .next t ∧ (t.ring r.val).head = (s.ring r.val).head + 1
        ∧ (t.ring r.val).tail = (s.ring r.val).tail ∧ t.mem = s.mem ∧ t.spad = s.spad ∧ t.comm = s.comm)
    ∧ (s.isImm r.val = false → dTag raw ≠ 0 → s.comm.lastTag.toNat < (dTag raw).toNat → 2 ≤ s.older (dTag raw) →
      s.descs.any (fun d => d.ref = .ring r (s.ring r.val).head.toNat ∧ d.committed) = false →
      exec (.descriptorFetch r [raw]) s = .next s))
  ∧ (∀ (s : State) (r : Fin 64) (ds : List (BitVec 512)),
    ((s.word (fSqCfg r.val)).getLsbD 0 = false ∨ (s.ring r.val).halted = true ∨ (s.ring r.val).disabling = true
      ∨ (s.ring r.val).tail = (s.ring r.val).head) →
    exec (.descriptorFetch r ds) s = .next s)
  ∧ (∀ (s : State) (r : Fin 64) (ds : List (BitVec 512)),
    ∃ t, exec (.descriptorFetch r ds) s = .next t ∧ t.spad = s.spad)
  )

/-- R49: the write that sets EN of a submission ring that is disabled sets its tail, head and retire counts to 0 and clears a
halt; one to a ring that is enabled already cancels its disabling and leaves its tail and head. The write that clears EN of a ring whose
retire has reached its head disables it at once; another ring goes on with what it has fetched, with EN still 1, and is marked as
disabling. A completion ring starts with no record written, and is disabled at once.

R36, R38: the endpoint that receives poisoned data logs Poisoned TLP Received and reports it as non-fatal. Poisoned descriptor data
halt the ring with vector 18; poisoned D-stream data complete the descriptor with POISON_IN, 0x0200.

R41, R54, R65, R556: a step whose seal was fetched and that has not committed raises vector 17 once; while D3hot is being taken the
masthead or a standalone node then rolls the fleet back. A pointer record carries head, retire and the epoch to HIF_PTRBASE + 16 r in
one 16-byte write, through the masthead for a crew node, halts its ring where it lies outside the windows, and none is written for a ring that is not enabled
or while the relay is lost. Records that wait are posted without any effect on the memories, the register state and the steps. -/
def Obligations.RingsAndNotices : Prop :=
  (
  ∀ (s : State) (cfg : BitVec 64), s.wf → s.pw.booting = false → getBits cfg.toNat 4 4 ≤ 8 →
    (∀ r : Fin 64, ∃ t, exec (.ringEnable (.sq r) cfg) s = .next t ∧ (t.word (fSqCfg r.val)).getLsbD 0 = true
      ∧ t.mem = s.mem ∧ t.spad = s.spad ∧ t.comm = s.comm ∧ (t.ring r.val).disabling = false
      ∧ ((s.word (fSqCfg r.val)).getLsbD 0 = false →
        (t.ring r.val).tail = 0 ∧ (t.ring r.val).head = 0 ∧ (t.ring r.val).retire = 0 ∧ (s.recs = [] → t.ring r.val = {}))
      ∧ ((s.word (fSqCfg r.val)).getLsbD 0 = true →
        (t.ring r.val).tail = (s.ring r.val).tail ∧ (t.ring r.val).head = (s.ring r.val).head))
    ∧ (∀ c : Fin 16, ∃ t, exec (.ringEnable (.cq c) cfg) s = .next t ∧ (t.word (fCqCfg c.val)).getLsbD 0 = true
      ∧ t.mem = s.mem ∧ t.spad = s.spad ∧ t.comm = s.comm
      ∧ (s.recs = [] → t.cring c.val = if (s.word (fCqCfg c.val)).getLsbD 0 then s.cring c.val else {}))
    ∧ (∀ r : Fin 64, ∃ t, exec (.ringDisable (.sq r) cfg) s = .next t ∧ t = { s with regs := t.regs, sq := t.sq }
      ∧ (t.word (fSqCfg r.val)).getLsbD 0
        = ((s.word (fSqCfg r.val)).getLsbD 0 && decide ((s.ring r.val).retire ≠ (s.ring r.val).head))
      ∧ ((s.word (fSqCfg r.val)).getLsbD 0 = true →
        t.ring r.val = { s.ring r.val with disabling := decide ((s.ring r.val).retire ≠ (s.ring r.val).head) }))
    ∧ (∀ c : Fin 16, ∃ t, exec (.ringDisable (.cq c) cfg) s = .next t ∧ t = { s with regs := t.regs }
      ∧ (t.word (fCqCfg c.val)).getLsbD 0 = false)
  ) ∧ (
  ∀ s u : State, u = (if s.isCrew then s else { s with aerPoison := true, out := s.out ++ [.errNonFatal] }) →
    (∀ r : Fin 64, (s.word (fSqCfg r.val)).getLsbD 0 = true →
      exec (.poisonedTlpReceived (.ring r)) s = .next ((u.setRing r.val { u.ring r.val with halted := true }).vector 18))
    ∧ (∀ (r : Fin 64) (c : Nat) (x : InDesc), s.desc? (.ring r c) = some x → dOp x.raw ∈ [0x400, 0x401] →
      x.st ≠ .finished → x.step ≠ 0 →
      ∃ t, exec (.poisonedTlpReceived (.stream (.ring r c))) s = .next t ∧ t.Finished (.ring r c) x 0x0200 0 ∧ u.OnlyEnds t)
  ) ∧ (
  (∀ (s : State) (tag : BitVec 64) (x : Step) (n : Nat), s.step? tag = some x → x.sealCnt = some n →
    let u := if s.stalledTags.contains tag then s else State.vector { s with stalledTags := tag :: s.stalledTags } 17
    exec (.commitStall tag) s = .next (if s.pw.d3 = true ∧ s.isCrew = false then u.rollbackFleet else u))
  ∧ (∀ (s : State) (tag : BitVec 64) (x : Step), s.step? tag = some x → x.sealCnt = none → s.pw.d3 = true → s.isCrew = false →
    exec (.commitStall tag) s = .next s.rollbackFleet)
  ∧ (∀ (s : State) (r : Fin 64),
    let bs := leBytes 4 (s.ring r.val).head.toNat ++ leBytes 4 (s.ring r.val).retire.toNat ++ leBytes 4 (s.fld fEPOCH) ++ leBytes 4 0
    let a := s.fld fPTRBASE * 4096 + 16 * r.val
    let on := (s.word (fSqCfg r.val)).getLsbD 0 = true ∧ s.rec_.relayLost = false
    (on → s.isCrew = false → s.winOk true a 16 = true →
      exec (.pointerRecordWrite r) s = .next { s with out := s.out ++ [.hostWrite a bs] })
    ∧ (on → s.isCrew = true → s.winOk true a 16 = true →
      exec (.pointerRecordWrite r) s = .next { s with portQ := s.portQ ++
        [⟨7, s.nodeAt 0, 0xFFFF, 32, .fleet (.relay (.write (Fin.ofNat 64 s.myIdx) a 16 (leNat bs)))⟩] })
    ∧ (on → s.winOk true a 16 = false →
      exec (.pointerRecordWrite r) s = .next ((s.setRing r.val { s.ring r.val with halted := true }).vector 18))
    ∧ (¬ on → exec (.pointerRecordWrite r) s = .next s))
  ∧ (∀ (s : State) (c : Fin 16), ∃ t, exec (.postWaitingRecords c) s = .next t ∧ t.mem = s.mem ∧ t.spad = s.spad
    ∧ t.comm = s.comm ∧ t.live = s.live ∧ t.steps = s.steps
    ∧ ((∀ x ∈ s.recs, x.cq ≠ c.val) ∨ s.rec_.relayLost = true → t = s)
    ∧ (∀ x : Rec, s.recs = [x] → x.cq = c.val → s.cqRoom c.val = true → t.recs = []))
  )

/-- R44, R46, R66 and Table: opcode ranges: NOP completes with OK. On a step ring its end changes nothing but its descriptor and
its step. On an immediate ring it ends with its record, with STATUS 0 and RESULT 0, as `ImmEnds` says.

R61, R460: STEP_SEAL completes with OK; outside replay its end changes nothing but its descriptor and its step. In replay its comparison may
also set the divergence latch.

R622, R585: a QUERY of COUNT words from offset PROG writes those words to host memory at ARG0 and then its record, whose RESULT is the
low half of the first word; a crew node sends them through the masthead. One whose COUNT is 0 or above 256, whose offset or host address is misaligned, or whose offset lies outside BAR0 ends
with EXEC_ERROR and cause BAD_REG, 0x1501, and one whose words would leave the outbound windows with OUT_OF_WINDOW; neither writes a word. Node
memory, the scratchpads, the register state and the open steps stay. -/
def Obligations.ImmediateAndSealDescriptors : Prop :=
  (
  ∀ (s : State) (r : Fin 64) (c : Nat) (x : InDesc), s.Startable (.ring r c) x → dOp x.raw = 0 →
    (x.step ≠ 0 → ∃ t, exec (.nop (.ring r c)) s = .next t ∧ t.Finished (.ring r c) x 0 0 ∧ s.OnlyEnds t)
    ∧ (x.step = 0 → ∃ t, exec (.nop (.ring r c)) s = .next t ∧ s.ImmEnds t r c x 0 0)
  ) ∧ (
  ∀ (s : State) (r : Fin 64) (c : Nat) (x : InDesc) (e : Option ExpStep), s.Startable (.ring r c) x → dOp x.raw = 3 → x.step ≠ 0 →
    ∃ t, exec (.stepSeal (.ring r c) e) s = .next t ∧ t.Finished (.ring r c) x 0 0
      ∧ (s.fld fRMODE ≠ 2 → s.OnlyEnds t) ∧ s.OnlyEnds { t with regs := s.regs }
  ) ∧ (
  ∀ (s : State) (r : Fin 64) (c : Nat) (x : InDesc), s.Startable (.ring r c) x → dOp x.raw = 1 → x.step = 0 →
    let bad := dArg x.raw 3 = 0 ∨ 256 < dArg x.raw 3 ∨ dProg x.raw % 8 ≠ 0 ∨ 2 ^ 24 ≤ dProg x.raw ∨ dArg x.raw 0 % 32 ≠ 0
    let ws := (List.range (dArg x.raw 3)).map (fun k => s.regRead (dProg x.raw + 8 * k))
    (¬ bad → s.winOk true (dArg x.raw 0) (8 * dArg x.raw 3) = true →
      ∃ t u : State, exec (.query (.ring r c)) s = .next t
        ∧ u.ImmEnds t r c x 0 (BitVec.ofNat 32 ((s.regRead (dProg x.raw)).toNat % 2 ^ 32))
        ∧ (s.isCrew = false → u = { s with out := s.out ++ [.hostWrite (dArg x.raw 0) (ws.flatMap (fun w => leBytes 8 w.toNat))] })
        ∧ (s.isCrew = true → u = { s with portQ := s.portQ ++ [⟨7, s.nodeAt 0, 0xFFFF, 32, .fleet (.relay (.write (Fin.ofNat 64 s.myIdx)
            (dArg x.raw 0) (8 * dArg x.raw 3) (leNat (ws.flatMap (fun w => leBytes 8 w.toNat)))))⟩] }))
    ∧ (bad → ∃ t, exec (.query (.ring r c)) s = .next t ∧ s.ImmEnds t r c x 0x0204 0x1501)
    ∧ (¬ bad → s.winOk true (dArg x.raw 0) (8 * dArg x.raw 3) = false →
      ∃ t, exec (.query (.ring r c)) s = .next t ∧ s.ImmEnds t r c x 0x0108 0)
  )

/-! ## Registers and SETUP (chapter 21) -/

/-- R40, R614, R617, R662: what host-side writes store. A write at an offset that its width does not divide has no effect. An MSI-X table
word takes the value whole and reads back as written, and no unmasked vector stays pending after it. HIF_PTRBASE takes bits [63:12];
HIF_RLYTO takes its 11 bits from a write of 32 bits, and a value outside 8 to 1024 is refused and sets RST_STAT.BADWR.

R617: a host-side MMIO write to MODE_EXACT, a field that only a SETUP writes, is ignored and sets RST_STAT.LOCKWR; node memory and
the committed register state stay.

R584: a unit's write to TT_CTL, a field that only a host-side write changes, leaves the register, is counted in SEC_BNDCNT, and is
reported by trigger 0x009 at its first time; a write of a unit to a word without such a field changes nothing.

R620 and Table: access codes, for a word of the map whose fields do not overlap: a write under a mask keeps the stored bits of an
RO field, sets the marked bits of a plain RW field to the value's, and clears the marked bits of a W1C field where the value has
a 1. The fields of the GLB, MODE and RST words do not overlap. -/
def Obligations.RegisterWrites : Prop :=
  (
  (∀ (s : State) (off : Nat) (wide : Bool) (v : BitVec 64), off % (if wide then 8 else 4) ≠ 0 →
    exec (.registerWrite .host off wide v) s = .next s)
  ∧ (∀ (s : State) (off : Nat) (v : BitVec 64), s.wf → s.pw.booting = false → off % 8 = 0 →
    0x14000 ≤ off → off < 0x1C000 →
    ∃ t, exec (.registerWrite .host off true v) s = .next t ∧ t.regRead off = v
      ∧ (∀ o, o ≠ off → o % 8 = 0 → o < 0x1F000 ∨ 0x1F100 ≤ o → t.regRead o = s.regRead o)
      ∧ t = { s with msix := t.msix, pba := t.pba, out := t.out } ∧ (∀ k ∈ t.pba, t.masked k = true ∧ k ∈ s.pba))
  ∧ (∀ (s : State) (v : BitVec 64), s.pw.booting = false →
    exec (.registerWrite .host 0x10600 true v) s = .next (s.setWord 0x10600 (v &&& 0xFFFFFFFFFFFFF000)))
  ∧ (∀ (s : State) (v : BitVec 64), s.pw.booting = false →
    exec (.registerWrite .host 0x10618 false v) s = .next (
      if 8 ≤ v.toNat % 2048 ∧ v.toNat % 2048 ≤ 1024 then s.setWord 0x10618 (v &&& 0x7FF) else s.setFld fBADWR 1))
  ) ∧ (
  ∀ (s : State) (v : BitVec 64), s.wf → s.pw.booting = false →
    ∃ t, exec (.registerWrite .host 0x30000 true v) s = .next t ∧ t.flag fLOCKWR = true ∧ t.fld fEXACT = s.fld fEXACT
      ∧ t.mem = s.mem ∧ t.spad = s.spad ∧ t.comm = s.comm ∧ t.live = s.live ∧ t.descs = s.descs
  ) ∧ (
  (∀ (s : State) (u : BitVec 8) (v : BitVec 64), s.pw.booting = false →
    exec (.registerWrite (.unit u) 0x50000 true v) s = .next (
      if (s.incFld fBNDCNT).sec.boundSeen.contains 0x50000 then s.incFld fBNDCNT
      else State.fire { s.incFld fBNDCNT with sec := { s.sec with boundSeen := 0x50000 :: s.sec.boundSeen } } 0x009 u.toNat 0x50000))
  ∧ (∀ (s : State) (u : BitVec 8) (v : BitVec 64), s.pw.booting = false →
    exec (.registerWrite (.unit u) 0x10600 true v) s = .next s)
  ) ∧ (
  (∀ (off i : Nat) (old v m : BitVec 64) (f : Nat × Reg.Field),
    (Reg.fieldsAt off).Pairwise (fun a b => fieldMask a &&& fieldMask b = 0) →
    f ∈ Reg.fieldsAt off → f.1 ≤ i → i < f.1 + f.2.w → i < 64 →
    (f.2.acc = .ro → (wordAfter off old v m).getLsbD i = old.getLsbD i)
    ∧ (f.2.acc = .rw → f.2.cnt = false →
      (wordAfter off old v m).getLsbD i = if m.getLsbD i then v.getLsbD i else old.getLsbD i)
    ∧ (f.2.acc = .w1c → (wordAfter off old v m).getLsbD i = (old.getLsbD i && !(m.getLsbD i && v.getLsbD i))))
  ∧ (∀ k : Fin 32, ∀ b ∈ [0, 0x30000, 0x40000],
    (Reg.fieldsAt (b + 8 * k.val)).Pairwise (fun a b => fieldMask a &&& fieldMask b = 0))
  )

/-- R619 to R621, R554: a SETUP of an immediate ring, and each of its seven rows that name a register of its own, ends Furled first. Where no
entry is BAD_REG and no mode reason refuses it, the writes take effect as one action (`u`), the SETUP is noted for its step, and it ends with STATUS OK; node
memory and the register state are those the writes leave. A SETUP whose own writes discard every descriptor, as those of a reset do, ends with them.

R621, R607, R585: a refused SETUP writes nothing: node memory, the register state and the open steps are as before (but for the end of
Furled, R554), and it ends with EXEC_ERROR and BAD_REG, with MODE_REFUSED and the first reason, or with OUT_OF_WINDOW where its list leaves the windows. -/
def Obligations.SetupCompletes : Prop :=
  (
  ∀ (s u : State) (r : Fin 64) (c : Nat) (x : InDesc) (list : List (BitVec 256)) (ws : List WordWrite),
    s.Startable (.ring r c) x → dOp x.raw = 2 → x.step = 0 →
    list.length = getBits (dArg x.raw 3) 0 9 → list.length ≤ 256 → setupList x.raw list = some ws →
    (list ≠ [] → s.wakeSelf.winOk false (dArg x.raw 2) (32 * list.length) = true) →
    s.wakeSelf.setupWrites ws = .done u →
    ∀ i : Instr,
      (i = .setup (.ring r c) list
        ∨ (i = .lostPageClear (.ring r c) list ∧ ws.any (fun w => decide (0x91000 ≤ w.off) && decide (w.off < 0x91400)) = true)
        ∨ (i = .nanTrapClear (.ring r c) list ∧ ws.any (fun w => w.off == 0x30010 && w.mask.getLsbD 1) = true)
        ∨ (i = .mapImpose (.ring r c) list ∧ ws.any (fun w => w.off == 0x30070 || w.off == 0x30078) = true)
        ∨ (i = .logHeadUpdate (.ring r c) list ∧ ws.any (fun w => w.off == 0x300D8) = true)
        ∨ (i = .divergeClear (.ring r c) list ∧ ws.any (fun w => w.off == 0x300F0) = true)
        ∨ (i = .unitReport (.ring r c) list ∧ ws.any (fun w => w.off == 0x90030) = true)
        ∨ (i = .furled (.ring r c) list ∧ ws.any (fun w => w.off == 0x40038 && w.value &&& w.mask &&& 3 == 1) = true)) →
      ∃ t, exec i s = .next t ∧ (u.desc? (.ring r c) = some x → u.ImmEnds t r c x 0 0)
        ∧ (u.desc? (.ring r c) = none → t = { u with setups := t.setups, eng := t.eng })
  ) ∧ (
  ∀ (s : State) (r : Fin 64) (c : Nat) (x : InDesc) (list : List (BitVec 256)),
    s.Startable (.ring r c) x → dOp x.raw = 2 → x.step = 0 →
    list.length = (if getBits (dArg x.raw 3) 0 9 ≤ 256 then getBits (dArg x.raw 3) 0 9 else 0) →
    let u := s.wakeSelf
    (setupList x.raw list = none → ∃ t, exec (.setup (.ring r c) list) s = .next t ∧ u.ImmEnds t r c x 0x0204 0x1501)
    ∧ (∀ ws, setupList x.raw list = some ws →
      (list ≠ [] → u.winOk false (dArg x.raw 2) (32 * list.length) = false →
        ∃ t, exec (.setup (.ring r c) list) s = .next t ∧ u.ImmEnds t r c x 0x0108 0)
      ∧ ((list ≠ [] → u.winOk false (dArg x.raw 2) (32 * list.length) = true) →
        (u.setupWrites ws = .badReg →
          ∃ t, exec (.setup (.ring r c) list) s = .next t ∧ u.ImmEnds t r c x 0x0204 0x1501)
        ∧ (∀ n, u.setupWrites ws = .refused n → n ≠ 0x1405 →
          ∃ t, exec (.setup (.ring r c) list) s = .next t ∧ u.ImmEnds t r c x 0x0107 (BitVec.ofNat 32 n))
        ∧ (u.setupWrites ws = .refused 0x1405 → ∃ t, exec (.setup (.ring r c) list) s = .next t ∧
          (if touches ws 0x10A08 0x10C00 then u.setFld fOVER 1 else u).ImmEnds t r c x 0x0107 0x1405)))
  )

/-- R108, R306, R461, R452, R457, R514, R555: what each of those writes leaves in its registers. The clear of the NaN trap empties the
trap and lets every stopped stream run; a clear of a lost page fills the page with zeros; the clear of the divergence latch clears
its cause and tag and lets fetching go on; MODE_IMPOSE and LOGHEAD take the value; a reported unit marks the node suspect and
flagged; Furled sets PWRSTATE to 1. -/
def Obligations.SetupRowEffects : Prop :=
  (∀ s : State, (s.react s ⟨0x30010, 2, 2, false⟩).comm.nan = 0 ∧ (s.react s ⟨0x30010, 2, 2, false⟩).live.nan = 0
    ∧ (s.react s ⟨0x30010, 2, 2, false⟩).stopped = [])
  ∧ (∀ (s : State) (i : Fin 64), s.wf → s.flag (fLostValid i.val) = true →
    let t := s.applyWrite ⟨0x91000 + 16 * i.val, 2 ^ 47, 2 ^ 47, false⟩
    t.mem = memWrite s.mem (s.fld (fLostPage i.val) * 4096) (List.replicate 4096 0) ∧ t.flag (fLostValid i.val) = false)
  ∧ (∀ s : State, s.wf →
    let t := s.applyWrite ⟨0x300F0, 0x80, 0x80, false⟩
    t.fld fDIVCAUSE = 0 ∧ t.fld fDIVTAG = 0 ∧ t.flag fDIVLATCH = false ∧ t.rec_.haltFetch = false ∧ t.mem = s.mem)
  ∧ (∀ (s : State) (v : BitVec 64), s.wf → (s.applyWrite ⟨0x30070, v, BitVec.allOnes 64, false⟩).word 0x30070 = v)
  ∧ (∀ (s : State) (v : BitVec 64), s.wf → s.logQ = [] →
    (s.applyWrite ⟨0x300D8, v, BitVec.allOnes 64, false⟩).fld fLOGHEAD = v.toNat % 2 ^ 32)
  ∧ (∀ (s : State) (u : BitVec 38), s.wf →
    let t := s.applyWrite ⟨0x90030, u.setWidth 64, 2 ^ 38 - 1, false⟩
    t.flag fSUSPECT = true ∧ t.flag fFLAGGED = true ∧ t.mem = s.mem)
  ∧ (∀ s : State, s.wf → (s.applyWrite ⟨0x40038, 1, 3, false⟩).fld fPWRSTATE = 1)

/-- R45, R303, R305, R319, R470: HTOD copies its ARG2 bytes to node address ARG1 and DTOH copies ARG2 bytes from node address ARG1 to the host at ARG0 (through the
masthead on a crew node), each completing with OK where no storage error that comes with it (`ev`, R303) keeps it back. Every other byte of node memory stays for HTOD, and
every byte for DTOH; without such a happening the scratchpads, the registers, the rings and what the node sends stay. An access that the node memory's rules refuse completes with EXEC_ERROR and its cause and moves no
byte, and one that must wait changes nothing.

R45, R192: a transfer whose length is no multiple of 32 bytes from 32 bytes to 1 GiB, or whose host address is not 32-byte aligned,
completes with EXEC_ERROR and RESULT 0x0201, one that leaves the windows with OUT_OF_WINDOW, 0x0108, and one that touches a low range with EXEC_ERROR and
LOW_HALF; length and alignment are checked first, and no byte moves.

Node memory reads back what was written: a byte inside the range written reads as the byte written there, and every other byte
reads as before. -/
def Obligations.DataMovement : Prop :=
  (
  (∀ (s s' : State) (r : Fin 64) (c : Nat) (x : InDesc) (data : List Byte) (ev : List HwEv), s.Startable (.ring r c) x →
    dOp x.raw = 0x400 → x.step ≠ 0 → badDma (dArg x.raw 0) (dArg x.raw 2) = false → data.length = dArg x.raw 2 →
    s.winOk false (dArg x.raw 0) (dArg x.raw 2) = true → s.touchesLow (dArg x.raw 1) (dArg x.raw 2) = false →
    s.write (s.writer (.ring r c) 0xF0 3) (dArg x.raw 1) data = .ok s' → (s.hwEvs x.step ev).2 = true →
    ∃ t, exec (.htod (.ring r c) data ev) s = .next t ∧ t.Finished (.ring r c) x 0 0
      ∧ t.mem = memWrite s.mem (dArg x.raw 1) data ∧ t.spad = s.spad
      ∧ (ev = [] → s.ckpt = none → t.regs = s.regs ∧ t.sq = s.sq ∧ t.comm = s.comm ∧ t.out = s.out))
  ∧ (∀ (s : State) (r : Fin 64) (c : Nat) (x : InDesc) (ev : List HwEv), s.Startable (.ring r c) x → dOp x.raw = 0x401 → x.step ≠ 0 →
    badDma (dArg x.raw 0) (dArg x.raw 2) = false → s.winOk true (dArg x.raw 0) (dArg x.raw 2) = true →
    s.touchesLow (dArg x.raw 1) (dArg x.raw 2) = false → s.rdCheck (dArg x.raw 1) (dArg x.raw 2) = none →
    (s.hwEvs x.step ev).2 = true →
    ∃ t, exec (.dtoh (.ring r c) ev) s = .next t ∧ t.Finished (.ring r c) x 0 0 ∧ t.mem = s.mem ∧ t.spad = s.spad
      ∧ (ev = [] → s.isCrew = false →
        t.out = s.out ++ [.hostWrite (dArg x.raw 0) (s.rdBytes (dArg x.raw 1) (dArg x.raw 2))] ∧ s.OnlyEnds { t with out := s.out })
      ∧ (ev = [] → s.isCrew = true →
        t.portQ = s.portQ ++ [⟨7, s.nodeAt 0, 0xFFFF, 32, .fleet (.relay (.write (Fin.ofNat 64 s.myIdx) (dArg x.raw 0)
          (dArg x.raw 2) (leNat (s.rdBytes (dArg x.raw 1) (dArg x.raw 2)))))⟩] ∧ s.OnlyEnds { t with portQ := s.portQ }))
  ∧ (∀ (s : State) (r : Fin 64) (c : Nat) (x : InDesc) (data : List Byte) (ev : List HwEv) (e : MErr) (i : Instr) (wr : Bool),
    s.Startable (.ring r c) x → x.step ≠ 0 → badDma (dArg x.raw 0) (dArg x.raw 2) = false →
    s.winOk wr (dArg x.raw 0) (dArg x.raw 2) = true → s.touchesLow (dArg x.raw 1) (dArg x.raw 2) = false →
    ((i = .htod (.ring r c) data ev ∧ dOp x.raw = 0x400 ∧ wr = false ∧ data.length = dArg x.raw 2
        ∧ s.write (s.writer (.ring r c) 0xF0 3) (dArg x.raw 1) data = .error e)
      ∨ (i = .dtoh (.ring r c) ev ∧ dOp x.raw = 0x401 ∧ wr = true ∧ s.rdCheck (dArg x.raw 1) (dArg x.raw 2) = some e)) →
    ∃ t, exec i s = .next t ∧ t.mem = s.mem ∧ t.out = s.out
      ∧ (if e = .wait then t = s else t.Finished (.ring r c) x 0x0204 (e.cause 0x0902 0x0902)))
  ) ∧ (
  ∀ (s : State) (r : Fin 64) (c : Nat) (x : InDesc) (data : List Byte) (ev : List HwEv) (i : Instr) (wr : Bool),
    s.Startable (.ring r c) x → x.step ≠ 0 →
    ((i = .htod (.ring r c) data ev ∧ dOp x.raw = 0x400 ∧ wr = false
        ∧ (badDma (dArg x.raw 0) (dArg x.raw 2) = false → data.length = dArg x.raw 2))
      ∨ (i = .dtoh (.ring r c) ev ∧ dOp x.raw = 0x401 ∧ wr = true)) →
    let bad := dArg x.raw 2 % 32 ≠ 0 ∨ dArg x.raw 2 < 32 ∨ 2 ^ 30 < dArg x.raw 2 ∨ dArg x.raw 0 % 32 ≠ 0
    (bad → ∃ t, exec i s = .next t ∧ t.Finished (.ring r c) x 0x0204 0x0201 ∧ s.OnlyEnds t)
    ∧ (¬ bad → s.winOk wr (dArg x.raw 0) (dArg x.raw 2) = false →
      ∃ t, exec i s = .next t ∧ t.Finished (.ring r c) x 0x0108 0 ∧ s.OnlyEnds t)
    ∧ (¬ bad → s.winOk wr (dArg x.raw 0) (dArg x.raw 2) = true → s.touchesLow (dArg x.raw 1) (dArg x.raw 2) = true →
      ∃ t, exec i s = .next t ∧ t.Finished (.ring r c) x 0x0204 0x0609 ∧ s.OnlyEnds t)
  ) ∧ (
  ∀ (m : List Host.Cell) (a b : Nat) (bs : List Byte), Memory.wf m →
    SM.getD 0 (memWrite m a bs) b = if a ≤ b ∧ b < a + bs.length then bs.getD (b - a) 0 else SM.getD 0 m b
  )

/-! ## Number formats (chapter 03) -/

/-- R79, R88: in each scalar format a pattern that is no NaN is the encoding of the value it decodes to, so that decoding loses no bit
and no two such patterns have one value and sign. -/
def Obligations.PatternsRoundTrip : Prop :=
  ∀ (f : Fp.Fmt) (p : Nat), p < 2 ^ f.width → (Fp.decode f p).isNan = false → Fp.encode f (Fp.decode f p) = p

/-- R80: EQ8 pattern 0x80 decodes as a quiet NaN, and 0x81 to 0xFF as the negative of the pattern with bit 7 clear.

R81: an EQ16 pattern p has the value and the class of the binary32 pattern p × 2^16.

R82: every NaN written in EQ16 is 0x7FC0, in FP32 0x7FC0_0000 and in FP64 0x7FF8_0000_0000_0000, whatever NaN it was: no payload
and no sign is carried over. -/
def Obligations.ScalarPatterns : Prop :=
  (
  ∀ f : Fp.Fmt, f = .eq8a ∨ f = .eq8b →
    Fp.decode f 0x80 = .nan false ∧ ∀ p, 0x80 < p → p < 0x100 → Fp.decode f p = (Fp.decode f (p - 0x80)).negate
  ) ∧ (
  ∀ p : Nat, p < 2 ^ 16 →
    (∀ g, Fp.decode .eq16 p = .nan g ↔ Fp.decode .fp32 (p * 2 ^ 16) = .nan g)
    ∧ (Fp.decode .eq16 p).isInf = (Fp.decode .fp32 (p * 2 ^ 16)).isInf
    ∧ (Fp.decode .eq16 p).isZero = (Fp.decode .fp32 (p * 2 ^ 16)).isZero
    ∧ (Fp.decode .eq16 p).neg = (Fp.decode .fp32 (p * 2 ^ 16)).neg
    ∧ ((Fp.decode .eq16 p).isNan = false → Fp.cmp (Fp.decode .eq16 p) (Fp.decode .fp32 (p * 2 ^ 16)) = some 0
      ∧ Fp.encode .fp32 (Fp.decode .eq16 p) = p * 2 ^ 16)
  ) ∧ (
  ∀ g : Bool, Fp.encode .eq16 (.nan g) = 0x7FC0 ∧ Fp.encode .fp32 (.nan g) = 0x7FC00000
    ∧ Fp.encode .fp64 (.nan g) = 0x7FF8000000000000
  )

/-- R92: an infinity converted to EQ8 becomes the largest finite value of its sign and sets SATURATE, a NaN becomes 0x80 and −0 becomes 0x00, in
every rounding direction and stochastically; a NaN converted to EQ16 becomes 0x7FC0. -/
def Obligations.Eq8Conversions : Prop :=
  (∀ (f : Fp.Fmt) (rm : Fp.Rm) (r : Nat), f = .eq8a ∨ f = .eq8b →
    (∀ n : Bool, Fp.encode f (Fp.roundVal f rm (.inf n)).v = (if n then 0xFF else 0x7F) ∧ (Fp.roundVal f rm (.inf n)).fl = Fp.fSATURATE
      ∧ Fp.encode f (Fp.roundSr f r (.inf n)).v = (if n then 0xFF else 0x7F) ∧ (Fp.roundSr f r (.inf n)).fl = Fp.fSATURATE)
    ∧ (∀ g : Bool, Fp.encode f (Fp.roundVal f rm (.nan g)).v = 0x80 ∧ Fp.encode f (Fp.roundSr f r (.nan g)).v = 0x80)
    ∧ (∀ e : Int, Fp.encode f (Fp.roundVal f rm (.fin true 0 e)).v = 0 ∧ Fp.encode f (Fp.roundSr f r (.fin true 0 e)).v = 0)
    ∧ (∀ p, p < 2 ^ f.width → (Fp.decode f p).isNan = false → ∀ x y, Fp.decode f p = x → Fp.decode f 0x7F = y → Fp.cmp x y ≠ some 1))
  ∧ (∀ (g : Bool) (rm : Fp.Rm) (r : Nat), Fp.encode .eq16 (Fp.roundVal .eq16 rm (.nan g)).v = 0x7FC0
    ∧ Fp.encode .eq16 (Fp.roundSr .eq16 r (.nan g)).v = 0x7FC0)

/-- R90, R91: rounding to nearest takes a multiple of 2^q that lies within half a step of the exact value, the even one of two at equal
distance; toward zero never goes up; the result is inexact exactly where it differs from the value. -/
def Obligations.RoundingIsNearest : Prop :=
  ∀ (neg : Bool) (m : Nat) (e q : Int), e < q →
    let k := (q - e).toNat
    let r := Fp.roundAt .rne neg m e false q
    let z := Fp.roundAt .rtz neg m e false q
    (2 * m ≤ 2 * (r.1 * 2 ^ k) + 2 ^ k ∧ 2 * (r.1 * 2 ^ k) ≤ 2 * m + 2 ^ k)
      ∧ (2 * m = 2 * (r.1 * 2 ^ k) + 2 ^ k ∨ 2 * (r.1 * 2 ^ k) = 2 * m + 2 ^ k → r.1 % 2 = 0)
      ∧ (r.2 = true ↔ r.1 * 2 ^ k ≠ m) ∧ z.1 * 2 ^ k ≤ m ∧ m < (z.1 + 1) * 2 ^ k

/-- R85 to R87: a zero block decodes every element as +0 and ignores every other field. In any other block element i, with integer q, decodes to
q × 2^(E − 31 − shift of its group), and as +0 where q is 0; a reserved pattern (EB4 0x8, EB8 0x80) decodes as +0 and sets RESERVED, which nothing else sets. No
encoder writes a reserved pattern, and the SAT bit changes neither a value nor a flag. -/
def Obligations.BlocksDecode : Prop :=
  (∀ (f : Fp.BFmt) (b : List Byte), (b.getD 16 0).getLsbD 6 = true → Fp.decodeBlock f b = (List.replicate f.n Fp.Val.zero, 0))
  ∧ (∀ (f : Fp.BFmt) (b : List Byte) (i : Nat), i < f.n → (b.getD 16 0).getLsbD 6 = false →
    let q := f.q (f.raw b i)
    let sh := if f = .eb4 then getBits (b.getD 17 0).toNat (2 * (i / 8)) 2 else 0
    (Fp.decodeBlock f b).1[i]? = some (if q = 0 then Fp.Val.zero
        else .fin (decide (q < 0)) q.natAbs ((getBits (b.getD 16 0).toNat 0 6 : Int) - 31 - (sh : Int)))
      ∧ (f.isRsvd (f.raw b i) = true → (Fp.decodeBlock f b).1[i]? = some Fp.Val.zero ∧ (Fp.decodeBlock f b).2 = Fp.fRESERVED))
  ∧ (∀ (f : Fp.BFmt) (b : List Byte), (∀ i, i < f.n → f.isRsvd (f.raw b i) = false) → (Fp.decodeBlock f b).2 = 0)
  ∧ (∀ (f : Fp.BFmt) (aclass : Nat) (xs : List Fp.Val) (i : Nat), xs.length = f.n → i < f.n →
    f.isRsvd (f.raw (Fp.encodeBlock f aclass xs).bytes i) = false)
  ∧ (∀ (f : Fp.BFmt) (b : List Byte), 16 < b.length → Fp.decodeBlock f (b.set 16 (b.getD 16 0 ||| 0x80)) = Fp.decodeBlock f b)

/-! ## Tile programs, the matrix and the element engine (chapters 04 and 05) -/

/-- R132, R141: the wide accumulator adds products exactly, so that N, the NaN bit and the residue do not depend on the order of the products
nor on how they are divided into parts, N modulo 15 adds up, and the residue that the residue unit forms from the operands of products without
bits below 2^-72 stays N modulo 15. -/
def Obligations.WideSumIsExact : Prop :=
  (∀ (w : Mx.WAcc) (as bs as' bs' : List Fp.Val), (as.zip bs).Perm (as'.zip bs') → Mx.wideDot w as bs = Mx.wideDot w as' bs')
  ∧ (∀ (w : Mx.WAcc) (as bs cs ds : List Fp.Val), as.length = bs.length → w.res < 15 →
    Mx.wideDot w (as ++ cs) (bs ++ ds) = Mx.wideAdd (Mx.wideDot w as bs) (Mx.wideDot {} cs ds))
  ∧ (∀ (w : Mx.WAcc) (as bs : List Fp.Val),
    (Mx.wideDot w as bs).residue = (w.residue + (Mx.wideDot {} as bs).residue) % 15)
  ∧ (∀ (w : Mx.WAcc) (as bs : List Fp.Val), w.res = w.residue →
    (∀ v ∈ as ++ bs, ∀ n m e, v = Fp.Val.fin n m e → -36 ≤ e) →
    (Mx.wideDot w as bs).res = (Mx.wideDot w as bs).residue)

/-- R148, R182, R194: a TILE_RUN or TRAIN_RUN that nothing holds back starts on every selected tile: the descriptor runs, and on each tile the
lowest free thread of its stream's queue runs it, with g1 to g4 the arguments and g5 the tile number. Node memory, the scratchpads and the
tile registers stay. On a tile on which the program halts without an engine instruction the thread is free again. -/
def Obligations.ProgramsStart : Prop :=
  ∀ (s : State) (r : Fin 64) (c : Nat) (x : InDesc) (halts : BitVec 32),
    s.Startable (.ring r c) x → s.queueFull x = false → s.score x = .go → s.wf → tilesOf x.raw ≠ [] →
    (∀ t ∈ tilesOf x.raw, s.tileOff t = false ∧ (s.freeThr t (dStream x.raw)).isSome = true ∧ s.isStopped t (dStream x.raw) 0 = false
      ∧ s.progFault t (dProg x.raw) = none
      ∧ ∀ y ∈ s.earlier x, dStream y.raw = dStream x.raw → y.todo.testBit t = false) →
    ∀ i : Instr, (i = .tileRun (.ring r c) halts ∧ dOp x.raw = 0x100) ∨ (i = .trainRun (.ring r c) halts ∧ dOp x.raw = 0x101) →
      ((∀ t ∈ tilesOf x.raw, halts.getLsbD t = false) →
        ∃ u, exec i s = .next u ∧ u.desc? (.ring r c) = some { x with st := .running, left := dMask x.raw, todo := 0 }
          ∧ u = { s with descs := u.descs, vthr := u.vthr }
          ∧ ∀ t ∈ tilesOf x.raw, ∀ th, s.freeThr t (dStream x.raw) = some th →
            (u.thr t th).run = some (.ring r c) ∧ (u.thr t th).halted = false
              ∧ (∀ k, k < 4 → u.greg t th (k + 1) = dArg x.raw k) ∧ u.greg t th 5 = t)
      ∧ (∃ u, exec i s = .next u ∧ ∀ t ∈ tilesOf x.raw, halts.getLsbD t = true → ∀ th, s.freeThr t (dStream x.raw) = some th →
          (u.thr t th).run = none)

/-- R152, R210: a matrix instruction that breaks a rule, and one with a reserved matrix opcode, writes no tile register, no wide accumulator,
no chain, and no byte of a memory. The program stops on that tile, and where the descriptor goes on on another tile its status
is EXEC_ERROR with the cause in RESULT [15:0] and the tile in [20:16]. -/
def Obligations.MatrixFaultsWriteNothing : Prop :=
  ∀ (s : State) (i : VxtIssue) (d : DRef) (x : InDesc) (op c : Nat) (order : List Nat) (ev : List HwEv),
    s.CanIssue i d op → s.desc? d = some x → x.status = 0 → x.left &&& (2 ^ 32 - 1 - 2 ^ i.tile.val) ≠ 0 →
    (s.thr i.tile.val i.thread.val).xfers = [] → c ≠ 0 →
    let z := s.issued i
    let w := i.word.toNat
    ∀ j : Instr,
      ((j = .mma i order ev ∧ op = 0x41 ∧ z.mmaFault i.tile.val d (z.mmaOp i.tile.val i.thread.val w) = some c)
        ∨ (j = .mma i order ev ∧ mxReserved op = true ∧ c = 0x0401)
        ∨ (j = .mmaf i order ev ∧ op = 0x48 ∧ z.fusedFault i.tile.val i.thread.val w i.ext.toNat d = some c)
        ∨ (j = .mzero i ∧ op = 0x40 ∧ ((mReserved w = true ∧ c = 0x0401) ∨ (mReserved w = false ∧ mCmask w = 0 ∧ c = 0x0403)
          ∨ (mReserved w = false ∧ mCmask w ≠ 0 ∧ mCtgt w = true ∧ mTr w % 2 = 1 ∧ c = 0x0406)))
        ∨ (j = .mclose i ∧ op = 0x42 ∧ ((mReserved w = true ∧ c = 0x0401) ∨ (mReserved w = false ∧ z.closeFault i.tile.val w = some c)))
        ∨ (j = .mload i ev ∧ op = 0x43 ∧ z.mlsFault i.tile.val i.thread.val w false = some c)
        ∨ (j = .mstore i ∧ op = 0x44 ∧ z.mlsFault i.tile.val i.thread.val w true = some c)) →
      ∃ u, exec j s = .next u ∧ u.tr = s.tr ∧ u.wa = s.wa ∧ u.chain = s.chain ∧ u.spad = z.spad ∧ u.mem = z.mem
        ∧ ∃ y, u.desc? d = some y ∧ y.status = 0x0204 ∧ y.result = BitVec.ofNat 32 (c ||| i.tile.val <<< 16)

/-- R127, R132, R146, R147: an MMA that does not fault, whose registers no handoff keeps busy, and whose storage happenings do not keep it back
completes; node memory, the scratchpads and the other tiles' registers stay. On each selected core, with an FP chain that is not closed, neither ganged nor
split nor with ZERO, element (m, n) becomes its value before plus the products of row m and column n, added in k-groups and rounded as
R127 says; with an exact chain the wide accumulator's element takes the same products exactly. -/
def Obligations.MmaCompletes : Prop :=
  ∀ (s : State) (i : VxtIssue) (d : DRef) (order : List Nat) (ev : List HwEv), s.CanIssue i d 0x41 → s.mapsOk →
    let z := s.issued i
    let w := i.word.toNat
    let o := z.mmaOp i.tile.val i.thread.val w
    z.mmaFault i.tile.val d o = none →
    (z.trBusy i.tile.val (mCores w) (mTr w) (decide (mFa w = 0)) = true → exec (.mma i order ev) s = .next s)
    ∧ (z.trBusy i.tile.val (mCores w) (mTr w) (decide (mFa w = 0)) = false → (z.hwEvs (z.tagOf d) ev).2 = true →
      z.flag fNANWATCH = false →
      ∃ u : State, exec (.mma i order ev) s = .next (u.after i) ∧ s.OtherTilesKept u i.tile.val ∧ u.mem = z.mem ∧ u.spad = z.spad
        ∧ (ev = [] → ∀ (c m n : Nat) (fa fb : Mx.MFmt),
          c ∈ mCores w → mGang w = false → mSplit w = false → mZero w = false →
          Mx.fmtOf (mFa w) = some fa → Mx.fmtOf (mFb w) = some fb → m < min 128 o.m → n < min 64 o.n →
          let acc := Mx.accOf z.exact fa
          let row := ((o.opnds fa fb).1.line (z.locByte i.tile.val (o.a.testBit 63)) false m o.k).1
          let col := ((o.opnds fa fb).2.line (z.locByte i.tile.val (o.b.testBit 63)) true n o.k).1
          (acc ≠ .wide → (s.chain? i.tile.val c (mTr w)).c ≠ .closed →
            u.trPat i.tile.val c (mTr w) (decide (acc = .fp64)) (m * 64 + n)
              = Fp.encode acc.fmt (mmaElem acc (Mx.kGroup fa) fa.is8 z.exact [] order
                  (s.trPat i.tile.val c (mTr w) (decide (acc = .fp64)) (m * 64 + n)) row col).v % 2 ^ acc.fmt.width)
          ∧ (∀ k q, (s.chain? i.tile.val c (mTr w)).c = .wide k q →
            (u.chain? i.tile.val c (mTr w)).c = .wide k (q + o.k)
              ∧ u.waElt i.tile.val c k (m * 64 + n) = Mx.wideDot (s.waElt i.tile.val c k (m * 64 + n)) row col)))

/-- R146, R147: MZERO clears the register, or the pair, of every selected core and leaves its chain cleared. The memories, the registers, the
descriptors and the other tiles' registers stay. While a handoff keeps a register busy the instruction waits.

R133, R146: MCLOSE closes the chain of every selected core's register. An FP chain keeps its elements; an exact chain writes each
element once, as the rounding of its wide accumulator to FP32, or to FP64 with CTGT, and releases the accumulator. -/
def Obligations.ChainsClearAndClose : Prop :=
  (
  ∀ (s : State) (i : VxtIssue) (d : DRef), s.CanIssue i d 0x40 → s.mapsOk →
    let z := s.issued i
    let w := i.word.toNat
    mReserved w = false → mCmask w ≠ 0 → ¬ (mCtgt w = true ∧ mTr w % 2 = 1) →
    (z.trBusy i.tile.val (mCores w) (mTr w) (mCtgt w) = true → exec (.mzero i) s = .next s)
    ∧ (z.trBusy i.tile.val (mCores w) (mTr w) (mCtgt w) = false →
      ∃ u : State, exec (.mzero i) s = .next (u.after i)
        ∧ (∀ c ∈ mCores w, (u.chain? i.tile.val c (mTr w)).c = .cleared
          ∧ ∀ e, e < 8192 → u.trPat i.tile.val c (mTr w) (mCtgt w) e = 0)
        ∧ s.OtherTilesKept u i.tile.val ∧ u = { z with tr := u.tr, wa := u.wa, chain := u.chain })
  ) ∧ (
  ∀ (s : State) (i : VxtIssue) (d : DRef), s.CanIssue i d 0x42 → s.mapsOk →
    let z := s.issued i
    let w := i.word.toNat
    mReserved w = false → z.closeFault i.tile.val w = none → z.flag fNANWATCH = false →
    ∃ u : State, exec (.mclose i) s = .next (u.after i)
      ∧ s.OtherTilesKept u i.tile.val ∧ u.mem = z.mem ∧ u.spad = z.spad
      ∧ (∀ c ∈ mCores w, (u.chain? i.tile.val c (mTr w)).c = .closed
        ∧ ∀ k n, (s.chain? i.tile.val c (mTr w)).c = .wide k n → ∀ e, e < 8192 →
          u.trPat i.tile.val c (mTr w) (mCtgt w) e
            = Fp.encode (if mCtgt w then .fp64 else .fp32)
                (Mx.wideClose (if mCtgt w then .fp64 else .fp32) (s.waElt i.tile.val c k e)).v % 2 ^ (if mCtgt w then 64 else 32)
          ∧ u.waElt i.tile.val c k e = {})
      ∧ ((∀ c ∈ mCores w, ∀ k n, (s.chain? i.tile.val c (mTr w)).c ≠ .wide k n) → u.tr = s.tr)
  )

/-- R146, R147: MLOAD fills the register, or the pair, of its core with 8,192 elements from a scratchpad or node memory, and MSTORE writes them
there, a store to node memory with the images and digest terms of a write; each in ascending order of element, 4 bytes each or 8 for a
pair, from the address in its register. A load waits while a handoff keeps the register busy. -/
def Obligations.LoadsAndStores : Prop :=
  (∀ (s : State) (i : VxtIssue) (d : DRef) (c : Nat) (ev : List HwEv), s.CanIssue i d 0x43 → s.mapsOk →
    let z := s.issued i
    let w := i.word.toNat
    mCores w = [c] → z.mlsFault i.tile.val i.thread.val w false = none →
    let a := z.greg i.tile.val i.thread.val (mGa w)
    let sz := if mCtgt w then 8 else 4
    (z.trBusy i.tile.val [c] (mTr w) (mCtgt w) = true → exec (.mload i ev) s = .next s)
    ∧ (z.trBusy i.tile.val [c] (mTr w) (mCtgt w) = false → (z.hwEvs (z.tagOf d) ev).2 = true →
      ∃ u : State, exec (.mload i ev) s = .next (u.after i) ∧ (u.chain? i.tile.val c (mTr w)).c = .loaded
        ∧ (∀ e, e < 8192 → u.trPat i.tile.val c (mTr w) (mCtgt w) e
            = leNat (z.locBytes i.tile.val (a.testBit 63) (getBits a 0 48 + e * sz) sz))
        ∧ s.OtherTilesKept u i.tile.val ∧ u.mem = z.mem ∧ u.spad = z.spad))
  ∧ (∀ (s : State) (i : VxtIssue) (d : DRef) (c : Nat), s.CanIssue i d 0x44 →
    let z := s.issued i
    let w := i.word.toNat
    mCores w = [c] → z.mlsFault i.tile.val i.thread.val w true = none →
    let a := z.greg i.tile.val i.thread.val (mGa w)
    let sz := if mCtgt w then 8 else 4
    let bs := (List.range 8192).flatMap (fun e => leBytes sz (s.trPat i.tile.val c (mTr w) (mCtgt w) e))
    (a.testBit 63 = false →
      exec (.mstore i) s = .next (({ z with spad := memWrite z.spad (spadKey i.tile.val (getBits a 0 48)) bs } : State).after i))
    ∧ (∀ u, a.testBit 63 = true → z.write (z.writer d i.tile.val) (getBits a 0 48) bs = .ok u →
      exec (.mstore i) s = .next (u.after i) ∧ u.mem = memWrite z.mem (getBits a 0 48) bs ∧ u.tr = s.tr ∧ u.chain = s.chain))

/-- R162, R164, R169, R176: an EPRUN whose program does not fault, which no storage happening keeps back and whose outputs need not wait completes. The rows the
program leaves and its reduction result stand, in that order, at the output and reduction addresses, in the scratchpad or in node memory. With outputs in the
scratchpad, no finding of a checker and NaN watch off, the scratchpad holds exactly those rows; node memory, the tile registers, the wide
accumulators and the chains stay.

R314, R315, R185: an XFER that does not fault takes the lowest free transfer slot of its thread with the two addresses and the length, and moves
no byte yet; with no free slot it waits. The end of a transfer copies its bytes and frees the slot. A FENCE with nothing to wait for is passed and one that
waits is left where it is. Tile registers stay. -/
def Obligations.ElementProgramsAndTransfers : Prop :=
  (
  ∀ (s : State) (i : VxtIssue) (d : DRef) (a b : Nat) (ev : List HwEv), s.CanIssue i d 0x50 →
    let z := s.issued i
    let e := epCall z i.tile.val i.thread.val i.word.toNat
    let h := (z.epLoad i.tile.val e.prog).1
    z.isOpen i.tile.val e.core e.tr = false → (e.pair = true → z.isOpen i.tile.val e.core (e.tr / 2 * 2 + 1) = false) →
    (e.tr2.isSome = true → z.isOpen i.tile.val e.core (e.tr2.getD 0) = false) →
    getBits i.word.toNat 15 17 = 0 → getBits i.word.toNat 52 12 = 0 → z.epFault i.tile.val d e = none →
    e.outs = some (a, b) → (z.hwEvs (z.tagOf d) ev).2 = true →
    (∀ v : State, let r : Ep.Out × State := (z.hwEvs (z.tagOf d) ev).1.epRun i.tile.val d e ev
      r.2.epWrite i.tile.val (r.2.writer d i.tile.val) h (a, b) r.1 = .ok v →
      exec (.eprun i ev) s = .next ((v.progFlags i.tile.val i.thread.val d r.1.fl r.1.uf (epHits r.1)).after i))
    ∧ (z.flag fNANWATCH = false → ev = [] → a.testBit 63 = false → b.testBit 63 = false →
      let o := (z.epRun i.tile.val d e []).1
      ∃ u : State, exec (.eprun i ev) s = .next (u.after i)
        ∧ u.spad = (o.rows.map (fun r => (a, r.1 * Ep.hPitch h, r.2)) ++ (match o.red with
            | some bs => [(b, 0, bs)]
            | none => [])).foldl (fun m x => memWrite m (spadKey i.tile.val (getBits x.1 0 48 + x.2.1)) x.2.2) z.spad
        ∧ u.mem = z.mem ∧ u.tr = s.tr ∧ u.wa = s.wa ∧ u.chain = s.chain)
  ) ∧ (
  (∀ (s : State) (i : VxtIssue) (d : DRef) (ev : List HwEv), s.CanIssue i d 0x58 →
    let z := s.issued i
    let src := z.greg i.tile.val i.thread.val (getBits i.word.toNat 32 5)
    let dst := z.greg i.tile.val i.thread.val (getBits i.word.toNat 37 5)
    let len := getBits (z.greg i.tile.val i.thread.val (getBits i.word.toNat 42 5)) 0 25
    let free := (List.range 8).find? (fun k => (SM.getD none (z.thr i.tile.val i.thread.val).xfers k).isNone)
    z.xferFault i.tile.val i.word.toNat src dst len = none →
    (free = none → exec (.xfer i ev) s = .next s)
    ∧ (∀ k, free = some k →
      ∃ u : State, exec (.xfer i ev) s = .next ((u.hwEvs (u.tagOf d) ev).1.after i)
        ∧ SM.getD none (u.thr i.tile.val i.thread.val).xfers k = some ⟨BitVec.ofNat 64 src, BitVec.ofNat 64 dst, len⟩
        ∧ u = { z with vthr := u.vthr }))
  ∧ (∀ (s : State) (tile : Fin 32) (thread : Fin 16) (slot : Nat) (d : DRef) (x : Xfer) (ev : List HwEv) (v : State),
    (s.thr tile.val thread.val).run = some d →
    SM.getD none (s.thr tile.val thread.val).xfers slot = some x →
    (s.hwEvs (s.tagOf d) ev).2 = true →
    let s1 := (s.hwEvs (s.tagOf d) ev).1
    let bs := s1.locBytes tile.val (x.src.toNat.testBit 63) (getBits x.src.toNat 0 48) x.len
    (if x.dst.toNat.testBit 63 then s1.write (s1.writer d tile.val) (getBits x.dst.toNat 0 48) bs = .ok v
      else v = { s1 with spad := memWrite s1.spad (spadKey tile.val (getBits x.dst.toNat 0 48)) bs }) →
    ∃ u : State, exec (.xferComplete tile thread slot ev) s = .next (u.release tile.val thread.val)
      ∧ (SM.Sorted (s.thr tile.val thread.val).xfers → SM.getD none (u.thr tile.val thread.val).xfers slot = none)
      ∧ u = { v with vthr := u.vthr })
  ∧ (∀ (s : State) (i : VxtIssue) (d : DRef), s.CanIssue i d 0x5C → getBits i.word.toNat 11 53 = 0 →
    exec (.fence i) s = .next (if (s.issued i).fenceWaits i.tile.val i.thread.val i.word.toNat then s else (s.issued i).after i))
  )

/-! ## Training streams (chapter 06) -/

/-- R187, R188: a WREGION whose ranges lie in node memory allowed to the job, overlap nothing, are aligned and, for a sharded region, divide
among its tiles, defines region REGION at version 0 with no finished read; COUNT 0 undefines it. It completes with OK and moves
no byte. While another descriptor that waits or runs uses the region it completes with EXEC_ERROR and cause 0x0606, and defines nothing.

R105, R197, R202 to R204: an UPDATE that does not fault, that no storage happening keeps back and whose writes all land completes with OK, or with
NAN_TRAP where NaN watch stopped its stream on a tile (`a.stopped`). Its blocks' writes land in their order and nothing else of node
memory changes; its region's version becomes the one after the use's, with no finished read.

R200: a descriptor that has waited on the scoreboard for MODE_WVTO completes with EXEC_ERROR and cause 0x0603, and moves no byte. -/
def Obligations.RegionsAndUpdates : Prop :=
  (
  ∀ (s : State) (rg : Fin 64) (c : Nat) (x : InDesc) (ev : List HwEv), s.EngReady (.ring rg c) x 0x103 → SM.Sorted s.live.regions →
    dArg x.raw 0 < 128 → dMask x.raw ≠ 0 → dProg x.raw ≤ 2 ^ 24 →
    let w := getBits (dArg x.raw 0) 0 6
    ((∃ y ∈ s.descs, y.ref ≠ .ring rg c ∧ y.st ≠ .finished ∧ ∃ u ∈ usesOf y.raw, useReg u = w) →
      ∃ t, exec (.wregion (.ring rg c) ev) s = .next t ∧ t.Finished (.ring rg c) { x with left := 0 } 0x0204 0x0606
        ∧ t.region w = s.region w ∧ t.mem = s.mem ∧ t.spad = s.spad ∧ t.regs = s.regs)
    ∧ ((∀ y ∈ s.descs, y.ref ≠ .ring rg c → y.st ≠ .finished → ∀ u ∈ usesOf y.raw, useReg u ≠ w) →
      (dProg x.raw = 0 → ∃ t, exec (.wregion (.ring rg c) ev) s = .next t ∧ t.Finished (.ring rg c) { x with left := 0 } 0 0
        ∧ t.region w = applyTr.emptyRegion ∧ t.mem = s.mem ∧ t.spad = s.spad ∧ t.regs = s.regs)
      ∧ (let r := wregionOf x.raw
        let ranges := loRanges r ++ hiRanges r ++ stRanges r
        dProg x.raw ≠ 0 → r.hi % 4096 = 0 → r.lo % 4096 = 0 → r.st % 4096 = 0 →
        (r.shard = true → r.count % (shardTiles r).length = 0 ∧ s.shardBase r.hi = true ∧ s.shardBase r.lo = true ∧ s.shardBase r.st = true) →
        (ranges ++ s.live.regions.flatMap (fun p => if p.1 = w then []
          else loRanges p.2 ++ hiRanges p.2 ++ stRanges p.2)).Pairwise (fun p q => overlaps p.1 p.2 q.1 q.2 = false) →
        (∀ q ∈ ranges, s.rdCheck q.1 q.2 = none) → ((s.running (.ring rg c) 0).hwEvs x.step ev).2 = true →
        ∃ t, exec (.wregion (.ring rg c) ev) s = .next t ∧ t.Finished (.ring rg c) { x with left := 0 } 0 0
          ∧ t.region w = { r with dig := s.digestOf w r }
          ∧ t.mem = s.mem ∧ t.spad = s.spad ∧ (ev = [] → t.regs = s.regs)))
  ) ∧ (
  ∀ (s s' : State) (rg : Fin 64) (c : Nat) (x : InDesc) (ev : List HwEv), s.EngReady (.ring rg c) x 0x102 →
    let w := useReg (getBits (dArg x.raw 0) 0 32)
    let z := ((s.running (.ring rg c) 0).hwEvs x.step ev).1
    let a := z.updBlocks x (z.region w) (z.optrec (dProg x.raw))
    (s.running (.ring rg c) 0).updFault x (s.region w) = none → ((s.running (.ring rg c) 0).hwEvs x.step ev).2 = true →
    z.unitWrites (.ring rg c) a.writes = .ok s' →
    (a.stopped = [] → ∃ t, exec (.update (.ring rg c) ev) s = .next t ∧ t.Finished (.ring rg c) { x with left := 0 } 0 0
      ∧ t.mem = memWrites s.mem a.writes ∧ t.spad = s.spad ∧ (ev = [] → s.ckpt = none → t.regs = s.regs)
      ∧ (t.region w).ver = BitVec.ofNat 16 (useVer (getBits (dArg x.raw 0) 0 32) + 1) ∧ (t.region w).reads = [])
    ∧ (a.stopped ≠ [] → ∃ t y, exec (.update (.ring rg c) ev) s = .next t ∧ t.desc? (.ring rg c) = some y
      ∧ y.st = .finished ∧ y.status = 0x0201)
  ) ∧ (
  ∀ (s : State) (rg : Fin 64) (c : Nat) (x : InDesc), s.Startable (.ring rg c) x → x.step ≠ 0 → s.score x = .wait →
    ∃ t, exec (.wvTimeout (.ring rg c)) s = .next t ∧ t.Finished (.ring rg c) x 0x0204 0x0603
      ∧ t = { s with descs := t.descs, steps := t.steps, eng := t.eng, live := t.live, trans := t.trans }
  )

/-- R193: WSPLIT moves each FP32 word of the array at ARG1 into the region's high and low halves, WJOIN the region's masters into the
array, both without arithmetic; each completes with OK, and nothing else of node memory changes. -/
def Obligations.SplitAndJoinMove : Prop :=
  ∀ (s s' : State) (rg : Fin 64) (c : Nat) (x : InDesc) (ev : List HwEv),
    let r := s.region (useReg (getBits (dArg x.raw 0) 0 32))
    let z := ((s.running (.ring rg c) 0).hwEvs x.step ev).1
    let tile := fun (b : Nat) => (blockTile r (tilesOf x.raw) b b).getD 0
    let pat := fun (e : Nat) => leNat (z.rdBytes (regionAt r (dArg x.raw 1) 4 e) 4)
    let split := (List.range r.count).flatMap (fun b =>
      [(tile b, regionAt r r.hi 2 (1024 * b), (List.range 1024).flatMap (fun i => leBytes 2 (pat (1024 * b + i) >>> 16))),
        (tile b, regionAt r r.lo 2 (1024 * b), (List.range 1024).flatMap (fun i => leBytes 2 (pat (1024 * b + i))))])
    let join := (List.range r.count).map (fun b =>
      (tile b, regionAt r (dArg x.raw 1) 4 (1024 * b), (List.range 1024).flatMap (fun i => leBytes 4 (z.master r (1024 * b + i)))))
    ((s.running (.ring rg c) 0).hwEvs x.step ev).2 = true →
    (s.EngReady (.ring rg c) x 0x104 → s.moveFault x r true = none → z.unitWrites (.ring rg c) split = .ok s' →
      ∃ t, exec (.wsplit (.ring rg c) ev) s = .next t ∧ t.Finished (.ring rg c) { x with left := 0 } 0 0
        ∧ t.mem = memWrites s.mem split ∧ t.spad = s.spad ∧ (ev = [] → s.ckpt = none → t.regs = s.regs))
    ∧ (s.EngReady (.ring rg c) x 0x105 → s.moveFault x r false = none → z.unitWrites (.ring rg c) join = .ok s' →
      ∃ t, exec (.wjoin (.ring rg c) ev) s = .next t ∧ t.Finished (.ring rg c) { x with left := 0 } 0 0
        ∧ t.mem = memWrites s.mem join ∧ t.spad = s.spad ∧ (ev = [] → s.ckpt = none → t.regs = s.regs))

/-- R105, R206 to R208: an XCONV that does not fault and whose writes land completes with OK and the count of elements
that saturated or overflowed in RESULT, or with NAN_TRAP where NaN watch stopped its stream on a tile; an XSTAT writes 32 bytes: the largest magnitude as
FP64, and the counts of NaNs and infinities. Nothing else of node memory changes. -/
def Obligations.ConversionsComplete : Prop :=
  ∀ (s s' : State) (rg : Fin 64) (c : Nat) (x : InDesc) (ev : List HwEv),
    let z := ((s.running (.ring rg c) 0).hwEvs x.step ev).1
    let sb := xRowBytes (xSrc x.raw) (xLen x.raw)
    let db := xRowBytes (xDst x.raw) (xLen x.raw)
    let sp := xPitch (getBits (dArg x.raw 3) 16 24) sb
    let dp := xPitch (getBits (dArg x.raw 3) 40 24) db
    let a := z.xChecks x.step x.raw dp ev (z.xRowsDone x.raw sp dp)
    let vs := (List.range (xRows x.raw)).flatMap (fun r => (z.xRow (xSrc x.raw) (dArg x.raw 0 + r * sp) (xLen x.raw)).1)
    let bs := leBytes 8 (Fp.encode .fp64 (Fp.amaxOf vs)) ++ leBytes 4 (min (vs.filter Fp.Val.isNan).length (2 ^ 32 - 1))
      ++ leBytes 4 (min (vs.filter Fp.Val.isInf).length (2 ^ 32 - 1)) ++ List.replicate 16 0
    xBad x.raw = false → s.xFault false (dArg x.raw 0) sp sb (xRows x.raw) (tilesOf x.raw) = none →
    ((s.running (.ring rg c) 0).hwEvs x.step ev).2 = true →
    (s.EngReady (.ring rg c) x 0x300 → xPair (xSrc x.raw) (xDst x.raw) = true → xLen x.raw % blockLen (xDst x.raw) = 0 →
      s.xFault true (dArg x.raw 1) dp db (xRows x.raw) (tilesOf x.raw) = none → a.2.unitWrites (.ring rg c) a.1.writes = .ok s' →
      (a.1.stopped = [] → ∃ t, exec (.xconv (.ring rg c) ev) s = .next t
        ∧ t.Finished (.ring rg c) { x with left := 0 } 0 (min a.1.over_ (2 ^ 32 - 1))
        ∧ t.mem = memWrites s.mem a.1.writes ∧ t.spad = s.spad ∧ (ev = [] → s.ckpt = none → t.regs = s.regs))
      ∧ (a.1.stopped ≠ [] → ∃ t y, exec (.xconv (.ring rg c) ev) s = .next t ∧ t.desc? (.ring rg c) = some y
        ∧ y.st = .finished ∧ y.status = 0x0201))
    ∧ (s.EngReady (.ring rg c) x 0x301 → s.xFault true (dArg x.raw 1) 32 32 1 (tilesOf x.raw) = none →
      z.write (z.writer (.ring rg c) ((tilesOf x.raw).headD 0)) (dArg x.raw 1) bs = .ok s' →
      ∃ t, exec (.xstat (.ring rg c) ev) s = .next t
        ∧ t.Finished (.ring rg c) { x with left := 0 } 0
            (if (Fp.amaxOf vs).isZero then 0x80000000 else wrapInt 32 (Fp.ilog2 (Fp.amaxOf vs)))
        ∧ t.mem = memWrite s.mem (dArg x.raw 1) bs ∧ t.spad = s.spad ∧ (ev = [] → s.ckpt = none → t.regs = s.regs))

/-! ## Spar cores (chapter 07) -/

/-- R223: the register, immediate and IMMX forms of the integer operations and the products write their 64-bit results to i[d], with
i31 discarding them; the immediate is sign-extended, and four IMMX build any constant. A shift by 64 or more writes a value that the manual leaves open. -/
def Obligations.IntegerOperations : Prop :=
  ∀ (s : State) (t : SThr) (q : DRef), s.mapsOk →
    let A := fun (n : Fin 32) => BitVec.ofNat 64 (s.ireg (sthKey t) n.val)
    (s.SparReady t q [1] → ∀ (op : IntOp) (d a b : Fin 32), op ≠ .reserved →
      ∃ u v, exec (.integerRegisterOp t op d a b) s = .next u ∧ s.SparWrote u t d v
        ∧ (∀ w, intSpec op (A a) (A b) = some w → v = w ∧ u.freeCtr = s.freeCtr))
    ∧ (s.SparReady t q [2] → ∀ (op : IntOp) (d a : Fin 32) (imm : BitVec 14), op ≠ .reserved →
      ∃ u v, exec (.integerImmediateOp t op d a imm) s = .next u ∧ s.SparWrote u t d v
        ∧ (∀ w, intSpec op (A a) (imm.signExtend 64) = some w → v = w ∧ u.freeCtr = s.freeCtr))
    ∧ (s.SparReady t q [3] → ∀ (d : Fin 32) (imm : BitVec 16),
      ∃ u, exec (.immx t d imm) s = .next u ∧ s.SparWrote u t d (A d <<< 16 ||| imm.setWidth 64))
    ∧ (s.SparReady t q [4] → ∀ d a b : Fin 32,
      (∃ u, exec (.multiplyDivide t .mul d a b) s = .next u ∧ s.SparWrote u t d (A a * A b))
      ∧ (∃ u, exec (.multiplyDivide t .mulh d a b) s = .next u
        ∧ s.SparWrote u t d (((A a).signExtend 128 * (A b).signExtend 128).extractLsb' 64 64))
      ∧ (∃ u, exec (.multiplyDivide t .mulhu d a b) s = .next u
        ∧ s.SparWrote u t d (((A a).setWidth 128 * (A b).setWidth 128).extractLsb' 64 64)))

/-- R224: quotient and remainder, signed and unsigned: no case traps, quotient × divisor + remainder is the dividend, and a divide by
zero and −2^63 by −1 give the values the rule states. -/
def Obligations.QuotientsAndRemainders : Prop :=
  ∀ (s : State) (t : SThr) (q : DRef) (d a b : Fin 32), s.mapsOk → s.SparReady t q [4] →
    let A := BitVec.ofNat 64 (s.ireg (sthKey t) a.val)
    let B := BitVec.ofNat 64 (s.ireg (sthKey t) b.val)
    (∃ u w x y, exec (.multiplyDivide t .div d a b) s = .next u ∧ s.SparWrote u t d x
      ∧ exec (.multiplyDivide t .rem d a b) s = .next w ∧ s.SparWrote w t d y
      ∧ (x.toInt * B.toInt + y.toInt = A.toInt)
      ∧ (B = 0 → y = A ∧ x.toInt = if 0 ≤ A.toInt then 2 ^ 63 - 1 else -2 ^ 63)
      ∧ (A.toInt = -2 ^ 63 → B.toInt = -1 → x.toInt = 2 ^ 63 - 1 ∧ y.toInt = -1)
      ∧ (B ≠ 0 → ¬ (A.toInt = -2 ^ 63 ∧ B.toInt = -1) → y.toInt.natAbs < B.toInt.natAbs))
    ∧ (∃ u w x y, exec (.multiplyDivide t .divu d a b) s = .next u ∧ s.SparWrote u t d x
      ∧ exec (.multiplyDivide t .remu d a b) s = .next w ∧ s.SparWrote w t d y
      ∧ x.toNat * B.toNat + y.toNat = A.toNat
      ∧ (B = 0 → y = A ∧ x.toNat = 2 ^ 64 - 1) ∧ (B ≠ 0 → y.toNat < B.toNat))

/-- R219, R220, R223, R231, R237, R243: control flow and the system instructions. A branch goes to its target where its condition holds (its
offset counted from the branch itself: the model's choice, log entry 23) and else behind it; CALL writes the return address; YIELD and
FENCE.L only go on; VSPANSET grants its source clamped to 1 to 512; a control register is read whole and written with the bits it has, a write of FPC
takes RM and clears the sticky flags that have a 1; the return of an access makes its thread ready. -/
def Obligations.ControlFlowAndSystem : Prop :=
  ∀ (s : State) (t : SThr), s.mapsOk →
    let k := sthKey t
    let x := s.sth k
    let A := fun (n : Fin 32) => BitVec.ofNat 64 (s.ireg k n.val)
    let jump := fun (p : BitVec 64) => s.updSth k (fun x => { x with pc := p })
    (x.wait = .access → exec (.remoteAccessReturn t) s = .next (s.updSth k (fun x => { x with wait := .none_ })))
    ∧ (∀ q, s.SparReady t q [6] →
      (∀ (op : BrOp) (a b : Fin 32) (off : BitVec 14) (c : Bool),
        (op, c) ∈ [(.eq, A a == A b), (.ne, A a != A b), (.lt, (A a).slt (A b)), (.ltu, (A a).ult (A b)), (.ge, (A b).sle (A a)),
          (.geu, (A b).ule (A a))] →
        exec (.branch t op a b off) s = .next (jump (if c then x.pc + off.signExtend 64 <<< 2 else x.pc + 4)))
      ∧ (∀ (a b : Fin 32) (off : BitVec 14), (A a).toNat % 4 = 0 → exec (.branch t .reg a b off) s = .next (jump (A a)))
      ∧ (∀ (d : Fin 32) (off : BitVec 14), ∃ u, exec (.call t d off) s = .next u ∧ s.OnlySpar u t
        ∧ (∀ n, u.ireg k n = if n = d.val ∧ n ≠ 31 then (x.pc + 4).toNat else s.ireg k n)
        ∧ u.sth k = { x with i := (u.sth k).i, pc := x.pc + off.signExtend 64 <<< 2 }))
    ∧ (∀ q, s.SparReady t q [14] → exec (.fenceL t) s = .next (s.sparNext t))
    ∧ (∀ q, s.SparReady t q vxv → ∀ d a : Fin 32, ∃ u, exec (.vspanset t d a) s = .next u ∧ s.OnlySpar u t
        ∧ (u.sth k).vspan = (if (A a).toNat = 0 then 1 else if 512 < (A a).toNat then 512 else (A a).toNat)
        ∧ (∀ n, u.ireg k n = if n = d.val ∧ n ≠ 31 then (u.sth k).vspan else s.ireg k n)
        ∧ u.sth k = { x with i := (u.sth k).i, vspan := (u.sth k).vspan, pc := x.pc + 4 })
    ∧ (∀ q, s.SparReady t q [15] →
      exec (.yield t) s = .next (s.sparNext t)
      ∧ (∀ (c : CReg) (r : Fin 32) (v : Nat),
        (c, v) ∈ [(.vspan, x.vspan), (.vri, x.vri), (.fpc, x.fpc.toNat), (.fvec, x.fvec.toNat), (.fret, x.fret.toNat), (.fcode, x.fcode),
          (.fdata, x.fdata.toNat), (.fspan, x.fspan), (.fvri, x.fvri), (.fstat, if x.inh then 1 else 0)] →
        ∃ u, exec (.controlRegisterAccess t false c r) s = .next u ∧ s.SparWrote u t r (BitVec.ofNat 64 v))
      ∧ (∀ r : Fin 32, ∃ u, exec (.controlRegisterAccess t true .fpc r) s = .next u ∧ s.OnlySpar u t
        ∧ u.sth k = { x with fpc := (u.sth k).fpc, pc := x.pc + 4 }
        ∧ ∀ i : Fin 64, (u.sth k).fpc.getLsbD i.val = (if i.val < 2 then (A r).getLsbD i.val
            else if 4 ≤ i.val ∧ i.val < 10 then x.fpc.getLsbD i.val && !(A r).getLsbD i.val else false))
      ∧ (∀ (c : CReg) (r : Fin 32) (y : SparThr),
        (c, y) ∈ [(.vspan, { x with vspan := max 1 (min 512 (A r).toNat) }), (.vri, { x with vri := (A r).toNat % 1024 }), (.fvec, { x with fvec := A r }),
          (.fret, { x with fret := A r }), (.fcode, { x with fcode := (A r).toNat % 2 ^ 32 }), (.fdata, { x with fdata := A r }),
          (.fspan, { x with fspan := max 1 (min 512 (A r).toNat) }), (.fvri, { x with fvri := (A r).toNat % 1024 }),
          (.fstat, { x with inh := (A r).getLsbD 0 })] →
        exec (.controlRegisterAccess t true c r) s = .next (s.setSth k { y with pc := x.pc + 4 })))

/-- R220, R226, R228, R229: an aligned access that breaks no rule completes, in each of the three spaces. A load writes i[d], extended by sign or zero, or f[d], from
the caches and node memory (SPACE 0), from node memory once the line that matches is written back (SPACE 1), or from a scratchpad (SPACE 2). A
store writes there. The thread waits for the return of what its L1 does not complete. A store to SPACE 0 is seen by the cores and leaves node memory;
FENCE.N and CWB bring the lines to node memory and CINV drops one. Every other byte stays.

R223, R226: a node atomic on a word of any of the three spaces returns the word's old value and stores the new one: the sum, the smaller or larger
(signed or unsigned), the operand, or for a compare-and-swap i[c] where the word is the operand. A 32-bit one returns it in the low
half of i[d]. In node memory its term joins the step's digests; on a scratchpad no other byte changes. -/
def Obligations.ScalarMemory : Prop :=
  (
  ∀ (s : State) (t : SThr) (q : DRef), s.mapsOk →
    let k := sthKey t
    let A := fun (n : Fin 32) => BitVec.ofNat 64 (s.ireg k n.val)
    (s.SparReady t q [8] → ∀ (op : LsOp) (ev : List HwEv), (op.fp = true → 2 ≤ op.width.val) → s.sparGoes t q ev = true →
      let ea := (A op.base + op.off.signExtend 64).toNat
      let n := 2 ^ op.width.val
      let sp := getBits ea 48 16
      let y := (s.sparSeen t q ev).uncache (s.sparWriter k q).tag ea
      let w : SWait := if op.hit = true ∧ sp = 0 then .none_ else .access
      let x := y.sth k
      s.sparAddr op.store ea n = none →
      (∀ bs : List Byte, op.store = false →
        (sp, bs) ∈ [(0, (List.range n).map (fun i => y.cByte (getBits ea 0 48 + i))), (1, y.rdBytes (getBits ea 0 48) n),
          (2, y.spadRead (getBits ea 40 5) (getBits ea 0 25) n)] →
        ∃ u, exec (.scalarLoadStore t op ev) s = .next u ∧ y.OnlySpar u t
          ∧ u.sth k = { x with i := (u.sth k).i, f := (u.sth k).f, wait := w, pc := x.pc + 4 }
          ∧ (op.fp = false → (u.sth k).f = x.f ∧ ∀ r, u.ireg k r = if r = op.d.val ∧ r ≠ 31
              then (if op.signed then (BitVec.ofNat (8 * n) (leNat bs)).signExtend 64 else BitVec.ofNat 64 (leNat bs)).toNat else s.ireg k r)
          ∧ (op.fp = true → (u.sth k).i = x.i ∧ u.freg k op.d.val % 2 ^ (8 * n) = leNat bs
              ∧ ∀ r, r ≠ op.d.val → u.freg k r = s.freg k r))
      ∧ (op.store = true →
        let d := leBytes n (if op.fp then s.freg k op.d.val else s.ireg k op.d.val)
        (∀ v, y.sparWrite (s.sparWriter k q) k ea d = .ok v →
          ∃ u, exec (.scalarLoadStore t op ev) s = .next u ∧ u = { v with spar := u.spar } ∧ u.sth k = { x with wait := w, pc := x.pc + 4 }
            ∧ (sp = 1 → y.write (s.sparWriter k q) (getBits ea 0 48) d = .ok v)
            ∧ (sp = 2 → v = { y with spad := memWrite y.spad (spadKey (getBits ea 40 5) (getBits ea 0 25)) d })
            ∧ (sp = 0 → y.ckpt = none → SM.Sorted y.cline → u.mem = y.mem ∧ u.spad = y.spad ∧ u.regs = y.regs
              ∧ ∀ a, u.cByte a = if getBits ea 0 48 ≤ a ∧ a < getBits ea 0 48 + n then d.getD (a - getBits ea 0 48) 0 else y.cByte a))
        ∧ (y.sparWrite (s.sparWriter k q) k ea d = .error .wait → exec (.scalarLoadStore t op ev) s = .next s)))
    ∧ (s.SparReady t q [14] →
      exec (.fenceN t) s = .next ((s.fenceNode k q).sparNext t)
      ∧ (∀ a : Fin 32, let l := (A a).toNat / 128
        s.sparAddr true (l * 128) 128 = none →
        let here := fun (p : Nat × CLine) => decide (p.1 = getBits (l * 128) 0 48 / 128) && decide (getBits (l * 128) 48 16 = 0)
        let next := fun (u : State) => u.updSth k (fun x => { x with wait := .access, pc := x.pc + 4 })
        exec (.cwb t a) s = .next (next (s.flushLines (s.sparWriter k q).tag here))
        ∧ exec (.cinv t a) s = .next (next { s with cline := s.cline.filter (fun p => !here p) }))
      ∧ (∀ (l : Nat) (c : CLine), s.cline = [(l, c)] → c.writers = [k] →
        let back := c.bytes.foldl (fun m b => memWrite m (l * 128 + b.1) [b.2]) s.mem
        (∃ u, exec (.fenceN t) s = .next u ∧ u.mem = back ∧ u.cline = [] ∧ u.spad = s.spad
          ∧ u.sth k = { s.sth k with pc := (s.sth k).pc + 4 })
        ∧ (∀ a : Fin 32, (A a).toNat / 128 = l → s.sparAddr true ((A a).toNat / 128 * 128) 128 = none → (A a).toNat < 2 ^ 48 →
          (∃ u, exec (.cwb t a) s = .next u ∧ u.mem = back ∧ u.cline = [] ∧ u.spad = s.spad
            ∧ u.sth k = { s.sth k with wait := .access, pc := (s.sth k).pc + 4 })
          ∧ (∃ u, exec (.cinv t a) s = .next u ∧ u = { s with cline := [], spar := u.spar }
            ∧ u.sth k = { s.sth k with wait := .access, pc := (s.sth k).pc + 4 }))))
  ) ∧ (
  ∀ (s : State) (t : SThr) (q : DRef) (op : AtOp) (wide : Bool) (d a b c : Fin 32) (ev : List HwEv), s.mapsOk → s.SparReady t q [9] →
    s.sparGoes t q ev = true →
    let k := sthKey t
    let ea := s.ireg k a.val
    let sp := getBits ea 48 16
    let n := if wide then 8 else 4
    let w := { s.sparWriter k q with kind := 1 }
    let y := (s.sparSeen t q ev).uncache w.tag ea
    let x := BitVec.ofNat (8 * n) (s.ireg k b.val)
    let z := BitVec.ofNat (8 * n) (s.ireg k c.val)
    s.sparAddr true ea n = none →
    ∀ bs : List Byte, (sp, bs) ∈ [(0, (List.range n).map (fun i => y.cByte (getBits ea 0 48 + i))), (1, y.rdBytes (getBits ea 0 48) n),
        (2, y.spadRead (getBits ea 40 5) (getBits ea 0 25) n)] →
      let m := BitVec.ofNat (8 * n) (leNat bs)
      ∀ v, (op, v) ∈ [(.add, m + x), (.min, if x.slt m then x else m), (.max, if m.slt x then x else m), (.minu, if x.ult m then x else m),
        (.maxu, if m.ult x then x else m), (.xchg, x), (.cas, if m = x then z else m)] →
      let g := if sp = 2 then y else
        y.addTerm w (atomicTerm (getBits ea 0 48) (Config.nodeRop (atCode op)) (atType op wide) x.toNat (if op = .cas then z.toNat else 0))
      ∀ h, g.sparWrite w k ea (leBytes n v.toNat) = .ok h →
        (sp = 2 → h.spad = memWrite s.spad (spadKey (getBits ea 40 5) (getBits ea 0 25)) (leBytes n v.toNat) ∧ h.mem = s.mem)
        ∧ ∃ u, exec (.nodeAtomic t op wide d a b c ev) s = .next u ∧ u = { h with spar := u.spar, freeCtr := u.freeCtr }
        ∧ (d.val ≠ 31 → u.ireg k d.val % 2 ^ (8 * n) = m.toNat) ∧ (∀ r, r ≠ d.val → u.ireg k r = s.ireg k r)
        ∧ (u.sth k).wait = .access ∧ (u.sth k).pc = (s.sth k).pc + 4
  )

/-- R237, R238, R173, R105: arithmetic of both widths writes f[d] as the operation rounded by FPC.RM and adds its flags to FPC; an FP32 result stands in the
low half of f[d]; a conversion writes its target's pattern, rounded by RM to FP32 and FP64 and to nearest else; a comparison writes 0 or 1 to i[d], and no NaN compares equal or in order
(which comparisons signal: log entry 21); what a classification writes the manual leaves open. A NaN result is an event of the thread under NaN watch. -/
def Obligations.ScalarFloatingPoint : Prop :=
  ∀ (s : State) (t : SThr) (q : DRef) (d a b c : Fin 32) (ev : List HwEv), s.mapsOk → s.SparReady t q [12] → s.sparGoes t q ev = true →
    let k := sthKey t
    let z := s.sparChecked t q ev
    let rm := rmOf (s.sth k).fpc
    let F := fun (f : Fp.Fmt) (n : Fin 32) => Fp.decode f (s.freg k n.val)
    let fl := fun (n : Nat) => (s.sth k).fpc ||| BitVec.ofNat 64 ((n % 64) <<< 4)
    let wrote := fun (i : Instr) (f : Fp.Fmt) (r : Fp.Res) => ∃ (u : State) (hit : Option (Nat × Nat)),
      exec i s = .next ((u.sparNan k t.word.toNat hit).sparEnd t q) ∧ (hit = none ↔ r.v.isNan = false) ∧ (∀ h, hit = some h → h.1 = 0)
        ∧ z.OnlySpar u t ∧ u.freg k d.val % 2 ^ f.width = Fp.encode f r.v ∧ (∀ n, n ≠ d.val → u.freg k n = s.freg k n)
        ∧ u.sth k = { s.sth k with f := (u.sth k).f, fpc := fl r.fl }
    (∀ (f : Fp.Fmt) (ew : Fin 4) (op : FpOp) (r : Fp.Res), (f, ew) ∈ [(Fp.Fmt.fp64, (3 : Fin 4)), (.fp32, 2)] →
      fpSpec f rm op (F f a) (F f b) (F f c) = some r → wrote (.scalarFloatingPoint t op ew d a b c ev) f r)
    ∧ (∀ (src dst : Fin 8) (f g : Fp.Fmt) (ew : Fin 4), cvtFmt src.val = some f → cvtFmt dst.val = some g → cvtOk f g = true →
      wrote (.scalarFloatingPoint t (.cvt src dst) ew d a b c ev) g
        (Fp.roundVal g (if g = .fp32 ∨ g = .fp64 then rm else .rne) (F f a)))
    ∧ (∀ (f : Fp.Fmt) (ew : Fin 4) (op : FpOp) (p : Bool), (f, ew) ∈ [(Fp.Fmt.fp64, (3 : Fin 4)), (.fp32, 2)] →
      (op, p) ∈ [(.ceq, Fp.cmp (F f a) (F f b) == some 0), (.clt, Fp.cmp (F f a) (F f b) == some (-1)),
        (.cle, Fp.cmp (F f a) (F f b) == some (-1) || Fp.cmp (F f a) (F f b) == some 0)] →
      ∃ u n, exec (.scalarFloatingPoint t op ew d a b c ev) s = .next u ∧ z.OnlySpar u t
        ∧ (∀ r, u.ireg k r = if r = d.val ∧ r ≠ 31 then (if p then 1 else 0) else s.ireg k r)
        ∧ u.sth k = { s.sth k with i := (u.sth k).i, fpc := fl n, pc := (s.sth k).pc + 4 }
        ∧ (n = 0 ∨ n = Fp.fINVALID) ∧ ((F f a).isNan = false → (F f b).isNan = false → n = 0))
    ∧ (∀ ew : Fin 4, 2 ≤ ew.val → ∃ u v, exec (.scalarFloatingPoint t .classify ew d a b c ev) s = .next u ∧ z.SparWrote u t d v)

/-- R223, R231, R241, R243, R244: a fault with a handler and INH 0 saves PC, cause, address, VSPAN and VRI (0 for a scalar instruction), clears VRI, sets INH and goes on at FVEC, and
changes nothing else: a reserved class or encoding (ILLEGAL), a branch to a misaligned address (ALIGN), an access that breaks a rule of its address, a width that an
operation does not allow (BAD_VFORM). TRAP saves the next PC (log entry 22). FRESUME restores VSPAN (from 1 to 512) and VRI, clears INH and goes on at FRET. At Reef 4 a core issues nothing (R7).

R226, R254: which accesses the Spar cores allow. A misaligned one is ALIGN; one to a SPACE above 2 or with bits [63:52] set BAD_SPACE; one to node memory
that no bound of SPAR_BOUND0 to 7 covers, and one beyond a scratchpad's bytes, RANGE. -/
def Obligations.SparFaultsAndResume : Prop :=
  (
  ∀ (s : State) (t : SThr) (q : DRef), s.mapsOk →
    let k := sthKey t
    let x := s.sth k
    let ill := s.sparFaulted t 0x0701 0
    (s.SparReady t q [15] → exec (.fresume t) s = .next (s.setSth k { x with vspan := max 1 (min 512 x.fspan), vri := x.fvri, inh := false, pc := x.fret })
      ∧ (x.fvec ≠ 0 → x.inh = false → ∀ code : BitVec 16, exec (.trap t code) s = .next (s.setSth k { x with
          fret := x.pc + 4, fcode := code.toNat, fdata := 0, fspan := x.vspan, fvri := x.vri, vri := 0, inh := true, pc := x.fvec })))
    ∧ (x.run = some q → x.halted = false → x.fvec ≠ 0 → x.inh = false →
      ∀ (d a b c : Fin 32) (op : IntOp) (imm : BitVec 14) (md : MdOp) (br : BrOp) (ls : LsOp) (ev : List HwEv) (at_ : AtOp) (wide : Bool) (fo : FpOp)
        (ew : Fin 4) (f : Fin 16) (im : BitVec 16) (cr : CReg) (m : VMode) (vo : VecOp) (wo : WideOp) (i : Instr) (cls : List Nat),
      (i, cls) ∈ [(.integerRegisterOp t op d a b, [1]), (.integerImmediateOp t op d a imm, [2]), (.immx t d im, [3]), (.multiplyDivide t md d a b, [4]),
        (.branch t br a b imm, [6]), (.call t d imm, [6]), (.scalarLoadStore t ls ev, [8]), (.nodeAtomic t at_ wide d a b c ev, [9]),
        (.scalarFloatingPoint t fo ew d a b c ev, [12]), (.fenceL t, [14]), (.fenceN t, [14]), (.cwb t a, [14]), (.cinv t a, [14]),
        (.controlRegisterAccess t wide cr a, [15]), (.trap t im, [15]), (.fresume t, [15]), (.halt t, [15]), (.yield t, [15]), (.dpost t d a, [15]),
        (.dwait t d a, [15]), (.vspanset t d a, vxv), (.vectorLoadStore t wide m ew f d a ev, vxv), (.vectorArithmetic t vo ew f d a b c ev, vxv),
        (.vsums t ew f d a, vxv), (.vsumt t ew f d a, vxv), (.vxmul t wo wide ew f d a b, vxv), (.vxmac t wo wide ew f d a b, vxv),
        (.vdot t wo ew f d a b, vxv)] →
      (s.capStop = true → exec i s = .next s)
      ∧ (s.capStop = false → x.wait = .none_ → getBits t.word.toNat 27 5 ∉ [1, 2, 3, 4, 6, 8, 9, 10, 12, 14, 15] ++ vxv → exec i s = .next ill)
      ∧ (s.capStop = false → x.wait = .none_ → getBits t.word.toNat 27 5 ∈ cls → t.reserved = true → exec i s = .next ill))
    ∧ (x.fvec ≠ 0 → x.inh = false →
      (s.SparReady t q [1] → ∀ d a b : Fin 32, exec (.integerRegisterOp t .reserved d a b) s = .next ill)
      ∧ (s.SparReady t q [2] → ∀ (d a : Fin 32) (imm : BitVec 14), exec (.integerImmediateOp t .reserved d a imm) s = .next ill)
      ∧ (s.SparReady t q [4] → ∀ d a b : Fin 32, exec (.multiplyDivide t .reserved d a b) s = .next ill)
      ∧ (s.SparReady t q [15] → ∀ (wr : Bool) (r : Fin 32), exec (.controlRegisterAccess t wr .reserved r) s = .next ill)
      ∧ (s.SparReady t q [6] → ∀ (a b : Fin 32) (off : BitVec 14), exec (.branch t .reserved a b off) s = .next ill
        ∧ (s.ireg k a.val % 4 ≠ 0 → exec (.branch t .reg a b off) s = .next (s.sparFaulted t 0x0703 (BitVec.ofNat 64 (s.ireg k a.val)))))
      ∧ (s.SparReady t q [8] → ∀ (op : LsOp) (ev : List HwEv) (c : Nat),
        let ea := wrapInt 64 (s.ireg k op.base.val + op.off.toInt)
        (op.fp = true → op.width.val < 2 → exec (.scalarLoadStore t op ev) s = .next ill)
        ∧ ((op.fp = true → 2 ≤ op.width.val) → s.sparAddr op.store ea (2 ^ op.width.val) = some c → c ≠ 0 → c ≠ 0x1101 →
          exec (.scalarLoadStore t op ev) s = .next (s.sparFaulted t c (BitVec.ofNat 64 ea))))
      ∧ (s.SparReady t q [9] → ∀ (op : AtOp) (wide : Bool) (d a b c : Fin 32) (ev : List HwEv) (e : Nat),
        exec (.nodeAtomic t .reserved wide d a b c ev) s = .next ill
        ∧ (op ≠ .reserved → s.sparAddr true (s.ireg k a.val) (if wide then 8 else 4) = some e → e ≠ 0 → e ≠ 0x1101 →
          exec (.nodeAtomic t op wide d a b c ev) s = .next (s.sparFaulted t e (BitVec.ofNat 64 (s.ireg k a.val)))))
      ∧ (s.SparReady t q [12] → ∀ (op : FpOp) (ew : Fin 4) (d a b c : Fin 32), (∀ m n, op ≠ .cvt m n) → ew.val < 2 ∨ op = .reserved →
        exec (.scalarFloatingPoint t op ew d a b c []) s = .next ill)
      ∧ (s.SparReady t q vxv → ∀ (ew : Fin 4) (w : Fin 16) (d a b c : Fin 32), 
        (ew.val < 2 → exec (.vsums t ew w d a) s = .next (s.sparFaulted t 0x0707 0) ∧ exec (.vsumt t ew w d a) s = .next (s.sparFaulted t 0x0707 0)
          ∧ ∀ op ∈ [VecOp.fp .add, .fp .sub, .fp .mul, .fp .fma, .fp .min, .fp .max, .cmpFp .ceq, .cmpFp .clt, .cmpFp .cle, .redMax, .redMin],
            exec (.vectorArithmetic t op ew w d a b c []) s = .next (s.sparFaulted t 0x0707 0))
        ∧ exec (.vectorArithmetic t .reserved ew w d a b c []) s = .next ill
        ∧ (∀ (op : WideOp) (h : Bool) (e n m : Nat), (wideShape op false = some (e, n, m) → e ≠ ew.val → exec (.vxmul t op h ew w d a b) s = .next (s.sparFaulted t 0x0707 0))
          ∧ (op ≠ .f32 → exec (.vxmac t op h ew w d a b) s = .next ill)
          ∧ (ew ≠ 2 → exec (.vxmac t .f32 h ew w d a b) s = .next (s.sparFaulted t 0x0707 0))
          ∧ (wideShape op true = some (e, n, m) → e ≠ ew.val → exec (.vdot t op ew w d a b) s = .next (s.sparFaulted t 0x0707 0)))))
  ) ∧ (
  ∀ (s : State) (wr : Bool) (ea n : Nat), n ∈ [1, 2, 4, 8] → ea < 2 ^ 64 →
    (ea % n ≠ 0 → s.sparAddr wr ea n = some 0x0703)
    ∧ (ea % n = 0 → 2 < ea / 2 ^ 48 → s.sparAddr wr ea n = some 0x0705)
    ∧ (ea % n = 0 → ea / 2 ^ 48 ≤ 1 → (∀ i, i < 8 → s.flag (fBoundEn i) = false
        ∨ ea % 2 ^ 48 / 4096 < s.fld (fBoundBase i) ∨ s.fld (fBoundLimit i) < ea % 2 ^ 48 / 4096) →
      s.sparAddr wr ea n = some 0x0704)
    ∧ (ea % n = 0 → ea / 2 ^ 48 = 2 → 0x1800000 < ea % 2 ^ 25 + n → s.sparAddr wr ea n = some 0x0704)
  )

/-- R246, R247: a SPAR_RUN that breaks no rule and whose cores have the contexts free starts: on the core that is number c among those selected,
thread j runs in the j-th free context from ENTRY with i1 to i3 the arguments, i4 the core, i5 = j, i6 = c × threads + j, and every other register 0.
With too few contexts free it waits, and with an absent core it ends with EXEC_ERROR, cause ABSENT_CORE.

R239, R244, R247: HALT completes: it halts its thread, adds FPC's sticky flags to SPAR_FPFLAGS, and lets its descriptor end where nothing of it is left. The
HALT of the last thread of a SPAR_RUN with nothing outstanding finishes its descriptor with OK and frees its contexts; an earlier HALT only halts its thread. A fault without a handler ends the descriptor with EXEC_ERROR
and RESULT cause, core and thread index.

R248, R249, R250, R251: DPOST performs FENCE.N, reads an allowed descriptor, puts a child of the thread's step behind the node's descriptors and returns the lowest free
handle; with no handle free it waits; a child that R249 or R260 refuses finishes at once. DWAIT on a finished child returns STATUS in [15:0] and RESULT in [63:32] and frees the handle, on a free handle returns 0, and else waits. -/
def Obligations.ThreadsLiveAndEnd : Prop :=
  (
  ∀ (s : State) (rg : Fin 64) (c : Nat) (x : InDesc), s.mapsOk → s.Startable (.ring rg c) x → dOp x.raw = 0x280 →
    let cores := setBits 48 (getBits (dArg x.raw 0) 0 48)
    let n := getBits (dArg x.raw 0) 48 3 + 1
    ((∃ k ∈ cores, s.coreOn k = false) → x.step ≠ 0 →
      ∃ u, exec (.sparRun (.ring rg c)) s = .next u ∧ u.Finished (.ring rg c) x 0x0204 0x0702 ∧ s.OnlyEnds u)
    ∧ (cores ≠ [] → (∀ k ∈ cores, s.coreOn k = true) → dMask x.raw = 0 → dArg x.raw 0 < 2 ^ 51 → dProg x.raw % 4 = 0 →
      dProg x.raw < 2 ^ 48 → s.sparAddr false (dProg x.raw) 4 = none → (∀ k ∈ cores, ∀ j, j < n → s.isStopped (0x40 + k) 3 j = false) →
      ((∃ k ∈ cores, (s.freeCtx k).length < n) → exec (.sparRun (.ring rg c)) s = .next s)
      ∧ ((∀ k ∈ cores, n ≤ (s.freeCtx k).length) →
        ∃ u, exec (.sparRun (.ring rg c)) s = .next u ∧ u = { s with descs := u.descs, spar := u.spar }
          ∧ u.desc? (.ring rg c) = some { x with st := .running, left := cores.length * n }
          ∧ ∀ (ci k j p : Nat), cores[ci]? = some k → j < n → (s.freeCtx k)[j]? = some p →
            let y := u.sth (sparKey k p)
            y.run = some (.ring rg c) ∧ y.tidx = j ∧ y.pc = BitVec.ofNat 64 (dProg x.raw) ∧ y.halted = false ∧ y.vspan = 512 ∧ y.vri = 0
              ∧ y.fpc = 0 ∧ y.f = [] ∧ y.z = [] ∧ y.w = []
              ∧ ∀ r, u.ireg (sparKey k p) r
                = if r = 1 ∨ r = 2 ∨ r = 3 then dArg x.raw r else if r = 4 then k else if r = 5 then j else if r = 6 then ci * n + j else 0))
  ) ∧ (
  (∀ (s : State) (t : SThr) (q : DRef), s.mapsOk → s.SparReady t q [15] → exec (.halt t) s = .next ((s.sparHalt (sthKey t)).progCheck q)
    ∧ ((s.sparHalt (sthKey t)).sth (sthKey t)).halted = true)
  ∧ (∀ (s : State) (t : SThr) (rg : Fin 64) (c : Nat) (x : InDesc), s.mapsOk → s.cline = [] →
    s.desc? (.ring rg c) = some x → x.st = .running → x.step ≠ 0 → dOp x.raw = 0x280 → x.status = 0 →
    s.coll.hands = [] → s.remote.ops = [] → s.remote.dead = [] → s.handles = [] →
    (s.SparReady t (.ring rg c) [15] → 2 ≤ x.left → ∃ u, exec (.halt t) s = .next u ∧ (u.sth (sthKey t)).halted = true
      ∧ u.desc? (.ring rg c) = some { x with left := x.left - 1 } ∧ u.mem = s.mem ∧ u.spad = s.spad ∧ u.regs = s.regs)
    ∧ (s.SparReady t (.ring rg c) [15] → x.left = 1 → ∃ u, exec (.halt t) s = .next u ∧ u.Finished (.ring rg c) { x with left := 0 } 0 0
      ∧ (∀ k, (u.sth k).run ≠ some (.ring rg c))
      ∧ u.live.spFlags = s.live.spFlags ||| (s.sth (sthKey t)).fpc.extractLsb' 4 6
      ∧ u.mem = s.mem ∧ u.spad = s.spad ∧ u.regs = s.regs)
    ∧ (s.SparReady t (.ring rg c) [1] → x.left = 1 → (∀ k, k ≠ sthKey t → (s.sth k).run ≠ some (.ring rg c)) →
      ((s.sth (sthKey t)).fvec = 0 ∨ (s.sth (sthKey t)).inh = true) →
      ∀ d a b : Fin 32, ∃ u, exec (.integerRegisterOp t .reserved d a b) s = .next u
        ∧ u.Finished (.ring rg c) { x with left := 0 } 0x0204
            (0x0701 ||| t.core.val <<< 16 ||| (s.sth (sthKey t)).tidx <<< 22)
        ∧ u.mem = s.mem ∧ u.spad = s.spad ∧ u.regs = s.regs))
  ) ∧ (
  ∀ (s : State) (t : SThr) (q : DRef) (d a : Fin 32), s.mapsOk → s.SparReady t q [15] →
    let k := sthKey t
    let ea := s.ireg k a.val
    let w := s.fenceNode k q
    let y := w.uncache (w.sparWriter k q).tag ea
    let mine := s.handles.filter (fun h => h.owner = k)
    (∀ (bs : List Byte), (getBits ea 48 16, bs) ∈ [(0, (List.range 64).map (fun i => y.cByte (getBits ea 0 48 + i))), (1, y.rdBytes (getBits ea 0 48) 64)] →
      w.sparAddr false ea 64 = none →
      let raw := BitVec.ofNat 512 (leNat bs)
      childOk raw = true →
      (64 ≤ mine.length ∨ 1024 ≤ s.handles.length → exec (.dpost t d a) s = .next s)
      ∧ (∀ i, mine.length < 64 → s.handles.length < 1024 → (List.range 64).find? (fun i => !mine.any (fun h => h.idx = i)) = some i →
        exec (.dpost t d a) s = .next (((y.addChild k q raw i).setIreg k d.val i).sparEnd t q)
        ∧ (∀ x, y.desc? q = some x → (dFence raw 0).testBit 22 = false → (dFence raw 1).testBit 22 = false → (tilesOf raw).all y.tileOn = true →
          opOk (dOp raw) (dStream raw) = true →
          ∃ u z, exec (.dpost t d a) s = .next u ∧ u.descs = y.descs ++ [z] ∧ z.step = x.step ∧ z.counts = false ∧ z.st = .waiting
            ∧ z.ref = .child y.nextChild ∧ dOp z.raw = dOp raw ∧ (∀ j, j < 4 → dArg z.raw j = dArg raw j)
            ∧ u.handles = y.handles ++ [⟨y.nextChild, i, k, q, none⟩] ∧ (d.val ≠ 31 → u.ireg k d.val = i)
            ∧ u = { y with descs := u.descs, handles := u.handles, nextChild := u.nextChild, spar := u.spar })))
    ∧ ((∀ h ∈ s.handles, h.owner = k → h.idx ≠ ea) → ∃ u, exec (.dwait t d a) s = .next u ∧ s.SparWrote u t d 0)
    ∧ (∀ h, s.handles.find? (fun h => h.owner = k && h.idx = ea) = some h →
      (h.result = none → exec (.dwait t d a) s = .next s)
      ∧ (∀ st re, h.result = some (st, re) → ∃ u, exec (.dwait t d a) s = .next u
        ∧ (d.val ≠ 31 → u.ireg k d.val = st.toNat + re.toNat * 2 ^ 32) ∧ (∀ r, r ≠ d.val → u.ireg k r = s.ireg k r)
        ∧ u.handles = s.handles.filter (fun x => x.num ≠ h.num) ∧ u = { s with handles := u.handles, spar := u.spar }))
  )

/-- R231 to R236, R238: element-by-element arithmetic works on the elements from VRI to the active count that the ward selects and leaves every
other element of z[d] (a merge takes one of its sources by the ward, a conversion counts elements of its target: log entry 20); comparisons write bits of a ward, w0 none; the maximum and minimum reduce to f[d]; widening multiplies
and dot products act likewise, with one rounding. VRI becomes 0. The first NaN written is an event under NaN watch.

R235: VSUMS adds the active elements, of either width, to f[d] in ascending order, with one rounding each; VSUMT adds them by the tree of R170 with inactive
places left out, and the result to f[d]. Each with no active element changes nothing but VRI. -/
def Obligations.VectorArithmetic : Prop :=
  (
  ∀ (s : State) (t : SThr) (q : DRef) (f : Fin 16) (d a b c : Fin 32) (ev : List HwEv), s.mapsOk → s.SparReady t q vxv → s.sparGoes t q ev = true →
    let k := sthKey t
    let z := s.sparChecked t q ev
    let E := fun (r : Fin 32) (n i : Nat) => zget (s.zreg k r.val) n i
    let rm := rmOf (s.sth k).fpc
    let va := fun (op : VecOp) (ew : Fin 4) => Instr.vectorArithmetic t op ew f d a b c ev
    let done := fun (g : State) (i : Instr) (u : State) => exec i s = .next (u.sparEnd t q) ∧ g.VecDone u t d
    let doneFp := fun (g : State) (i : Instr) (u : State) => ∃ hit, exec i s = .next ((u.sparNan k t.word.toNat hit).sparEnd t q) ∧ g.VecDone u t d
    (∀ (op : IntOp) (ew : Fin 4), op ∉ [.reserved, .eq, .ne, .lt, .ltu, .le, .leu] →
      let n := 2 ^ ew.val
      ∃ u, done z (va (.int op) ew) u ∧ s.Elements u t d n (s.laneOn t n f.val)
        (fun i => (intSpec op (BitVec.ofNat (8 * n) (E a n i)) (BitVec.ofNat (8 * n) (E b n i))).map (·.toNat)))
    ∧ (∀ ew : Fin 4, let n := 2 ^ ew.val
      (∃ u, done z (va .mul ew) u ∧ s.Elements u t d n (s.laneOn t n f.val)
        (fun i => some (BitVec.ofNat (8 * n) (E a n i) * BitVec.ofNat (8 * n) (E b n i)).toNat))
      ∧ (∃ u, done z (va .merge ew) u
        ∧ s.Elements u t d n (fun i => (s.sth k).vri ≤ i ∧ i < ((s.sth k).vspan + n - 1) / n)
          (fun i => some (if (s.wardBits k f.val).testBit i then E a n i else E b n i))))
    ∧ (∀ (op : VecOp) (ew : Fin 4) (p : Nat → Bool), let n := 2 ^ ew.val
      let x := fun (r : Fin 32) (i : Nat) => BitVec.ofNat (8 * n) (E r n i)
      let F := fun (r : Fin 32) (i : Nat) => Fp.decode (if n = 8 then .fp64 else .fp32) (E r n i)
      ((op, p) ∈ [(VecOp.cmpInt .eq, fun i => x a i == x b i), (.cmpInt .ne, fun i => x a i != x b i), (.cmpInt .lt, fun i => (x a i).slt (x b i)),
        (.cmpInt .ltu, fun i => (x a i).ult (x b i)), (.cmpInt .le, fun i => (x a i).sle (x b i)), (.cmpInt .leu, fun i => (x a i).ule (x b i))]
      ∨ (2 ≤ ew.val ∧ (op, p) ∈ [(VecOp.cmpFp .ceq, fun i => Fp.cmp (F a i) (F b i) == some 0), (.cmpFp .clt, fun i => Fp.cmp (F a i) (F b i) == some (-1)),
        (.cmpFp .cle, fun i => Fp.cmp (F a i) (F b i) == some (-1) || Fp.cmp (F a i) (F b i) == some 0)])) →
      ∃ u, exec (va op ew) s = .next u ∧ z.OnlySpar u t
        ∧ u.sth k = { s.sth k with w := (u.sth k).w, fpc := (u.sth k).fpc, vri := 0, pc := (s.sth k).pc + 4 }
        ∧ (∀ r, r ≠ d.val % 8 → u.ward k r = s.ward k r)
        ∧ (d.val % 8 ≠ 0 → ∀ i, i < 512 → (s.laneOn t n f.val i → (u.ward k (d.val % 8)).testBit i = p i)
          ∧ (¬ s.laneOn t n f.val i → (u.ward k (d.val % 8)).testBit i = (s.ward k (d.val % 8)).testBit i)))
    ∧ (∀ (fm : Fp.Fmt) (ew : Fin 4) (op : FpOp), (fm, ew) ∈ [(Fp.Fmt.fp64, (3 : Fin 4)), (.fp32, 2)] →
      op ∈ [.add, .sub, .mul, .fma, .div, .sqrt, .min, .max] →
      let n := 2 ^ ew.val
      let R := fun (i : Nat) => fpSpec fm rm op (Fp.decode fm (E a n i)) (Fp.decode fm (E b n i)) (Fp.decode fm (E c n i))
      ∃ u, doneFp z (va (.fp op) ew) u ∧ s.Elements u t d n (s.laneOn t n f.val) (fun i => (R i).map (fun r => Fp.encode fm r.v))
        ∧ ∀ j, j < 6 → ((u.sth k).fpc.getLsbD (4 + j) = true ↔ (s.sth k).fpc.getLsbD (4 + j) = true
            ∨ ∃ i r, i < 512 / n ∧ s.laneOn t n f.val i ∧ R i = some r ∧ r.fl.testBit j = true))
    ∧ (∀ ew : Fin 4, 2 ≤ ew.val → let n := 2 ^ ew.val
      ∃ u, done z (va (.fp .classify) ew) u ∧ s.Elements u t d n (s.laneOn t n f.val) (fun _ => none))
    ∧ (∀ (src dst : Fin 8) (g h : Fp.Fmt) (ew : Fin 4), cvtFmt src.val = some g → cvtFmt dst.val = some h → cvtOk g h = true →
      let n := h.width / 8
      let m := g.width / 8
      ∃ u, doneFp z (va (.fp (.cvt src dst)) ew) u ∧ s.Elements u t d n (s.laneOn t n f.val)
        (fun i => if m * (i + 1) ≤ 512 then some (Fp.encode h (Fp.roundVal h (if h = .fp32 ∨ h = .fp64 then rm else .rne) (Fp.decode g (E a m i))).v) else none))
    ∧ (∀ (fm : Fp.Fmt) (ew : Fin 4) (op : VecOp) (o : FpOp), (fm, ew) ∈ [(Fp.Fmt.fp64, (3 : Fin 4)), (.fp32, 2)] →
      (op, o) ∈ [(.redMax, .max), (.redMin, .min)] →
      let n := 2 ^ ew.val
      let V := (s.lanes k n f.val).map (fun i => Fp.decode fm (E a n i))
      ∃ u hit, exec (va op ew) s = .next ((u.sparNan k t.word.toNat hit).sparEnd t q) ∧ z.OnlySpar u t
        ∧ u.sth k = { s.sth k with f := (u.sth k).f, fpc := (u.sth k).fpc, vri := 0 } ∧ (∀ r, r ≠ d.val → u.freg k r = s.freg k r)
        ∧ ∀ v vs, V = v :: vs → u.freg k d.val % 2 ^ fm.width
          = Fp.encode fm (vs.foldl (fun x y => ((fpSpec fm rm o x y x).map (·.v)).getD x) v))
    ∧ (∀ (op : WideOp) (ew : Fin 4) (high : Bool), (op, ew) ∈ [(WideOp.i8, (0 : Fin 4)), (.i16, 1), (.i32, 2)] →
      let n := 2 ^ ew.val
      let o := if high then 256 / n else 0
      ∃ u, done s (.vxmul t op high ew f d a b) u ∧ s.Elements u t d (2 * n) (s.laneOn t (2 * n) f.val)
        (fun i => some ((BitVec.ofNat (8 * n) (E a n (o + i))).signExtend (16 * n) * (BitVec.ofNat (8 * n) (E b n (o + i))).signExtend (16 * n)).toNat))
    ∧ (∀ (op : WideOp) (ew : Fin 4) (g h : Fp.Fmt) (high : Bool), (op, ew, g, h) ∈ [(WideOp.eq16, (1 : Fin 4), Fp.Fmt.eq16, Fp.Fmt.fp32), (.f32, 2, .fp32, .fp64)] →
      let n := 2 ^ ew.val
      let o := if high then 256 / n else 0
      ∃ u, doneFp s (.vxmul t op high ew f d a b) u ∧ s.Elements u t d (2 * n) (s.laneOn t (2 * n) f.val)
        (fun i => some (Fp.encode h (Fp.mul h rm (Fp.decode g (E a n (o + i))) (Fp.decode g (E b n (o + i)))).v)))
    ∧ (∀ high : Bool,
      let o := if high then 64 else 0
      ∃ u, doneFp s (.vxmac t .f32 high 2 f d a b) u ∧ s.Elements u t d 8 (s.laneOn t 8 f.val)
        (fun i => some (Fp.encode .fp64
          (Fp.fma .fp64 rm (Fp.decode .fp32 (E a 4 (o + i))) (Fp.decode .fp32 (E b 4 (o + i))) (Fp.decode .fp64 (E d 8 i))).v)))
    ∧ (∃ u, done s (.vdot t .i8 0 f d a b) u ∧ s.Elements u t d 4 (s.laneOn t 4 f.val)
      (fun i => some (BitVec.ofNat 32 (E d 4 i) + ((List.range 4).map (fun j => (BitVec.ofNat 8 (E a 1 (4 * i + j))).signExtend 32
        * (BitVec.ofNat 8 (E b 1 (4 * i + j))).signExtend 32)).sum).toNat))
    ∧ (∃ u, done s (.vdot t .u8s8 0 f d a b) u ∧ s.Elements u t d 4 (s.laneOn t 4 f.val)
      (fun i => some (BitVec.ofNat 32 (E d 4 i) + ((List.range 4).map (fun j => (BitVec.ofNat 8 (E a 1 (4 * i + j))).setWidth 32
        * (BitVec.ofNat 8 (E b 1 (4 * i + j))).signExtend 32)).sum).toNat))
    ∧ (∀ (op : WideOp) (ew : Fin 4) (g h : Fp.Fmt), (op, ew, g, h) ∈ [(WideOp.eq16, (1 : Fin 4), Fp.Fmt.eq16, Fp.Fmt.fp32), (.f32, 2, .fp32, .fp64)] →
      let n := 2 ^ ew.val
      let P := fun (i : Nat) => [2 * i, 2 * i + 1].map (fun j => (Fp.decode g (E a n j), Fp.decode g (E b n j)))
      let D := fun (i : Nat) => Fp.decode h (E d (2 * n) i)
      ∃ u, doneFp s (.vdot t op ew f d a b) u ∧ s.Elements u t d (2 * n) (s.laneOn t (2 * n) f.val)
        (fun i => if (D i).isNan || (P i).any (fun p => p.1.isNan || p.2.isNan) then none
          else (Mx.exactDot (P i)).map (fun v => Fp.encode h (Fp.add h rm (D i) v).v)))
  ) ∧ (
  ∀ (s : State) (t : SThr) (q : DRef) (f : Fin 16) (d a : Fin 32) (fm : Fp.Fmt) (ew : Fin 4), s.mapsOk → s.SparReady t q vxv →
    (fm, ew) ∈ [(Fp.Fmt.fp64, (3 : Fin 4)), (.fp32, 2)] →
    let k := sthKey t
    let n := 2 ^ ew.val
    let rm := rmOf (s.sth k).fpc
    let on := s.lanes k n f.val
    let D := fun (i : Nat) => Fp.decode fm (zget (s.zreg k a.val) n i)
    let x := Fp.decode fm (s.freg k d.val)
    let sum := fun (i : Instr) (u : State) => (∃ hit, exec i s = .next ((u.sparNan k t.word.toNat hit).sparEnd t q)) ∧ s.OnlySpar u t
      ∧ u.sth k = { s.sth k with f := (u.sth k).f, fpc := (u.sth k).fpc, vri := 0 } ∧ (∀ r, r ≠ d.val → u.freg k r = s.freg k r)
      ∧ (on = [] → u.freg k d.val = s.freg k d.val)
    (∀ i, i ∈ on ↔ s.laneOn t n f.val i) ∧ on.Pairwise (· < ·)
    ∧ (∃ u, sum (.vsums t ew f d a) u ∧ (on ≠ [] → u.freg k d.val % 2 ^ fm.width
        = Fp.encode fm (on.foldl (fun x i => (Fp.add fm rm x (D i)).v) x)))
    ∧ (∃ u, sum (.vsumt t ew f d a) u
      ∧ (∀ i, on = [i] → u.freg k d.val % 2 ^ fm.width = Fp.encode fm (Fp.add fm rm (D i) x).v)
      ∧ ∀ i j, on = [i, j] → j = i + 1 → i % 2 = 0 → u.freg k d.val % 2 ^ fm.width
          = Fp.encode fm (Fp.add fm rm (Fp.add fm rm (D i) (D j)).v x).v)
  )

/-- R232, R233, R241, R243: a vector load reads the active elements, in every space, and leaves the others; a store writes them in ascending order; each element that its space and the
rules of its address allow completes. A fault at an element completes those below it, leaves it and those above, and saves its index as FVRI. -/
def Obligations.VectorMemory : Prop :=
  ∀ (s : State) (t : SThr) (q : DRef) (m : VMode) (ew : Fin 4) (f : Fin 16) (z base : Fin 32) (ev : List HwEv), s.mapsOk → s.SparReady t q vxv →
    s.sparGoes t q ev = true →
    let k := sthKey t
    let n := 2 ^ ew.val
    let g := s.sparSeen t q ev
    let w := s.sparWriter k q
    let zi := match m with
      | .indexed r => s.zreg k r.val
      | _ => 0
    let ea := fun (i : Nat) => s.vaddr k m zi n (s.ireg k base.val) i
    let on := s.lanes k n f.val
    let goes := fun (st : Bool) (i : Nat) => g.sparAddr st (ea i) n = none ∧ (getBits (ea i) 48 16 = 1 → g.cline = [])
    let got := fun (i : Nat) => leNat (if getBits (ea i) 48 16 = 0 then (List.range n).map (fun j => g.cByte (getBits (ea i) 0 48 + j))
      else if getBits (ea i) 48 16 = 1 then g.rdBytes (getBits (ea i) 0 48) n else g.spadRead (getBits (ea i) 40 5) (getBits (ea i) 0 25) n)
    let data := fun (i : Nat) => leBytes n (zget (s.zreg k z.val) n i)
    (∀ (st : Bool) (v : State), on.foldl (fun r i => match r with
        | .ok x => x.vaccess k w st z.val n i (x.vaddr k m zi n (s.ireg k base.val) i)
        | .error e => .error e) (.ok g : Except SRes State) = .ok v →
      exec (.vectorLoadStore t st m ew f z base ev) s
        = .next ((v.updSth k (fun x => { x with vri := 0, wait := .access })).sparEnd t q))
    ∧ ((∀ i ∈ on, goes false i) →
      ∃ u, exec (.vectorLoadStore t false m ew f z base ev) s = .next u ∧ g.OnlySpar u t
        ∧ (∀ i, i < 512 / n → zget (u.zreg k z.val) n i = if i ∈ on then got i else zget (s.zreg k z.val) n i)
        ∧ (∀ r, r ≠ z.val → u.zreg k r = s.zreg k r)
        ∧ u.sth k = { s.sth k with z := (u.sth k).z, vri := 0, wait := .access, pc := (s.sth k).pc + 4 })
    ∧ ((∀ i ∈ on, g.sparAddr true (ea i) n = none ∧ getBits (ea i) 48 16 = 2) →
      ∃ u, exec (.vectorLoadStore t true m ew f z base ev) s = .next u ∧ u = { g with spad := u.spad, spar := u.spar }
        ∧ u.spad = on.foldl (fun x i => memWrite x (spadKey (getBits (ea i) 40 5) (getBits (ea i) 0 25)) (data i)) g.spad
        ∧ u.sth k = { s.sth k with vri := 0, wait := .access, pc := (s.sth k).pc + 4 })
    ∧ (∀ e c, e ∈ on → (s.sth k).fvec ≠ 0 → (s.sth k).inh = false → g.sparAddr false (ea e) n = some c → c ≠ 0 → c ≠ 0x1101 →
      (∀ i ∈ on, i < e → goes false i) →
      ∃ u, exec (.vectorLoadStore t false m ew f z base ev) s = .next u ∧ g.OnlySpar u t
        ∧ (∀ i, i < 512 / n → zget (u.zreg k z.val) n i = if i ∈ on ∧ i < e then got i else zget (s.zreg k z.val) n i)
        ∧ u.sth k = { s.sth k with
            z := (u.sth k).z, fret := (s.sth k).pc, fcode := c, fdata := BitVec.ofNat 64 (ea e), fspan := (s.sth k).vspan, fvri := e, vri := 0, inh := true, pc := (s.sth k).fvec })

/-! ## Sparse factor engines (chapter 08) -/

/-- R268: the filled pattern of a pattern that keeps R264 is symmetric, holds the matrix pattern, holds (I, J) wherever it holds (I, K) and
(K, J) for some K below both, and is the least such pattern; it holds each block once, SOL_CTX1.BF counts them, and the parent of K in the elimination
tree is the smallest J > K with (J, K) in it. -/
def Obligations.FilledPattern : Prop :=
  ∀ (nb : Nat) (rowptr colidx : List Nat), patternOk nb rowptr colidx = true →
    let F := fillOf nb rowptr colidx
    (∀ i j, (i, j) ∈ F → (j, i) ∈ F ∧ i < nb ∧ j < nb)
    ∧ (∀ i j, i < nb → inPat rowptr colidx i j = true → (i, j) ∈ F)
    ∧ (∀ i j k, k < i → k < j → (i, k) ∈ F → (k, j) ∈ F → (i, j) ∈ F)
    ∧ (∀ G : Nat → Nat → Prop, (∀ i j, i < nb → inPat rowptr colidx i j = true → G i j ∧ G j i) →
      (∀ i j k, k < i → k < j → G i k → G k j → G i j) → ∀ i j, (i, j) ∈ F → G i j)
    ∧ F.Nodup
    ∧ (∀ c : SolCtx, c.fill = F → F.length < 2 ^ 31 → c.colidx.length < 2 ^ 32 → getBits (solCtxWord (some c) 1).toNat 32 31 = F.length)
    ∧ (∀ k j, parentOf F k = some j ↔ k < j ∧ (j, k) ∈ F ∧ ∀ j', k < j' → (j', k) ∈ F → j ≤ j')
    ∧ (∀ k, parentOf F k = none ↔ ∀ j, k < j → (j, k) ∉ F)

/-- R260 to R263, R270, R272, R274: the four engine descriptors complete with the status and cause that their rules give, beside the engine in RESULT. SF_STRUCT loads a fresh pattern with no
value set and FVALID 0, keeps an identical one, narrows to a pattern it held, rebuilds with REBUILD, and changes nothing where the digest or the pattern mismatches; SF_FREE
ends residence; SF_REFACTOR starts, and leaves the fed values and their factor, with FVALID and the cause that the pivots give, or on a bad feed only its cause. A
descriptor that breaks a rule of its fields changes no context. -/
def Obligations.FactorEngines : Prop :=
  ∀ (s : State) (rg : Fin 64) (c : Nat) (x : InDesc) (e : Nat) (ev : List HwEv),
    let d : DRef := .ring rg c
    let old := SM.getD emptySol s.live.sol e
    let ends := fun (i : Instr) (y : InDesc) (cause : Nat) (sol : SolCtx) => ∃ t, exec i s = .next t
      ∧ t.Finished d y (if cause = 0 then 0 else 0x0204) (cause ||| e <<< 16) ∧ SM.getD emptySol t.live.sol e = sol
      ∧ t.comm = s.comm ∧ t.spad = s.spad ∧ t.sq = s.sq
    (s.SolverStarts d x 0x200 e → s.structFault x.raw = none → (s.hwEvs (s.writer d 0).tag ev).2 = true →
      let z := (s.hwEvs (s.writer d 0).tag ev).1
      let nb := getBits (dArg x.raw 2) 0 24
      let bsc := getBits (dArg x.raw 2) 24 3
      let rp := z.rdWords (dArg x.raw 0) (nb + 1)
      let ci := z.rdWords (dArg x.raw 1) (rp.getLastD 0)
      let dig := patternDigest nb (2 ^ bsc) rp ci
      let fresh := freshSol nb bsc rp ci dig
      let same := old.resident = true ∧ old.nb = nb ∧ old.bsc = bsc
      let sub := ∀ i < nb, ∀ j ∈ rowCols rp ci i, inPat old.rowptr old.colidx i j = true
      let checked := (dArg x.raw 2).testBit 28 = true → leNat (z.rdBytes (dProg x.raw + 56) 8) = dig.toNat
      (checked → same → old.rowptr = rp → old.colidx = ci → z.RecGoes d e → ends (.sfStruct d ev) x 0 old)
      ∧ (∀ new v, checked →
        (old.resident = false ∧ new = fresh)
          ∨ (same ∧ ¬ (old.rowptr = rp ∧ old.colidx = ci) ∧ sub ∧ new = { old with fvalid := false, vals := old.vals.filter (fun p =>
              inPat rp ci (p.1 / 2 ^ 28 / 2 ^ bsc) (p.1 % 2 ^ 28 / 2 ^ bsc)) })
          ∨ (old.resident = true ∧ ¬ (same ∧ sub) ∧ ¬ (same ∧ old.rowptr = rp ∧ old.colidx = ci) ∧ (dArg x.raw 2).testBit 27 = true ∧ new = fresh) →
        z.wsWritten d e new = .ok v → v.RecGoes d e → ends (.sfStruct d ev) x 0 new)
      ∧ (¬ checked → (old.resident = false ∨ (same ∧ sub) ∨ (same ∧ old.rowptr = rp ∧ old.colidx = ci) ∨ (dArg x.raw 2).testBit 27 = true) → z.RecGoes d e →
        ends (.sfStruct d ev) x 0x0806 old)
      ∧ (old.resident = true → ¬ (same ∧ sub) → ¬ (same ∧ old.rowptr = rp ∧ old.colidx = ci) → (dArg x.raw 2).testBit 27 = false → z.RecGoes d e →
        ends (.sfStruct d ev) x 0x0805 old))
    ∧ (s.SolverStarts d x 0x203 e → s.freeFault x.raw = none → s.RecGoes d e →
      ends (.sfFree d) x 0 { old with resident := false, fvalid := false })
    ∧ (∀ (i : Instr) (op : Nat) (chk : Option Nat) (run : Bool) (cause : Nat), s.SolverStarts d x op e →
      (i, op, chk) ∈ [(.sfStruct d ev, 0x200, s.structFault x.raw), (.sfRefactor d run ev, 0x201, s.refactorFault x.raw),
        (.sfSolve d run ev, 0x202, s.solveFault x.raw), (.sfFree d, 0x203, s.freeFault x.raw)] →
      chk = some cause → cause ≠ 0 → (s.engAccess e true false (dProg x.raw) 64).isSome = true ∨ s.RecGoes d e → ends i x cause old)
    ∧ (s.SolverStarts d x 0x201 e → s.refactorFault x.raw = none →
      ∃ t, exec (.sfRefactor d false ev) s = .next t ∧ t.desc? d = some { x with st := .running, left := 0 } ∧ (t.engRec e).run = some d
        ∧ (t.engRec e).deadline = dDeadline x.raw ∧ t = { s with descs := t.descs, eng := t.eng })
    ∧ (∀ (b : State) (y : InDesc),
      (s.SolverStarts d x 0x201 e ∧ s.refactorFault x.raw = none ∧ b = s.onEngine d x e ∧ y = { x with st := .running, left := 0 })
        ∨ (s.SolverRuns d x 0x201 e ∧ b = s ∧ y = x) →
      b.engGoes d ev = true →
      let g := b.engSees d e ev
      let c0 := if (dArg x.raw 1).testBit 32 then { g.1 with vals := [] } else g.1
      (∀ vals v, applyFeed c0 (g.2.feed x.raw g.1.bsc) c0.vals = .ok vals →
        let an := anormOf vals
        let pt := (pivtolOf (dArg x.raw 2)).getD .zero
        let f := factor { c0 with vals := vals } (tauOf pt an) ((dArg x.raw 3).testBit 2)
        let cause := match f.stop with
          | some q => q.cause
          | none => if f.marks.any (fun m => m.2 = 1) then 0x080B else if f.marks ≠ [] then 0x080A else 0
        let new := { c0 with
          vals := vals, fac := f.f, marks := f.marks, fvalid := f.stop.isNone, anorm := BitVec.ofNat 64 (Fp.encode .fp64 an),
          tau := BitVec.ofNat 64 (Fp.encode .fp64 (tauOf pt an)), pivtol := BitVec.ofNat 64 (Fp.encode .fp64 pt) }
        g.2.wsWritten d e new = .ok v → v.RecGoes d e → ends (.sfRefactor d true ev) y cause new)
      ∧ (∀ cause i j, applyFeed c0 (g.2.feed x.raw g.1.bsc) c0.vals = .error (cause, i, j) → g.2.RecGoes d e →
        ends (.sfRefactor d true ev) y cause old))

/-- R280, R281, R282: an SF_SOLVE leaves in X, column by column, the best iterate of its refinement, and B as it was; it completes with OK where every column met
RTOL, else with NO_CONVERGE, and with NAN_TRAP where NaN watch is on and it wrote a NaN. One that only starts holds its engine. A descriptor that runs past its deadline completes with DEADLINE; after an SF_REFACTOR FVALID is 0. -/
def Obligations.SolvesAndDeadlines : Prop :=
  (∀ (s : State) (rg : Fin 64) (c : Nat) (x : InDesc) (e : Nat) (ev : List HwEv),
    let d : DRef := .ring rg c
    (s.SolverStarts d x 0x202 e → s.solveFault x.raw = none →
      ∃ t, exec (.sfSolve d false ev) s = .next t ∧ t.desc? d = some { x with st := .running, left := 0 } ∧ (t.engRec e).run = some d
        ∧ (t.engRec e).deadline = dDeadline x.raw ∧ t = { s with descs := t.descs, eng := t.eng })
    ∧ (∀ (b : State) (y : InDesc),
      (s.SolverStarts d x 0x202 e ∧ b = s.onEngine d x e ∧ y = { x with st := .running, left := 0 }) ∨ (s.SolverRuns d x 0x202 e ∧ b = s ∧ y = x) →
      s.memOk → s.solveFault x.raw = none → b.engGoes d ev = true →
      let g := b.engSees d e ev
      let n := SolN g.1
      let k := solNrhs x.raw
      let rtole := getBits (dArg x.raw 3) 12 8
      let rtol : Fp.Val := .fin false 1 (-(((if rtole = 0 then 50 else rtole) : Nat) : Int))
      let cols := (solCols (dArg x.raw 0) k n).map (fun p => (chunks 8 n (g.2.rdBytes p.1 p.2)).map (fun b => Fp.decode .fp64 (leNat b)))
      let zs := cols.map (refine g.1 (getBits (dArg x.raw 3) 8 4) rtol)
      let outs := ((solCols (dArg x.raw 1) k n).zip zs).map (fun p =>
        (p.1.1, p.2.best.flatMap (fun v => leBytes 8 (Fp.encode .fp64 v))))
      let w := g.2.writer d (0x80 + e)
      let trap := s.flag fNANWATCH = true ∧ ∃ z ∈ zs, z.nanAt ≠ []
      let conv := zs.all (fun z => match Fp.cmp z.pbest rtol with
        | some i => decide (i ≤ 0)
        | none => false)
      let it := zs.foldl (fun m z => max m z.it) 0
      ∀ s1 s2, g.2.writes w outs = .ok s1 → s1.openWrite w (dArg x.raw 2) (2 * k * ((8 * n + 31) / 32 * 32)) = .ok s2 → s2.RecGoes d e →
        ∃ t, exec (.sfSolve d true ev) s = .next t
          ∧ (trap → t.Finished d y 0x0201 (e <<< 16 ||| it <<< 24))
          ∧ (¬ trap → t.Finished d y (if conv then 0 else 0x0204) ((if conv then 0 else 0x080F) ||| e <<< 16 ||| it <<< 24))
          ∧ (∀ a, a < dProg x.raw ∨ dProg x.raw + 64 ≤ a → SM.getD 0 t.mem a = SM.getD 0 s2.mem a)
          ∧ SM.getD emptySol t.live.sol e = SM.getD emptySol s.live.sol e ∧ t.comm = s.comm ∧ t.spad = s.spad))
  ∧ (∀ (s : State) (e : Fin 4) (rg : Fin 64) (c : Nat) (x : InDesc), (s.engRec e.val).run = some (.ring rg c) →
    s.desc? (.ring rg c) = some x → x.step ≠ 0 → (s.engRec e.val).deadline ≠ 0 → SM.Sorted s.live.sol → SM.Sorted s.eng →
    (s.engRec e.val).start.toNat + (s.engRec e.val).deadline ≤ s.fld fBEATCNT →
    (∀ u, s.missed e.val (.ring rg c) x.raw = some u →
      ∃ it, exec (.deadlineMiss e) s = .next u ∧ u.Finished (.ring rg c) x 0x0203 (e.val <<< 16 ||| it <<< 24)
        ∧ it ≤ getBits (dArg x.raw 3) 8 4 ∧ (dOp x.raw ≠ 0x202 → it = 0) ∧ u.comm = s.comm ∧ u.spad = s.spad
        ∧ (dOp x.raw = 0x201 → (SM.getD emptySol u.live.sol e.val).fvalid = false))
    ∧ (s.missed e.val (.ring rg c) x.raw = none → ∃ u, exec (.deadlineMiss e) s = .next u ∧ u = { s with eng := u.eng } ∧ (u.engRec e.val).run = some (.ring rg c)))

/-! ## Node memory, unit health and links (chapters 01, 09, 10 and 16) -/

/-- R292, R293: the address map is one to one in both layouts: each stack-local address of each stack is the place of exactly one node address,
which the map gives back, and a 4 KiB page lies within one stack. The two worked places of one address, with and without SPREAD.

R300: the decoder corrects any error confined to one symbol: it names the symbol and the difference.

R18, R297, R301, R302, R303, R307, R308: a refresh and a clean scrub read change nothing; a corrected one writes the corrected sector back and
reports it to the unit ledger; one that no code corrects writes nothing. A transfer repeats while its parity fails, at most three times, and counts. A die-to-die retry changes nothing but the unit's history and the map. A
sensor reading sets each tile's floor: rows 1 to 4 from 89, 91, 93 and 95 °C of its stack, each left 2 °C lower. -/
def Obligations.MemoryMapAndCode : Prop :=
  (
  ∀ s : State,
    (∀ k l, k < 32 → l < 2 ^ 34 → s.addrOf k l < 2 ^ 39 ∧ s.stackOf (s.addrOf k l) = k)
    ∧ (∀ k l k' l', k < 32 → k' < 32 → l < 2 ^ 34 → l' < 2 ^ 34 → s.addrOf k l = s.addrOf k' l' → k = k' ∧ l = l')
    ∧ (∀ a, a < 2 ^ 39 → s.stackOf a < 32 ∧ s.stackOf a = s.stackOf (a / 4096 * 4096))
    ∧ s.mapAddress 0x1234567A40 = (if (s.fld fSPREAD).testBit 8 then ⟨29, 21, 6, 0x209A, 0x040⟩ else ⟨4, 22, 27, 0x2345, 0x140⟩)
  ) ∧ (
  ∀ (w : List Nat) (i d : Nat), w.length = 36 → (∀ c ∈ w, c < 256) → syndromes w = [0, 0, 0, 0] → i < 36 → 0 < d → d < 256 →
    rsDecode (w.modify i (· ^^^ d)) = .fix i d
  ) ∧ (
  (∀ (s : State) (k c b : Fin 32), exec (.bankRefresh k c b) s = .next s)
  ∧ (∀ (s : State) (k : Fin 32) (sector : Nat) (tries : List Burst) (b : Burst) (bond : Option (Fin 4224)) (copy : Option (ImgTag × Nat)),
    s.pw.booting = false → s.fld fPWRSTATE = 0 → sector < 2 ^ 29 → handedOn tries = some b →
    let w := burstWord b
    let tag := (s.steps.head?.map (·.tag)).getD 0
    let z := if parityFails tries = 0 then s else (s.hwEv tag (.parity k tries bond)).1
    (burstOk b = true → ∀ l, handedOn (b :: l) = some b ∧ parityFails (b :: l) = 0)
    ∧ (s.mapsOk → z.mem = s.mem ∧ z.spad = s.spad ∧ z.fld (fPARRETRY k) = min (2 ^ 32 - 1) (s.fld (fPARRETRY k) + min (parityFails tries) 3))
    ∧ (rsDecode w = .clean → exec (.patrolScrubRead k sector tries bond copy) s = .next z)
    ∧ (∀ pos d, rsDecode w = .fix pos d → ∃ t, exec (.patrolScrubRead k sector tries bond copy) s = .next t
      ∧ t.mem = memWrite s.mem (s.addrOf k.val (32 * sector)) (((w.modify pos (· ^^^ d)).take 32).map (BitVec.ofNat 8))
      ∧ t.spad = s.spad ∧ t.steps = s.steps ∧ t.comm = s.comm ∧ t.live = s.live)
    ∧ (rsDecode w = .lost → ∃ t, exec (.patrolScrubRead k sector tries bond copy) s = .next t ∧ t.mem = s.mem ∧ t.spad = s.spad ∧ t.comm = s.comm))
  ∧ (∀ (s : State) (l : Fin 26) (dir : Fin 2) (wire : Fin 1056) (sec : Nat), (l.val < 24 ∨ wire.val < 528) →
    ∃ t, exec (.d2dParityRetry l dir wire sec) s = .next t ∧ t.mem = s.mem ∧ t.spad = s.spad ∧ t.steps = s.steps ∧ t.comm = s.comm
      ∧ t.live = s.live ∧ t.descs = s.descs)
  ∧ (∀ (s : State) (x : Temps), ∃ t, exec (.thermalSensorRead x) s = .next t ∧ t.temps = x ∧ t.mem = s.mem ∧ t.spad = s.spad ∧ t.steps = s.steps
      ∧ t.descs = s.descs
      ∧ (s.mapsOk → SM.Sorted s.pw.levels → (∀ k, SM.getD 0 s.pw.levels k = 0) → (∀ j ∈ x.tileJ, j < 100) →
        ∀ k, k < 32 → let c := (x.stack.getD k []).foldl max 0
          t.fld (fFLOOR k) = if 95 ≤ c then 4 else if 93 ≤ c then 3 else if 91 ≤ c then 2 else if 89 ≤ c then 1 else 0))
  ∧ (∀ old c : Nat, old ≤ 4 → thermRow stackRows old c
      = if 95 ≤ c ∨ old = 4 ∧ 93 < c then 4 else if 93 ≤ c ∨ 3 ≤ old ∧ 91 < c then 3 else if 91 ≤ c ∨ 2 ≤ old ∧ 89 < c then 2
        else if 89 ≤ c ∨ 1 ≤ old ∧ 87 < c then 1 else 0)
  )

/-- R503, R505, R511, R512, R520, R522, R526, R527: an event flags the node and leaves memory and steps alone; a second one within 10^6 steps makes its unit
permanent and writes a map entry. A margin test that ends clears RUN, records its result and wipes the scratchpads and its working group; a digest record joins those
held, one that is held already or of a comparison that is over does not, and the last one of an agreeing group sets AGREE. -/
def Obligations.UnitHealth : Prop :=
  (∀ (s : State) (src : Nat) (u : UnitId) (role : Bool) (us : List (UnitId × Bool)), s.mapsOk →
    let t := s.event src ((u, role) :: us)
    t.flag fSUSPECT = true ∧ t.flag fFLAGGED = true ∧ t.faultN = true ∧ t.mem = s.mem ∧ t.spad = s.spad ∧ t.steps = s.steps)
  ∧ (∀ (s : State) (src : Nat) (e : LedEnt) (role : Bool) (h : BitVec 64), e ∈ s.part.ledger → s.part.ledger.find? (fun x => x.unit = e.unit) = some e →
    e.hist = [(0, h)] → (s.word 0x90008).toNat ≤ h.toNat + 1000000 → s.stepOpen = false → s.part.mramMap.length < 1024 → e.mapped = false →
    let t := s.ledger 0 src e.unit role
    ∃ y, t.part.ledger.find? (fun x => x.unit = e.unit) = some y ∧ y.cls = 2 ∧ y.mapped = true ∧ y.events = min 255 (e.events + 1)
      ∧ ∃ m, t.part.mramMap = s.part.mramMap ++ [m] ∧ t.mem = s.mem ∧ t.steps = s.steps)
  ∧ (∀ (s : State) (p : BitVec 8) (fails again : List UnitId), s.mapsOk → s.flag fMRUN = true → p.toNat = s.fld fMPROF → (∀ u ∈ again, u ∈ fails) →
    ∃ t, exec (.marginTestDone p fails again) s = .next t ∧ t.flag fMRUN = false ∧ t.fld fMRES = (if again = [] then 1 else 2) ∧ t.spad = []
      ∧ t.mem = s.mem.filter (fun c => decide (some (groupOf c.1) ≠ (s.groupsOf 0).head?)) ∧ t.comm = s.comm ∧ t.descs = s.descs)
  ∧ (∀ (s : State) (r : DigRec),
    let z := s.arrived (.digest r)
    let dup := s.rec_.digRecs.any (fun x => x.idx = r.idx ∧ x.group = r.group ∧ x.tag = r.tag)
    let key := (r.group, r.tag)
    let size := fun (g : Nat) => (SM.getD applyTr.emptyGroup s.comm.groups g).members.length
    let recs := s.rec_.digRecs ++ [r]
    (dup = true ∨ (key ∉ s.rec_.digGroups ∧ r.tag.toNat ≤ s.comm.lastTag.toNat) → exec (.digestRecord r) s = .next z)
    ∧ (dup = false → key ∈ s.rec_.digGroups ∨ s.comm.lastTag.toNat < r.tag.toNat →
      ((∀ k ∈ s.rec_.digGroups, (recs.filter (fun x => (x.group, x.tag) = k)).length < size k.1) →
        exec (.digestRecord r) s = .next { z with rec_ := { z.rec_ with digRecs := recs } })
      ∧ (let mine := recs.filter (fun x => (x.group, x.tag) = key)
        s.rec_.digGroups = [key] → size r.group ≤ mine.length → s.mapsOk → s.ckpt = none → (∀ x ∈ mine, x.mask = r.mask ∧ x.vals = r.vals) →
        (∀ w ∈ setBits 64 r.mask.toNat, (r.vals.find? (fun v => v.1 = w)).isSome = true) →
        ∃ t, exec (.digestRecord r) s = .next t ∧ t.fld fDIGSTAT = 1 ∧ t.rec_.digGroups = []
          ∧ t.rec_.digRecs = recs.filter (fun x => decide ((x.group, x.tag) ≠ key)) ∧ t.mem = s.mem ∧ t.steps = s.steps)))

/-- R329, R331, R334, R336, R337, R341, R343, R354: a flit that passes its CRC and comes in sequence is accepted: the expected SEQ moves on, what it acknowledges is free, its packets for
this node and job enter, and a data flit is acknowledged; one out of sequence, or that fails its CRC, or whose codeword has more than 15 wrong symbols, is dropped and answered with a NAK
while the retry buffer has room. Too many lost codewords take the port DOWN. With no acknowledgement every flit kept goes out again with its SEQ (what else a replay carries: log entry 47), the eighth time in a row the port goes DOWN. The switch moves
the first packet of a channel whose port has the credits; one for the node itself stays in the package; one that waits for credits is counted.

R324, R327, R328, R341, R343, R344, R346, R347, R606: a fault takes a port DOWN, puts its unacknowledged packets back ahead of the waiting ones, and starts a fast
retrain from the stored coefficients unless lanes of both halves failed; its end makes the port UP on the good half, or leaves it DOWN with the trigger 0x002. A peer's notice (of the node's own job) and the end of a
suspension touch the timers of remote operations alone. A SETUP trains a DOWN port; training ends UP at the highest generation of both ends, or after the third failed equalisation one generation lower. -/
def Obligations.LinksAndPorts : Prop :=
  (
  ∀ (s : State) (p : Fin 16), SM.Sorted s.ports →
    let x := s.port p.val
    (∀ (now : Nat) (errs : List (Fin 544)) (align : BitVec 20) (f : Flit), x.st = .up → ∃ t, exec (.flitReceive p now errs align f) s = .next t
      ∧ t.mem = s.mem ∧ t.spad = s.spad ∧ t.steps = s.steps ∧ t.comm = s.comm
      ∧ (let late := (x.uncor.filter (fun u => decide (now < u + 1000000000))) ++ [now]
        let lost := 16 < late.length ∨ 32 ≤ (late.filter (fun u => decide (now < u + 1000))).length
        15 < errs.length → (lost → (t.port p.val).st = .down)
          ∧ (¬ lost → (t.port p.val).st = .up ∧ (t.port p.val).rxSeq = x.rxSeq ∧ (t.port p.val).rx = x.rx ∧ (t.port p.val).uncor = late))
      ∧ (errs.length ≤ 15 → f.crcOk = false ∨ f.seq ≠ x.rxSeq → (t.port p.val).rxSeq = x.rxSeq ∧ (t.port p.val).rx = x.rx)
      ∧ (errs.length ≤ 15 → f.crcOk = true → f.seq ≠ x.rxSeq →
        (x.retry.length < 512 → ∃ g, t.out = s.out ++ [.flit p.val g] ∧ g.nak = true ∧ g.kind = 1 ∧ g.seq = x.txSeq ∧ g.crcOk = true
          ∧ (t.port p.val).retry = x.retry ++ [(g, 0)])
        ∧ (512 ≤ x.retry.length → t.out = s.out ∧ (t.port p.val).nakDue = true))
      ∧ (errs.length ≤ 15 → f.crcOk = true → f.seq = x.rxSeq → f.nak = false →
        let kept := match firstIdx (fun g => g.1.seq == f.ack) x.retry with
          | some i => x.retry.drop (i + 1)
          | none => x.retry
        (t.port p.val).rxSeq = (f.seq + 1) % 4096
        ∧ (f.kind = 1 → errs = [] → x.due = [] → x.ackDue = false → x.nakDue = false →
          (t.port p.val).retry = kept ∧ (t.port p.val).txSeq = x.txSeq ∧ (t.port p.val).rx = x.rx ∧ (∀ q, q ≠ p.val → t.port q = s.port q)
            ∧ t = { s with ports := t.ports })
        ∧ (f.kind = 0 → x.due = [] → kept.length < 512 → (∀ k ∈ f.body, k.job.toNat = s.fld fJOBSTAMP ∧ k.pkt.ports = 0xFFFF ∧ k.pkt.dst.toNat = s.fld fNODEID) →
          errs = [] → ∃ g, (t.port p.val).rx = x.rx ++ f.body.map (·.pkt) ∧ t.out = s.out ++ [.flit p.val g] ∧ g.kind = 1 ∧ g.ack = f.seq % 4096
            ∧ (t.port p.val).retry = kept ++ [(g, 0)] ∧ t = { s with ports := t.ports, out := t.out })))
    ∧ (x.st = .up → x.retry ≠ [] → ∃ t, exec (.flitAckTimeout p) s = .next t ∧ t.mem = s.mem ∧ t.spad = s.spad ∧ t.steps = s.steps
      ∧ ((∃ f ∈ x.retry, 7 ≤ f.2) → (t.port p.val).st = .down)
      ∧ ((∀ f ∈ x.retry, f.2 < 7) →
        let again := x.retry.map (fun f => (Flit.sealed { f.1 with ack := (x.rxSeq + 4095) % 4096, nak := x.nakDue }, f.2 + 1))
        again.map (·.1.seq) = x.retry.map (·.1.seq) ∧ t.out = s.out ++ again.map (fun f => .flit p.val f.1)
          ∧ (t.port p.val).retry = again ∧ t = { s with ports := t.ports, out := t.out, regs := t.regs }))
    ∧ (∀ (vc : Fin 8) (room : Bool) (n : Nat) (k : Packet), s.portQ.find? (fun k => k.vc = vc.val) = some k →
      (∀ k' u, s.ownPacket vc.val = some k' → State.deliverSelf { s with portQ := s.portQ.erase k' } k'.body = some u →
        exec (.packetSend vc ⟨room, n⟩) s = .next u
          ∧ ∀ r, k'.body = .req r → r.job.toNat = s.fld fJOBSTAMP → u = State.takeRequest { s with portQ := s.portQ.erase k' } 0 r)
      ∧ (s.ownPacket vc.val = none →
        (∀ q, s.upFor k = [q] → (s.port q).takes k = true → s.firstGo vc.val s.portQ [] = some (k, q))
        ∧ (s.firstGo vc.val s.portQ [] = none → ∃ t, exec (.packetSend vc ⟨room, n⟩) s = .next t ∧ t = { s with regs := t.regs }
          ∧ (s.starved vc.val = [] → t = s))
        ∧ (∀ k q, s.firstGo vc.val s.portQ [] = some (k, q) →
          (s.outranked q vc.val = true ∨ (s.fld ⟨0x20010, 0, 12⟩ ≠ 0 ∧ room = false) → exec (.packetSend vc ⟨room, n⟩) s = .next s)
          ∧ (s.outranked q vc.val = false → s.fld ⟨0x20010, 0, 12⟩ = 0 ∨ room = true →
            exec (.packetSend vc ⟨room, n⟩) s = .next ((State.sendPacket { s with portQ := s.portQ.erase k } q k).collLeft k.body)
            ∧ (0 < k.len → k.len ≤ 628 → (∀ a h b, k.body ≠ .coll a h b) →
              ∃ t f, exec (.packetSend vc ⟨room, n⟩) s = .next t ∧ t.portQ = s.portQ.erase k ∧ t.out = s.out ++ [.flit q f]
                ∧ f.body = [⟨k, BitVec.ofNat 16 (s.fld fJOBSTAMP)⟩] ∧ f.seq = (s.port q).txSeq ∧ f.kind = 0 ∧ f.crcOk = true
                ∧ (t.port q).retry = (s.port q).retry ++ [(f, 0)] ∧ (∀ j, j ≠ q → t.port j = s.port j)
                ∧ t = { s with ports := t.ports, portQ := t.portQ, out := t.out })))))
  ) ∧ (
  ∀ (s : State) (p : Fin 16), SM.Sorted s.ports →
    let x := s.port p.val
    (∀ lanes : BitVec 8, x.st = .up →
      ∃ t, exec (.laneLockLost p lanes) s = .next t ∧ (t.port p.val).st = .down ∧ t.mem = s.mem ∧ t.spad = s.spad ∧ t.steps = s.steps
        ∧ (t.port p.val).fail = x.fail ||| lanes
        ∧ (bothHalves (x.fail ||| lanes) = true → (t.port p.val).fast = none)
        ∧ (bothHalves (x.fail ||| lanes) = false → ∃ n, (t.port p.val).fast = some x.coefs
          ∧ t.portQ = (x.retry.flatMap (fun f => f.1.body.map Sent.pkt)).map markReplay ++ s.portQ ++ n
          ∧ (∀ k ∈ n, k.vc = 4) ∧ t = { s with ports := t.ports, portQ := t.portQ, remote := t.remote }))
    ∧ (x.st = .down → x.fast.isSome = true →
      (∃ t, exec (.fastRetrainDone p) s = .next t ∧ (t.port p.val).st = .up ∧ (t.port p.val).fast = none
        ∧ (t.port p.val).width = (if x.fail = 0 then x.width else if x.fail.toNat % 16 = 0 then 1 else 2)
        ∧ t = { s with ports := t.ports, portQ := t.portQ, remote := t.remote })
      ∧ (∃ t, exec (.fastRetrainFail p) s = .next t ∧ (t.port p.val).st = .down ∧ (t.port p.val).fast = none
        ∧ t.mem = s.mem ∧ t.spad = s.spad ∧ t.steps = s.steps))
    ∧ (∀ (via : Fin 16) (job : BitVec 16) (node : BitVec 12) (up : Bool),
      let z := s.arrived (.portNotice p.val up)
      (job.toNat = s.fld fJOBSTAMP → ∃ t, exec (.portDownNotice ⟨via, job, node⟩ p up) s = .next t ∧ t = { z with remote := t.remote }
        ∧ t.remote.ops.map (fun o => { o with suspended := false }) = s.remote.ops.map (fun o => { o with suspended := false })
        ∧ t.remote = { s.remote with ops := t.remote.ops })
      ∧ (job.toNat ≠ s.fld fJOBSTAMP →
        exec (.portDownNotice ⟨via, job, node⟩ p up) s = .next ((z.incFld (fPcnt via.val 11)).fire 0x103 (0xA0 + via.val) (job.toNat <<< 16))))
    ∧ (∀ node : BitVec 12, s.remote.ops.any (fun o => o.req.dst = node && o.suspended) = true →
      ∃ t, exec (.tdeadSuspendEnd node) s = .next t ∧ t = { s with remote := { s.remote with ops := t.remote.ops } }
        ∧ ∀ o ∈ t.remote.ops, o.req.dst = node → o.suspended = false)
    ∧ (x.st = .training →
      (∀ (peer width : Fin 3) (delay : Nat) (coefs : List Nat),
        ∃ t, exec (.portTrainingDone p (.up peer width delay coefs)) s = .next t ∧ (t.port p.val).st = .up ∧ (t.port p.val).gen = min x.gen peer.val
          ∧ (t.port p.val).width = width.val ∧ (t.port p.val).fail = 0 ∧ (t.port p.val).coefs = coefs ∧ t.mem = s.mem ∧ t.steps = s.steps
          ∧ (s.pw.d0Wait = false → t = { s with ports := t.ports, portQ := t.portQ, remote := t.remote }))
      ∧ (∀ peer : Fin 3, ∃ t, exec (.portTrainingDone p (.eqFail peer)) s = .next t ∧ t.mem = s.mem ∧ t.steps = s.steps
          ∧ t.port p.val = (let g := min x.gen peer.val
            if x.eqFails < 2 then { x with gen := g, eqFails := x.eqFails + 1 }
            else if g = 0 then { x with st := .down, gen := 0, eqFails := 0 } else { x with gen := g - 1, eqFails := 0 })))
    ∧ (∀ (rg : Fin 64) (c : Nat) (y : InDesc), s.Startable (.ring rg c) y → dOp y.raw = 2 → y.step = 0 →
      let z := s.wakeSelf
      let st := (z.port p.val).st
      let locked := z.flag fJOBLOCK = true ∨ z.stepOpen = true
      let trains := z.portOn p.val = true ∧ (st = .down ∨ st = .standby ∨ (st = .up ∧ ¬ locked))
      ∃ t u : State, exec (.portTrainRequest (.ring rg c) p) s = .next t ∧ t.ports = u.ports
        ∧ (trains → u = z.train p.val ∧ u.ImmEnds t rg c y 0 0 ∧ (u.port p.val).st = .training ∧ (u.port p.val).gen = z.fld (fMAXGEN p.val))
        ∧ (¬ trains → u = z ∧ (z.portOn p.val = true ∧ st = .up → u.ImmEnds t rg c y 0x0107 0x1402)
          ∧ (¬ (z.portOn p.val = true ∧ st = .up) → u.ImmEnds t rg c y 0 0)))
  )

/-! ## Remote memory and collectives (chapters 11 and 12) -/

/-- R357 to R363, R368, R378, R379, R381: a remote operation that breaks no rule, whose target is not marked dead and for which an entry is free is sent to its target
with that target's next SEQ and holds an entry; a Spar thread that waits for a value in a register waits, any other goes on. With no entry free it waits. A write to a node marked
dead goes on and is kept for the next fence. RFENCE with nothing outstanding goes on
and else waits. A rule broken at issue is a restarting fault of a Spar thread, and stops a tile program. -/
def Obligations.RemoteIssue : Prop :=
  (∀ (s : State) (t : SThr) (q : DRef) (n : Nat) (row : RIssue → Instr), s.mapsOk → s.SparReady t q [10] →
    (row, n) ∈ [(Instr.rld, 0), (.rst, 1), (.rfst, 2), (.radd, 3), (.rmin, 4), (.rmax, 5), (.rfadd, 6), (.rfmin, 7), (.rfmax, 8), (.rcas, 9),
      (.rfence, 10)] →
    getBits t.word.toNat 17 4 = n → t.word.getLsbD 26 = false → getBits t.word.toNat 0 2 = 0 →
    let i := row (.spar t.core t.thr t.word)
    let c := s.sparCall t.core.val t.thr.val t.word.toNat q
    let dst := (s.raNode c.rem).getD 0
    (n ≠ 10 → s.callFault c = none → s.flag (fDead dst.toNat) = false →
      (s.callFull c dst = true → exec i s = .next s)
      ∧ (s.callFull c dst = false →
        ∃ u o, exec i s = .next u ∧ u.remote.ops = s.remote.ops ++ [o] ∧ o.req.rop = n ∧ o.req.dst = dst
          ∧ o.req.seq = (SM.getD 0 s.remote.seq dst.toNat + 1) % 2 ^ 32 ∧ o.req = s.request c dst o.req.seq
          ∧ u.portQ = s.portQ ++ [⟨0, dst, 0xFFFF, reqLen o.req, .req o.req⟩]
          ∧ u = { s with portQ := u.portQ, remote := u.remote, spar := u.spar, steps := u.steps }
          ∧ u.sth (sthKey t) = (if returns n then { s.sth (sthKey t) with wait := .remote }
              else { s.sth (sthKey t) with pc := (s.sth (sthKey t)).pc + 4 })))
    ∧ (n ≠ 10 → s.callFault c = none → s.flag (fDead dst.toNat) = true → returns n = false →
      ∃ u, exec i s = .next u ∧ u.remote = { s.remote with dead := s.remote.dead ++ [⟨c.by_, q, 0x0B01, BitVec.ofNat 64 c.rem⟩] }
        ∧ u.sth (sthKey t) = { s.sth (sthKey t) with pc := (s.sth (sthKey t)).pc + 4 }
        ∧ u = { s with remote := u.remote, spar := u.spar, steps := u.steps })
    ∧ (n = 10 → s.callFault c = none → s.opsOf c.by_ ≠ [] → exec i s = .next s)
    ∧ (n = 10 → s.callFault c = none → s.opsOf c.by_ = [] → s.remote.dead.find? (fun o => o.by_ = c.by_ ∧ o.desc = q) = none →
      exec i s = .next (s.sparNext t))
    ∧ (∀ x, s.callFault c = some x → (s.sth (sthKey t)).fvec ≠ 0 → (s.sth (sthKey t)).inh = false →
      exec i s = .next (s.sparFaulted t x (BitVec.ofNat 64 c.rem))))
  ∧ (∀ (s : State) (i : VxtIssue) (q : DRef) (n : Nat) (row : RIssue → Instr), s.CanIssue i q 0x60 →
    (row, n) ∈ [(Instr.rld, 0), (.rst, 1), (.rfst, 2), (.radd, 3), (.rmin, 4), (.rmax, 5), (.rfadd, 6), (.rfmin, 7), (.rfmax, 8), (.rcas, 9),
      (.rfence, 10)] →
    getBits i.word.toNat 8 4 = n →
    let z := s.issued i
    let c := (z.tileCall i q).1
    let dst := (z.raNode c.rem).getD 0
    (z.tileCall i q).2 = none →
    (n ≠ 10 → z.callFault c = none → z.flag (fDead dst.toNat) = false →
      (z.callFull c dst = true → exec (row (.tile i)) s = .next s)
      ∧ (z.callFull c dst = false →
        ∃ (u : State) (o : ROp), exec (row (.tile i)) s = .next (u.after i) ∧ u.remote.ops = z.remote.ops ++ [o] ∧ o.req.rop = n ∧ o.req.dst = dst
          ∧ o.req = z.request c dst o.req.seq ∧ u.portQ = z.portQ ++ [⟨0, dst, 0xFFFF, reqLen o.req, .req o.req⟩]
          ∧ u = { z with portQ := u.portQ, remote := u.remote, steps := u.steps }))
    ∧ (n = 10 → z.callFault c = none → z.opsOf c.by_ ≠ [] → exec (row (.tile i)) s = .next s)
    ∧ (n = 10 → z.callFault c = none → z.opsOf c.by_ = [] → z.remote.dead.find? (fun o => o.by_ = c.by_ ∧ o.desc = q) = none →
      exec (row (.tile i)) s = .next (z.after i))
    ∧ (∀ x, z.callFault c = some x →
      exec (row (.tile i)) s = .next (z.stopProgram i.tile.val i.thread.val q 0x0204 (x ||| i.tile.val <<< 16))))

/-- R341, R356, R362 to R367, R371 to R373, R375, R384: what a target does. A stranger, a packet for another node, one of another epoch and a duplicate have no
effect on memory and no answer; a window that does not allow the access is answered with its status; an allowed request waits at its stack, or in the combiner. The
atomic unit applies an operation to one sector at a time: it writes a store's bytes, and an RFST's flag word after them, or the new word of an atomic, or reads; the SEQ then counts as applied. The other bytes of memory stay.

R357, R358: the integer atomics on words: the sum modulo 2^32 or 2^64, the smaller and larger by the type's sign, and the compare-and-swap. -/
def Obligations.RemoteTarget : Prop :=
  (
  ∀ s : State,
    (∀ (p : Fin 16) (r : Request),
      let z := s.arrived (.req r)
      ((r.job.toNat ≠ s.fld fJOBSTAMP ∨ r.dst.toNat ≠ s.fld fNODEID) → ∃ u, exec (.remoteRequestReceive p r) s = .next u
        ∧ u.remote = s.remote ∧ u.portQ.filter (fun k => k.vc = 1) = s.portQ.filter (fun k => k.vc = 1) ∧ u.mem = s.mem)
      ∧ (r.job.toNat = s.fld fJOBSTAMP → r.dst.toNat = s.fld fNODEID →
        exec (.remoteRequestReceive p r) s = .next (z.takeRequest (p.val / 8) r)
        ∧ (r.epoch.toNat ≠ s.fld fEPOCH % 65536 → exec (.remoteRequestReceive p r) s = .next (z.incFld (fRmcnt 32)))
        ∧ (r.epoch.toNat = s.fld fEPOCH % 65536 → s.duplicate r = true → exec (.remoteRequestReceive p r) s = .next z)
        ∧ (r.epoch.toNat = s.fld fEPOCH % 65536 → s.duplicate r = false → ropOk r.rop r.size = true → r.rop ≠ 10 →
          (∀ st, s.translated r = .error st → st ≠ 0 → ∃ u, exec (.remoteRequestReceive p r) s = .next u
            ∧ u.portQ = s.portQ ++ [⟨1, r.src, 0xFFFF, 32, .resp ⟨false, r.rop, r.size, false, r.fadd, r.window, r.offset, r.tag,
                BitVec.ofNat 12 (s.fld fNODEID), r.src, BitVec.ofNat 16 (s.fld fJOBSTAMP), r.seq, 0, BitVec.ofNat 16 (s.fld fEPOCH), BitVec.ofNat 8 st,
                0, [], []⟩⟩]
            ∧ u = { z with portQ := u.portQ, remote := u.remote } ∧ u.remote.wait = s.remote.wait)
          ∧ (∀ a f, s.translated r = .ok (a, f) → s.pw.blks = [] → s.remote.wait = [] → s.remote.defers = [] → s.remote.comb = [] →
            (s.combines r a = false → ∃ u, exec (.remoteRequestReceive p r) s = .next u
              ∧ u = { z with remote := { s.remote with wait := [⟨s.stackOf a, a, f, r, [], false, dataSectors r a, []⟩] } })
            ∧ (s.combines r a = true → ∃ u, exec (.remoteRequestReceive p r) s = .next u
              ∧ u = { z with remote := { s.remote with comb := [⟨p.val / 8, a, r, []⟩] } })))))
    ∧ (∀ (k : Fin 32) (sector : Nat) (ev : List HwEv), (∃ t ∈ s.remote.wait, sector ∈ t.sectors) →
      (∃ u, exec (.atomicUnitApply k sector ev) s = .next u ∧ u.spad = s.spad)
      ∧ (s.pick k.val sector = none ∨ s.blkClosed k.val = true → exec (.atomicUnitApply k sector ev) s = .next s))
    ∧ (∀ (k : Fin 32) (r : Request) (a f : Nat) (left : List Nat) (read : List (Nat × List Byte)),
      let t : TOp := ⟨k.val, a, f, r, [], false, left, read⟩
      s.remote.wait = [t] → s.pw.blks = [] → s.remote.comb = [] →
      s.remote.defers = [] → (s.srcRec r.src.toNat).c + 1 = r.seq → (s.srcRec r.src.toNat).above = [] → r.seq < 2 ^ 31 → SM.Sorted s.remote.src →
      let n := opLen r.rop r.size
      let done := fun (u : State) => u.remote.wait = [] ∧ (u.srcRec r.src.toNat).has r.seq = true ∧ u.spad = s.spad ∧ u.descs = s.descs
      (∀ sec rest, left = sec :: rest → let p := inSector a n sec
        (r.rop = 0 → s.rdCheck p.1 p.2 = none →
          let got := read ++ [(sec, s.rdBytes p.1 p.2)]
          ∃ u, exec (.atomicUnitApply k sec []) s = .next u ∧ u = { s with portQ := u.portQ, remote := u.remote }
            ∧ (rest ≠ [] → u.portQ = s.portQ ∧ u.remote.wait = [{ t with left := rest, read := got }])
            ∧ (rest = [] → done u ∧ ∃ y, u.portQ = s.portQ ++ [⟨1, r.src, 0xFFFF, 32 + y.data.length, .resp y⟩] ∧ y.status = 0 ∧ y.seq = r.seq
              ∧ y.data = (dataSectors r a).flatMap (fun k => (got.filter (fun g => g.1 = k)).flatMap (·.2))))
        ∧ (r.rop = 1 ∨ r.rop = 2 → r.data.length = n → let bs := (r.data.drop (p.1 - a)).take p.2
          ∀ s', (s.joinStep r.tag).write ⟨r.tag, 0, 0, s.stackOf p.1, 0⟩ p.1 bs = .ok s' →
          ∃ u, exec (.atomicUnitApply k sec []) s = .next u ∧ u.mem = memWrite s.mem p.1 bs
            ∧ (rest ≠ [] ∨ r.rop = 2 → u.remote.wait = [{ t with left := rest }])
            ∧ (rest = [] → r.rop = 1 → done u))
        ∧ (3 ≤ r.rop → r.rop ≤ 9 → s.rdCheck a n = none →
          let w := (remoteNew r.rop r.size (leNat (s.rdBytes a n)) r.op1.toNat r.op2.toNat).1
          ∀ s', (s.joinStep r.tag).write ⟨r.tag, 0, 0, s.stackOf a, 1⟩ a (leBytes n w) = .ok s' →
          ∃ u, exec (.atomicUnitApply k sec []) s = .next u ∧ u.mem = memWrite s.mem a (leBytes n w) ∧ done u))
      ∧ (left = [] → r.rop = 2 → s.stackOf f = k.val →
        let w := if r.fadd then (leNat (s.rdBytes f 8) + r.fvalue.toNat) % 2 ^ 64 else r.fvalue.toNat
        ∀ s', (s.joinStep r.tag).write ⟨r.tag, 0, 0, s.stackOf f, 0⟩ f (leBytes 8 w) = .ok s' →
        ∃ u, exec (.atomicUnitApply k (f / 32) []) s = .next u ∧ u.mem = memWrite s.mem f (leBytes 8 w) ∧ done u))
    ∧ (∀ (k : Fin 32) (sector : Nat), s.remote.bufs.contains (k.val, sector) = true → exec (.sectorBufferWriteback k sector) s
      = .next { s with remote := { s.remote with bufs := s.remote.bufs.erase (k.val, sector) } })
    ∧ (∀ (fd : Fin 2) (e : CombEnt), s.remote.comb.find? (fun x => x.fd = fd.val && x.addr = e.addr) = some e →
      let defd := e.reqs.any (fun r => s.remote.defers.any (fun d => decide (d.1 = r.src.toNat) && decide (d.2.2 = r.seq)))
      exec (.combinerWindowClose fd e.addr) s = .next { s with remote := { s.remote with
        comb := s.remote.comb.erase e
        wait := s.remote.wait ++ [⟨s.stackOf e.addr, e.addr, 0, e.req, e.merged, defd, dataSectors e.req e.addr, []⟩] } })
    ∧ (∀ src : BitVec 12, (s.srcRec src.toNat).c ≠ (s.srcRec src.toNat).acked → SM.Sorted s.remote.src →
      ∃ u y, exec (.ack src) s = .next u ∧ u.portQ = s.portQ ++ [⟨1, src, 0xFFFF, 32, .resp y⟩] ∧ y.isAck = true
        ∧ y.cum = (s.srcRec src.toNat).c ∧ (u.srcRec src.toNat).acked = (s.srcRec src.toNat).c
        ∧ u = { s with portQ := u.portQ, remote := u.remote })
  ) ∧ (
  (∀ (m v x : BitVec 32) (rop : Nat), rop = 3 ∨ rop = 6 →
    (remoteNew rop 0 m.toNat v.toNat x.toNat).1 = (m + v).toNat ∧ (remoteNew rop 1 m.toNat v.toNat x.toNat).1 = (m + v).toNat)
  ∧ (∀ (m v x : BitVec 64) (rop : Nat), rop = 3 ∨ rop = 6 →
    (remoteNew rop 2 m.toNat v.toNat x.toNat).1 = (m + v).toNat ∧ (remoteNew rop 3 m.toNat v.toNat x.toNat).1 = (m + v).toNat)
  ∧ (∀ (m v x : BitVec 64) (rop : Nat), rop = 4 ∨ rop = 7 →
    (remoteNew rop 2 m.toNat v.toNat x.toNat).1 = (if v.ult m then v else m).toNat
    ∧ (remoteNew rop 3 m.toNat v.toNat x.toNat).1 = (if v.slt m then v else m).toNat)
  ∧ (∀ (m v x : BitVec 64) (rop : Nat), rop = 5 ∨ rop = 8 →
    (remoteNew rop 2 m.toNat v.toNat x.toNat).1 = (if m.ult v then v else m).toNat
    ∧ (remoteNew rop 3 m.toNat v.toNat x.toNat).1 = (if m.slt v then v else m).toNat)
  ∧ (∀ m v x : BitVec 64, (remoteNew 9 2 m.toNat v.toNat x.toNat).1 = (if m = v then x else m).toNat)
  ∧ (∀ m v x : BitVec 32, (remoteNew 9 0 m.toNat v.toNat x.toNat).1 = (if m = v then x else m).toNat)
  )

/-- R242, R341, R360, R361, R363, R364, R368, R373, R378, R379: what a source does with an answer. A load's data goes into its register, and its thread goes on, or to its local address; an ACK answers every
write up to its count; an answer of another epoch or for a SEQ no longer held is discarded; a DEFER leaves the operation to be sent again with its SEQ. When T_dead expires the
target is marked and the step fails its checks, and a Spar load into a register reads all ones and takes DEAD_TARGET at the next instruction; a masthead notes the loss and rolls the fleet back. -/
def Obligations.RemoteAnswers : Prop :=
  ∀ s : State, s.mapsOk →
    (∀ (p : Fin 16) (r : Response),
      ((r.job.toNat ≠ s.fld fJOBSTAMP ∨ r.dst.toNat ≠ s.fld fNODEID) → ∃ u, exec (.remoteResponseReceive p r) s = .next u
        ∧ u.remote = s.remote ∧ u.mem = s.mem ∧ u.spar = s.spar)
      ∧ (r.job.toNat = s.fld fJOBSTAMP → r.dst.toNat = s.fld fNODEID →
      (exec (.remoteResponseReceive p r) s = .next (if s.responseWaits r then s else (s.takeResponse r).arrived (.resp r)))
      ∧ (r.epoch.toNat ≠ s.fld fEPOCH % 65536 → exec (.remoteResponseReceive p r) s = .next (s.arrived (.resp r)))
      ∧ (r.epoch.toNat = s.fld fEPOCH % 65536 → r.isAck = false → s.opFor r.src r.seq = none →
        exec (.remoteResponseReceive p r) s = .next (s.arrived (.resp r)))
      ∧ (∀ (o : ROp) (t : SThr) (q : DRef) (x : InDesc), r.epoch.toNat = s.fld fEPOCH % 65536 → r.isAck = false → r.status = 0 → r.data.length = 8 →
        s.opFor r.src r.seq = some o → o.req.rop = 0 → o.req.size = 0 → o.by_ = .spar t.core.val t.thr.val → o.desc = q → o.vec = false →
        o.local_ = none → o.waits = true → o.reg < 31 → (s.sth (sthKey t)).run = some q → (s.sth (sthKey t)).halted = false →
        (s.sth (sthKey t)).wait = .remote → s.desc? q = some x → x.left ≠ 0 →
        ∃ u : State, exec (.remoteResponseReceive p r) s = .next (u.arrived (.resp r)) ∧ u.remote.ops = s.remote.ops.erase o
          ∧ u.ireg (sthKey t) o.reg = leNat r.data ∧ (∀ n, n ≠ o.reg → u.ireg (sthKey t) n = s.ireg (sthKey t) n)
          ∧ (u.sth (sthKey t)).wait = .none_ ∧ (u.sth (sthKey t)).pc = (s.sth (sthKey t)).pc + 4
          ∧ u = { s with remote := { s.remote with ops := u.remote.ops }, spar := u.spar })
      ∧ (∀ (o : ROp) (t th : Nat) (l : BitVec 64) (node : Bool) (a : Nat) (v : State), r.epoch.toNat = s.fld fEPOCH % 65536 → r.isAck = false →
        r.status = 0 → r.data.length = opLen 0 o.req.size → s.opFor r.src r.seq = some o → o.req.rop = 0 → o.by_ = .tile t th → o.local_ = some l →
        locOf l.toNat = some (node, a) → (s.dropOp o).locFault t true node a r.data.length 0x0408 = none →
        (s.dropOp o).locWrite t node ((s.dropOp o).callWriter o.by_ o.desc 0) a r.data 0x0408 = .ok v →
        exec (.remoteResponseReceive p r) s = .next ((v.progCheck o.desc).arrived (.resp r)))
      ∧ (r.epoch.toNat = s.fld fEPOCH % 65536 → r.isAck = true → r.nans = [] → (∀ x ∈ s.descs, x.left ≠ 0 ∨ x.st ≠ .running) →
        exec (.remoteResponseReceive p r) s = .next (State.arrived { s with remote := { s.remote with ops := s.remote.ops.filter (fun o =>
          !(o.req.dst == r.src && !returns o.req.rop && (o.req.seq == r.cum || seqLt o.req.seq r.cum))) } } (.resp r)))
      ∧ (r.isAck = false → r.status = 7 →
        exec (.defer p r) s = .next ((s.arrived (.resp r)).takeResponse r)
        ∧ (∀ o, r.epoch.toNat = s.fld fEPOCH % 65536 → s.opFor r.src r.seq = some o →
          exec (.defer p r) s = .next { s.arrived (.resp r) with remote := { s.remote with
            ops := s.remote.ops.map (fun x => if x = o then { x with deferred := true } else x) } }))))
    ∧ (∀ (dst : BitVec 12) (seq : Nat) (o : ROp), s.opFor dst seq = some o →
      (o.deferred = true → (∀ x ∈ s.remote.ops, x.deferred = true → x.req.dst = dst → (∃ y ∈ placesOf x.req, y ∈ placesOf o.req) → seqLt x.req.seq seq = false) →
        exec (.deferResend dst seq) s = .next { s with
          remote := { s.remote with ops := s.remote.ops.map (fun x => if x = o then { x with deferred := false } else x) }
          portQ := s.portQ ++ [⟨0, o.req.dst, 0xFFFF, reqLen o.req, .req o.req⟩] })
      ∧ (o.suspended = false → ∃ u v, exec (.tdeadExpiry dst seq) s = .next u ∧ u = v.markDead dst o.req.tag
        ∧ v = s.failOp o 0x0B01 (if returns o.req.rop then 0 else o.rem.toNat) (deadBytes o.req.rop o.req.size)
        ∧ (returns o.req.rop = false → (∀ x ∈ s.descs, x.left ≠ 0 ∨ x.st ≠ .running) →
          v = { s with remote := { s.remote with ops := s.remote.ops.erase o, dead := s.remote.dead ++ [⟨o.by_, o.desc, 0x0B01, o.rem⟩] } })
        ∧ (v.flag (fDead dst.toNat) = false → s.isCrew = true → u.flag (fDead dst.toNat) = true ∧ u.mem = v.mem ∧ u.spad = v.spad
          ∧ u.remote = v.remote ∧ ∀ y, u.step? o.req.tag = some y → y.failed = true))
      ∧ (∀ (t : SThr) (q : DRef), o.suspended = false → o.req.rop = 0 → o.req.size = 0 → o.by_ = .spar t.core.val t.thr.val → o.desc = q → o.vec = false →
        o.local_ = none → o.reg < 31 → (s.sth (sthKey t)).run = some q → (s.sth (sthKey t)).halted = false → (s.sth (sthKey t)).wait = .remote →
        (s.sth (sthKey t)).fvec ≠ 0 → (s.sth (sthKey t)).inh = false → s.isCrew = true ∨ s.flag (fDead dst.toNat) = true →
        ∃ u, exec (.tdeadExpiry dst seq) s = .next u ∧ u.flag (fDead dst.toNat) = true ∧ u.remote.ops = s.remote.ops.erase o
          ∧ u.ireg (sthKey t) o.reg = 2 ^ 64 - 1 ∧ (u.sth (sthKey t)).fcode = 0x0706 ∧ (u.sth (sthKey t)).fret = (s.sth (sthKey t)).pc + 4
          ∧ (u.sth (sthKey t)).pc = (s.sth (sthKey t)).fvec ∧ u.mem = s.mem ∧ u.spad = s.spad
          ∧ (s.flag (fDead dst.toNat) = false → ∀ y, u.step? o.req.tag = some y → y.failed = true)))

/-- R192, R387 to R393: a CDEF that breaks no rule of its own completes with OK and leaves a definition of its group that its step's commit will apply, with the
group's sequence number 0; NMEM 0 deletes the group. A reserved or empty field, a group with an open operation, a list that is misaligned, in a low half or unreadable, and a member list outside
the rules, complete with EXEC_ERROR and leave no definition. Nothing else changes. The order of the checks is log entry 16.

R192, R394, R397, R398, R402, R419: a COLL of a defined group that breaks no rule opens an operation with the group's next sequence number, which moves on by one, or waits
where four operations of the group or 64 in all are open; an undefined group, a broken field, a range outside the node's memory or in a low half, and a group of which the node is no member complete with EXEC_ERROR. An operation, or a COLL that waits, whose
time is over completes with cause 0x0C08; a handoff that no operation took stops its program with 0x0C09.

R149, R150, R158, R209, R401: an MMAF that does not fault leaves one handoff for each selected core, of chunk CHUNK + i for the i-th, in core order, each with the copy of its program made
at issue; with no operation open for them they wait. Node memory, the scratchpads and the registers of other tiles stay. While a register it names is kept busy by a handoff it waits. A
handoff that breaks a rule of the operation it matches stops the program with the rule's cause. -/
def Obligations.GroupsAndOperations : Prop :=
  (
  ∀ (s : State) (rg : Fin 64) (c : Nat) (x : InDesc) (ev : List HwEv), s.EngReady (.ring rg c) x 0x010 →
    let a := dArg x.raw 0
    let g := getBits a 0 10
    let nmem := getBits a 10 12
    let log := if getBits a 22 5 = 0 then 16 else getBits a 22 5
    let slots := if getBits a 27 9 = 0 then 2 else getBits a 27 9
    let fields := dMask x.raw ≠ 0 ∧ a < 2 ^ 36 ∧ dArg x.raw 1 = 0 ∧ dArg x.raw 2 = 0 ∧ dArg x.raw 3 = 0
    let sizes := 12 ≤ log ∧ log ≤ 20 ∧ 2 ≤ slots ∧ slots ≤ 256
    let open_ := s.coll.ops.any (fun o => o.group = g)
    let z := ((s.running (.ring rg c) 0).hwEvs x.step ev).1
    let es := (chunks 4 nmem (s.rdBytes (dProg x.raw) (4 * nmem))).map (fun b => BitVec.ofNat 32 (leNat b))
    let nodes := es.map z.memberNode
    let grp : Group := ⟨es, BitVec.ofNat 32 (dMask x.raw), log, slots, words32Digest ([g, nmem, dMask x.raw, log, slots] ++ es.map BitVec.toNat), 0⟩
    let ends := fun (cause : Nat) => ∃ t, exec (.cdef (.ring rg c) ev) s = .next t
      ∧ t.Finished (.ring rg c) { x with left := 0 } (if cause = 0 then 0 else 0x0204) cause ∧ t.trans = s.trans ∧ t.mem = s.mem
    let noted := fun (v : State) (d : Group) => ∃ t, exec (.cdef (.ring rg c) ev) s = .next t ∧ t.Finished (.ring rg c) { x with left := 0 } 0 0
      ∧ t = { v with descs := t.descs, steps := t.steps, eng := t.eng, trans := v.trans ++ [(x.step, .groupDef g d)] }
    (¬ fields → ends 0x0C01)
    ∧ (fields → open_ = true → ends 0x0C04)
    ∧ (fields → open_ = false → nmem = 0 → noted s applyTr.emptyGroup)
    ∧ (fields → open_ = false → nmem ≠ 0 → ¬ sizes → ends 0x0C01)
    ∧ (fields → open_ = false → nmem ≠ 0 → sizes →
      (dProg x.raw % 4 ≠ 0 → ends 0x0504)
      ∧ (dProg x.raw % 4 = 0 → s.touchesLow (dProg x.raw) (4 * nmem) = true → ends 0x0609)
      ∧ (dProg x.raw % 4 = 0 → s.touchesLow (dProg x.raw) (4 * nmem) = false →
        (∀ e, s.rdCheck (dProg x.raw) (4 * nmem) = some e → e ≠ .wait → ends (e.cause 0x0505 0x0505))
        ∧ (s.rdCheck (dProg x.raw) (4 * nmem) = none → ((s.running (.ring rg c) 0).hwEvs x.step ev).2 = true → z.trans = s.trans →
          (membersBad es nodes = true → ends 0x0C01)
          ∧ (membersBad es nodes = false → nodes.any (fun n => n.toNat = z.fld fNODEID) = false → ends 0x0C02)
          ∧ (membersBad es nodes = false → nodes.any (fun n => n.toNat = z.fld fNODEID) = true →
            (z.noStaging g grp = true → ends 0x0C03) ∧ (z.noStaging g grp = false → noted z grp)))))
  ) ∧ (
  (∀ (s : State) (rg : Fin 64) (c : Nat) (x : InDesc), s.EngReady (.ring rg c) x 0x011 →
    let g := SM.getD applyTr.emptyGroup s.live.groups (cGroup x.raw)
    let o := s.collOf (.ring rg c) x
    let good := g.members ≠ [] ∧ collBad x.raw g.members.length g.mask.toNat = false
    let ends := fun (cause : Nat) => ∃ t, exec (.coll (.ring rg c)) s = .next t ∧ t.Finished (.ring rg c) x 0x0204 cause ∧ s.OnlyEnds t
    (g.members = [] → ends 0x0C05)
    ∧ (g.members ≠ [] → collBad x.raw g.members.length g.mask.toNat = true → ends 0x0C06)
    ∧ (good → ∀ k, s.collRange o = some k → ends k)
    ∧ (good → s.collRange o = none →
      (s.collRoom (cGroup x.raw) = false → ∃ t, exec (.coll (.ring rg c)) s = .next t
        ∧ t.desc? (.ring rg c) = some { x with st := .running, left := 0 }
        ∧ t = { s with descs := t.descs, coll := { s.coll with queue := s.coll.queue ++ [.ring rg c] } })
      ∧ (s.collRoom (cGroup x.raw) = true →
        exec (.coll (.ring rg c)) s = .next (((s.running (.ring rg c) 0).openColl (.ring rg c) x).afterClose))
      ∧ (s.coll.ops = [] → s.coll.queue = [] → s.coll.hands = [] → SM.Sorted s.live.groups →
        (g.members.length ≤ o.rank → ∃ t, exec (.coll (.ring rg c)) s = .next t
          ∧ t.Finished (.ring rg c) { x with left := 0 } 0x0204 0x0C02 ∧ s.OnlyEnds t)
        ∧ (o.rank < g.members.length → (∀ r ∈ s.coll.grants, r.group = o.group → r.seq = o.seq → r.gdig = o.gdig ∧ r.pdig = o.pdig) →
          ∃ t p, exec (.coll (.ring rg c)) s = .next t ∧ t.coll.ops = [p] ∧ p = { o with given := p.given } ∧ p.seq = g.seq
            ∧ t.desc? (.ring rg c) = some { x with st := .running, left := 0 }
            ∧ SM.getD applyTr.emptyGroup t.live.groups (cGroup x.raw) = { g with seq := g.seq + 1 }
            ∧ t.trans = s.trans ++ [(x.step, .groupSeq (cGroup x.raw))]
            ∧ t = { s with descs := t.descs, live := { s.live with groups := t.live.groups }, trans := t.trans, portQ := t.portQ,
                           coll := { s.coll with ops := t.coll.ops } }))))
  ∧ (∀ (s : State) (rg : Fin 64) (c : Nat) (x : InDesc), s.desc? (.ring rg c) = some x → x.step ≠ 0 →
    (∀ o, s.coll.ops.find? (fun p => p.desc = .ring rg c) = some o →
      exec (.collTimeout (.ring rg c)) s = .next (s.closeErr o 0x0C08).afterClose
      ∧ (s.coll.ops = [o] → s.coll.hands = [] → s.coll.queue = [] →
        ∃ t, exec (.collTimeout (.ring rg c)) s = .next t ∧ t.coll.ops = [] ∧ t.Finished (.ring rg c) x 0x0204 0x0C08))
    ∧ ((∀ o ∈ s.coll.ops, o.desc ≠ .ring rg c) → .ring rg c ∈ s.coll.queue →
      ∃ t, exec (.collTimeout (.ring rg c)) s = .next t ∧ t.Finished (.ring rg c) x 0x0204 0x0C08
        ∧ t = { s with descs := t.descs, steps := t.steps, eng := t.eng, coll := { s.coll with queue := s.coll.queue.erase (.ring rg c) } }))
  ∧ (∀ (s : State) (tile : Fin 32) (h : Handoff), h.tile = tile.val → h.op = none →
    s.coll.hands.find? (fun y => y.tile = tile.val ∧ y.group = h.group ∧ y.chunk = h.chunk ∧ y.op.isNone) = some h →
    exec (.notOpen tile h.group h.chunk) s = .next (s.handStop h 0x0C09)
    ∧ (∀ x, (s.thr h.tile h.thread).run = some h.desc → (s.thr h.tile h.thread).halted = false → (s.thr h.tile h.thread).xfers = [] →
      s.desc? h.desc = some x → x.status = 0 → x.left &&& (2 ^ 32 - 1 - 2 ^ tile.val) ≠ 0 →
      ∃ t, exec (.notOpen tile h.group h.chunk) s = .next t ∧ t.coll.hands = s.coll.hands.erase h ∧ t.mem = s.mem ∧ t.spad = s.spad
        ∧ ∃ y, t.desc? h.desc = some y ∧ y.status = 0x0204 ∧ y.result = BitVec.ofNat 32 (0x0C09 ||| tile.val <<< 16)))
  ) ∧ (
  ∀ (s : State) (i : VxtIssue) (d : DRef) (order : List Nat) (ev : List HwEv), s.CanIssue i d 0x48 → s.mapsOk →
    let z := s.issued i
    let t := i.tile.val
    let th := i.thread.val
    let w := i.word.toNat
    let ext := i.ext.toNat
    let hand := fun (c n : Nat) =>
      let e := z.fusedCall t th w ext c
      let p := z.epLoad t e.prog
      (⟨t, th, c, mTr w, e.pair, d, getBits ext 10 10, getBits ext 20 16 + n, z.tagOf d, p.1, p.2, e.gv,
        if n = 0 then ev.filter (fun e => !evMatrix e) else [], false, [], none⟩ : Handoff)
    z.fusedFault t th w ext d = none →
    (z.trBusy t (mCores w) (mTr w) (z.fusedPair w) = true → exec (.mmaf i order ev) s = .next s)
    ∧ (z.trBusy t (mCores w) (mTr w) (z.fusedPair w) = false → (z.hwEvs (z.tagOf d) (ev.filter evMatrix)).2 = true →
      s.flag fNANWATCH = false → s.coll.hands = [] →
      (s.coll.ops = [] → ∃ u : State, exec (.mmaf i order ev) s = .next (u.after i) ∧ s.OtherTilesKept u t ∧ u.mem = z.mem ∧ u.spad = z.spad
        ∧ u.coll.hands = (mmaTargets w).zipIdx.map (fun c => hand c.1 c.2))
      ∧ (∀ (k : Nat) (o : CollOp) (c : Nat) (x : InDesc), mmaTargets w = [k] → z.matchOp (hand k 0) = some o → handFault (hand k 0) o = some c →
        (z.thr t th).xfers = [] → s.desc? d = some x → x.status = 0 → x.left &&& (2 ^ 32 - 1 - 2 ^ t) ≠ 0 →
        ∃ u : State, exec (.mmaf i order ev) s = .next (u.after i) ∧ u.coll.hands = []
          ∧ ∃ y, u.desc? d = some y ∧ y.status = 0x0204 ∧ y.result = BitVec.ofNat 32 (c ||| t <<< 16)))
  )

/-- R341, R397, R405, R409, R415 to R417, R420: what a node does with a packet of a collective. One for another node or job changes nothing of the collectives, one of
another epoch is counted alone. A grant is held until it is used; one with other digests closes the operation with cause 0x0C07 and its sender is told (how is log entry 16). Data without a grant is discarded; a
chunk that is whole is a term, or the final value; one whose CRC is wrong fails its step's checks. A marker is held once, and the node's own markers go to every member its step has sent to. -/
def Obligations.CollectivePackets : Prop :=
  ∀ s : State,
    (∀ (p : Fin 16) (h : CollHdr) (data : List Byte) (i : Instr) (b : Payload), (i = .collGrant p h ∧ b = .coll 0 h []) ∨ (i = .collData p h data ∧ b = .coll 1 h data)
        ∨ (i = .collMarker p h ∧ b = .coll 2 h []) →
      ((h.job.toNat ≠ s.fld fJOBSTAMP ∨ h.dst.toNat ≠ s.fld fNODEID) → ∃ u, exec i s = .next u ∧ u.coll = s.coll ∧ u.mem = s.mem ∧ u.descs = s.descs)
      ∧ (h.job.toNat = s.fld fJOBSTAMP → h.dst.toNat = s.fld fNODEID → h.epoch.toNat ≠ s.fld fEPOCH % 65536 →
        exec i s = .next ((s.arrived b).incFld fCOLLEPOCH)))
    ∧ (∀ (p : Fin 16) (h : CollHdr), h.job.toNat = s.fld fJOBSTAMP → h.dst.toNat = s.fld fNODEID → h.epoch.toNat = s.fld fEPOCH % 65536 →
      let g : Grant := ⟨h.group.toNat, h.seq, h.chunk, h.stage.toNat, h.src, h.slot.toNat, h.gdig, h.pdig⟩
      let z := s.arrived (.coll 0 h [])
      let taken := if g ∈ s.coll.grants then z else { z with coll := { s.coll with grants := s.coll.grants ++ [g] } }
      let tells := fun (u : State) (gd pd : BitVec 64) => ∃ k y, k ∈ u.portQ ∧ k.vc = 3 ∧ k.dst = h.src ∧ k.body = .coll 0 y [] ∧ y.gdig = gd ∧ y.pdig = pd
        ∧ y.group = h.group ∧ y.seq = h.seq
      (s.collOp? h.group.toNat h.seq = none → z.grantPast h = false → exec (.collGrant p h) s = .next taken)
      ∧ (∀ o, s.collOp? h.group.toNat h.seq = some o → h.gdig = o.gdig → h.pdig = o.pdig → exec (.collGrant p h) s = .next taken)
      ∧ (∀ (data : List Byte) (i : Instr) (v : State), (i = .collGrant p h ∧ v = z ∧ z.grantPast h = true) ∨ (i = .collData p h data ∧ v = s.arrived (.coll 1 h data)) →
        s.collOp? h.group.toNat h.seq = none →
        (s.coll.mism = [] → exec i s = .next v)
        ∧ (∀ m, s.coll.mism.find? (fun m => m.group = h.group.toNat ∧ m.seq = h.seq) = some m →
          ((m.gdig = h.gdig ∧ m.pdig = h.pdig) ∨ m.told.contains h.src = true → exec i s = .next v)
          ∧ (¬ (m.gdig = h.gdig ∧ m.pdig = h.pdig) → m.told.contains h.src = false →
            ∃ u, exec i s = .next u ∧ tells u m.gdig m.pdig ∧ u = { v with portQ := u.portQ, coll := { s.coll with mism := u.coll.mism } })))
      ∧ (∀ (o : CollOp) (data : List Byte) (i : Instr) (v : State), (i = .collGrant p h ∧ v = z) ∨ (i = .collData p h data ∧ v = s.arrived (.coll 1 h data)) →
        s.collOp? h.group.toNat h.seq = some o → (h.gdig ≠ o.gdig ∨ h.pdig ≠ o.pdig) →
        exec i s = .next (v.mismatch o [(h.src, h.chunk)]).afterClose
        ∧ (∀ rg c x, s.coll.ops = [o] → o.desc = .ring rg c → s.desc? (.ring rg c) = some x → x.step ≠ 0 → s.coll.hands = [] → s.coll.queue = [] →
          ∃ u, exec i s = .next u ∧ u.coll.ops = [] ∧ u.Finished (.ring rg c) x 0x0204 0x0C07 ∧ tells u o.gdig o.pdig))
      ∧ ((h.tag, h.src) ∈ s.coll.markers → exec (.collMarker p h) s = .next (s.arrived (.coll 2 h [])))
      ∧ ((h.tag, h.src) ∉ s.coll.markers → exec (.collMarker p h) s
        = .next { s.arrived (.coll 2 h []) with coll := { s.coll with markers := s.coll.markers ++ [(h.tag, h.src)] } })
      ∧ (∀ (data : List Byte) (o : CollOp), s.collOp? h.group.toNat h.seq = some o → h.gdig = o.gdig → h.pdig = o.pdig →
        let v := s.arrived (.coll 1 h data)
        (o.rankOf h.src = none → exec (.collData p h data) s = .next v)
        ∧ (∀ r, o.rankOf h.src = some r → o.given.contains (r, h.chunk, h.stage.toNat, h.slot.toNat) = false → exec (.collData p h data) s = .next v)
        ∧ (∀ r, o.rankOf h.src = some r → o.given.contains (r, h.chunk, h.stage.toNat, h.slot.toNat) = true → s.coll.rx = [] →
          (h.last = false ∨ 0 < h.part → ∃ u, exec (.collData p h data) s = .next u
            ∧ u.coll.rx = [⟨o.group, o.seq, h.chunk, h.src, h.stage.toNat, h.part, h.last, data⟩]
            ∧ u = { v with steps := u.steps, coll := { s.coll with rx := u.coll.rx } })
          ∧ (h.last = true → h.part = 0 → SM.Sorted o.chunks → (o.chunk h.chunk).fin = false → o.base ≤ h.chunk → h.chunk < cNchunk o.raw →
            s.coll.hands = [] → (o.chunk h.chunk).written = false →
            let same := fun (u : State) => (h.crc.toNat = Sha.crc32 data → u = { v with steps := u.steps, coll := { s.coll with ops := u.coll.ops }, portQ := u.portQ })
              ∧ (h.crc.toNat ≠ Sha.crc32 data → ∀ y, u.step? o.step = some y → y.failed = true)
            ((r, h.stage.toNat) ∈ o.ups o.rank h.chunk → (r, h.stage.toNat) ∉ (o.chunk h.chunk).got → o.joins o.rank h.chunk = true →
              (o.chunk h.chunk).up = false →
              ∃ u o', exec (.collData p h data) s = .next u ∧ u.collOp? h.group.toNat h.seq = some o'
                ∧ (o'.chunk h.chunk).terms = (o.chunk h.chunk).terms ++ [(r, h.stage.toNat, h.slot.toNat, data)] ∧ same u)
            ∧ ((r, h.stage.toNat) ∉ o.ups o.rank h.chunk → o.finFrom o.rank h.chunk = some (r, h.stage.toNat) → o.takes o.rank h.chunk = true →
              o.upTo o.rank h.chunk ≠ none →
              ∃ u o', exec (.collData p h data) s = .next u ∧ u.collOp? h.group.toNat h.seq = some o'
                ∧ (o'.chunk h.chunk).final = some data ∧ same u)))))
    ∧ (∀ (tag : BitVec 64) (x : Step), s.step? tag = some x →
      (s.localDone { x with recvFrom := [] } = false ∨ x.marksSent = true → exec (.markerSend tag) s = .next s)
      ∧ (s.localDone { x with recvFrom := [] } = true → x.marksSent = false →
        ∃ u, exec (.markerSend tag) s = .next u ∧ (u.step? tag).map (·.marksSent) = some true
          ∧ u.portQ.length = s.portQ.length + x.sentTo.length
          ∧ (u.portQ.drop s.portQ.length).map (fun k => (k.vc, k.dst)) = x.sentTo.map (fun n => (3, n))
          ∧ u = { s with steps := u.steps, portQ := u.portQ }))

/-- R404, R408 to R411, R413, R414, R418: the steward of a chunk, on its thread 15 or a free thread of 12 to 14, and without hardware events: it takes a contribution from memory, or a handoff's
output, into the chunk's value, reduces a term that has come, sends the node's partial up or the final value down under a grant, and writes a final value to the operation's result range. In a home
the sum of a stage goes on as a term of the next. On a tile that does not issue, and without a slot or a grant, it waits. -/
def Obligations.StewardWork : Prop :=
  ∀ (s : State) (o : CollOp) (c : Nat) (tile : Fin 32) (th : Fin 16) (rg : Fin 64) (k : Nat), o.desc = .ring rg k → s.collOp? o.group o.seq = some o →
    c < cNchunk o.raw → o.base ≤ c → o.steward c = tile.val → (o.chunk c).fin = false → SM.Sorted o.chunks → SM.Sorted (o.chunk c).sums →
    th = 15 ∨ (12 ≤ th.val ∧ th.val ≤ 14 ∧ (s.thr tile.val th.val).run = none) →
    let x := o.chunk c
    let run := fun (k : WorkKind) => exec (.collWorkUnit tile th o.group o.seq c k []) s
    let plus := fun (v : List Byte) => chunkAcc o.raw (x.acc.map (fun b => ⟨b, 0, []⟩)) v
    let goesOn := fun (y : Chunk) (v : List Byte) => y.acc = some v ∨ y.final = some v ∨ ∃ st n, (o.rank, st, n, v) ∈ y.terms
    let does := fun (k : WorkKind) (p : State → Chunk → Prop) => ∃ u o', run k = .next u ∧ u.collOp? o.group o.seq = some o' ∧ p u (o'.chunk c)
      ∧ u.mem = s.mem ∧ u.spad = s.spad
    (s.blkClosed tile.val = true ∨ s.reefStop tile.val = true → ∀ k, run k = .next s)
    ∧ (s.blkClosed tile.val = false → s.reefStop tile.val = false → s.flag fNANWATCH = false → s.coll.queue = [] →
      (o.contributes o.rank c = true → o.ownDone c = false → o.takes o.rank c = true → x.written = false →
        (x.slot = none → s.slotFor o c = none → run .contribute = .next s)
        ∧ (x.slot.isSome = true ∨ (s.slotFor o c).isSome = true → cSrch o.raw = false → s.coll.hands = [] →
          cKind o.raw = 5 ∨ s.rdCheck (o.srcAt c).1 (o.srcAt c).2 = none →
          let raw := if cKind o.raw = 5 then [] else s.rdBytes (o.srcAt c).1 (o.srcAt c).2
          let bs := if cRed o.raw then toPartial o.raw raw else raw
          (o.scheme = .homes → does .contribute (fun _ y => y.owns = x.owns + 1 ∧ goesOn y (plus bs).bytes))
          ∧ (o.scheme = .copy → does .contribute (fun _ y => y.owns = x.owns + 1 ∧ (y.acc = some bs ∨ y.final = some bs)))
          ∧ (x.own = [] → o.scheme = .pair ∨ (o.scheme = .fold ∧ o.rank = 0) →
            does .contribute (fun _ y => y.owns = x.owns + 1 ∧ (y.acc = some bs ∨ y.final = some bs)))
          ∧ (x.own = [] → o.scheme = .fold → o.rank ≠ 0 → x.acc = none → does .contribute (fun _ y => y.owns = x.owns + 1 ∧ y.own = [(0, bs)])))
        ∧ (∀ h, x.slot.isSome = true → cSrch o.raw = true → s.coll.hands = [h] → h.ran = true → h.group = o.group → h.op = some o.seq → h.chunk = c →
          s.desc? h.desc = none → o.scheme = .homes → cRed o.raw = true →
          does .contribute (fun u y => y.owns = x.owns + 1 ∧ u.coll.hands = [] ∧ goesOn y (plus (toPartial o.raw h.data)).bytes)))
      ∧ (∀ t, x.terms = [t] → o.ready c (t.1, t.2.1) = true → o.takes o.rank c = true → x.written = false → s.coll.hands = [] →
        (o.scheme = .homes →
          let p := SM.getD (0, t.2.2.1, []) x.sums t.2.1
          let v := (chunkAcc o.raw (if p.1 = 0 then none else some ⟨p.2.2, 0, []⟩) t.2.2.2).bytes
          does (.reduce (o.node t.1)) (fun _ y => y.got = x.got ++ [(t.1, t.2.1)]
            ∧ ((kidsAt o.ents t.2.1 o.rank c).length ≤ p.1 → goesOn y v)
            ∧ (p.1 < (kidsAt o.ents t.2.1 o.rank c).length → SM.getD (0, 0, []) y.sums t.2.1 = (p.1 + 1, p.2.1, v) ∧ y.terms = [])))
        ∧ (o.scheme = .pair → does (.reduce (o.node t.1)) (fun _ y => y.got = x.got ++ [(t.1, t.2.1)] ∧ y.terms = []
          ∧ (y.acc = some (plus t.2.2.2).bytes ∨ y.final = some (plus t.2.2.2).bytes)))
        ∧ (o.scheme = .fold → ∀ v, x.own.foldl (fun a p => some (chunkAcc o.raw a p.2)) (some (⟨t.2.2.2, 0, []⟩ : CVal)) = some v →
          does (.reduce (o.node t.1)) (fun _ y => y.got = x.got ++ [(t.1, t.2.1)] ∧ y.terms = [] ∧ (y.acc = some v.bytes ∨ y.final = some v.bytes))))
      ∧ (∀ e bs, o.group < 1024 → o.upTo o.rank c = some e → o.upDone c = true → x.up = false → x.acc = some bs → s.coll.hands = [] →
        let held := s.coll.grants.find? (fun g => g.group = o.group ∧ g.seq = o.seq ∧ g.chunk = c ∧ g.src = o.node e.1 ∧ g.stage = e.2)
        (held = none → run (.forward (o.node e.1)) = .next s)
        ∧ (∀ g, held = some g → does (.forward (o.node e.1)) (fun u y => (s.portQ ++ s.chunkPkts o g bs) <+: u.portQ ∧ y.up = true)))
      ∧ (∀ e bs dst, o.group < 1024 → x.final = some bs → x.acc = none → s.coll.hands = [] →
        (o.downs o.rank c).find? (fun e => o.node e.1 = dst ∧ ¬ x.sent.contains e.1) = some e →
        let held := s.coll.grants.find? (fun g => g.group = o.group ∧ g.seq = o.seq ∧ g.chunk = c ∧ g.src = dst ∧ g.stage = e.2)
        (held = none → run (.forward dst) = .next s)
        ∧ (∀ g, held = some g → does (.forward dst) (fun u y => (s.portQ ++ s.chunkPkts o g bs) <+: u.portQ ∧ y.sent = x.sent ++ [e.1])))
      ∧ (∀ bs s', x.final = some bs → o.takes o.rank c = true → x.written = false → s.ckpt = none → s.coll.hands = [] →
        s.write (s.writer o.desc tile.val) (o.dstAt c).1 ((finish16 o.raw bs).bytes.take (o.dstAt c).2) = .ok s' →
        ∃ u, run .write = .next u ∧ u.mem = memWrite s.mem (o.dstAt c).1 ((finish16 o.raw bs).bytes.take (o.dstAt c).2) ∧ u.spad = s.spad))

/-! ## Beats, the fleet, commit and recovery (chapters 02, 13 and 15) -/

/-- R341, R348 to R350, R424, R427, R428, R429, R436: a BEAT_IN edge is ignored by a follower and rejected as a glitch before t_last + 0.75 P; else a node that is no source counts
it and a source sends it on through the UP ports of its mask. A fabric beat of another job or not above the last number taken moves nothing; another is taken, waits for its time, and goes on with its delay
added until its hops are used. A waiting beat moves the counter when
its time has come, on a follower to its number; with none by 1.5 P, or by P after a flywheel beat, a flywheel beat counts. A beat that is counted ends BEATLOST, fires the beat-basis entries of the node that are due and
notes those of the fleet. Times are the commands' own (log entry 6).

R192, R432, R434, R435: a SCHED_LOAD whose fields and entries keep the rules completes with OK; the table in force stays until the commit of
its step, which then holds its entries. One with a field or entry out of range, or a table that cannot be read, completes with EXEC_ERROR and changes nothing. Due points are
START and every PERIOD from there; an entry with PERIOD 0 has one. -/
def Obligations.BeatsAndSchedules : Prop :=
  (
  ∀ s : State, s.mapsOk →
    let cnt := fun (u : State) (n t : Nat) =>
      let v := State.applyBeat { u with flywheel := 0 } n t
      if v.flag fBEATLOST then (v.setFld fBEATLOST 0).fire 0x201 0xF0 (n % 2 ^ 32) else v
    let sends := fun (u : State) (b : BeatPkt) => (u.upAmong (u.fld fBEATMASK)).map (fun p => (⟨4, 0, BitVec.ofNat 16 (2 ^ p), 32, .beat b⟩ : Packet))
    (∀ n t : Nat,
      (s.comm.sched = [] → s.applyBeat n t = { s.setFld fBEATCNT n with beatLast := t })
      ∧ (∀ (i : Nat) (e : BitVec 128), s.comm.sched = [(i, e)] → i < 256 → eValid e = true → eBeat e = true → dueIn e (s.fld fBEATCNT) n ≠ 0 →
        (eFleet e = true → i ∉ s.due → (s.applyBeat n t).due = s.due ++ [i])
        ∧ (eAction e = 4 → ∃ v : State, s.applyBeat n t = v.fire (getBits (eArg e) 0 10) 0xF0 0 true ∧ v.fld fBEATCNT = n % 2 ^ 64 ∧ v.beatLast = t ∧ v.tt = s.tt)))
    ∧ (∀ t : Nat,
      (s.fld fBEATROLE = 2 → exec (.beatInEdge t) s = .next (s.atTime t))
      ∧ (s.fld fBEATROLE ≠ 1 → s.fld fBEATROLE ≠ 2 → exec (.beatInEdge t) s = .next (
          if 4 * t < 4 * s.beatLast + 3 * s.fld fBEATPER then (s.atTime t).incFld fGLITCH
          else cnt (s.atTime t) (s.fld fBEATCNT + 1) t))
      ∧ (s.fld fBEATROLE = 1 →
        let last := (s.beatWait.getLast?.map BeatPkt.delay).getD s.beatLast
        let at_ := t + 1000 * s.fld fDBEAT
        let num := s.fld fBEATCNT + s.beatWait.length + 1
        let job := BitVec.ofNat 16 (s.fld fJOBSTAMP)
        exec (.beatInEdge t) s = .next (if 4 * at_ < 4 * last + 3 * s.fld fBEATPER then (s.atTime t).incFld fGLITCH
          else { s.atTime t with beatWait := s.beatWait ++ [⟨num, at_, job, 0⟩], portQ := s.portQ ++ sends s ⟨num, 0, job, 0⟩ })))
    ∧ (∀ (p : Fin 16) (b : BeatPkt) (t res : Nat),
      let z := (s.atTime t).arrived (.beat b)
      let link := (z.port p.val).delay
      let at_ := t + 1000 * s.fld fDBEAT - (b.delay + link)
      (b.job.toNat ≠ s.fld fJOBSTAMP → ∃ u, exec (.fabricBeat p b t res) s = .next u ∧ u.beatWait = s.beatWait
        ∧ u.fld fBEATCNT = s.fld fBEATCNT ∧ u.mem = s.mem)
      ∧ (b.job.toNat = s.fld fJOBSTAMP → (s.fld fBEATROLE ≠ 2 ∨ b.num ≤ max (s.fld fBEATCNT) s.beatTaken) → exec (.fabricBeat p b t res) s = .next z)
      ∧ (b.job.toNat = s.fld fJOBSTAMP → s.fld fBEATROLE = 2 → max (s.fld fBEATCNT) s.beatTaken < b.num →
        ∃ u, exec (.fabricBeat p b t res) s = .next u ∧ u.beatTaken = b.num ∧ u.beatWait = s.beatWait ++ [⟨b.num, max at_ t, b.job, b.hops⟩]
          ∧ u.portQ = z.portQ ++ (if b.hops < 7 then sends z { b with delay := b.delay + res + link, hops := b.hops + 1 } else [])
          ∧ u.fld fLATE = (if at_ < t then satInc fLATE.w (s.fld fLATE) else s.fld fLATE)
          ∧ u = { z with beatTaken := u.beatTaken, beatWait := u.beatWait, portQ := u.portQ, regs := u.regs }))
    ∧ (∀ (b : BeatPkt) (bs : List BeatPkt) (t : Nat), s.beatWait = b :: bs → b.delay ≤ t →
      exec (.beatApply t) s = .next (
        let u : State := { s.atTime t with beatWait := bs }
        if 4 * b.delay < 4 * s.beatLast + 3 * s.fld fBEATPER then u.incFld fGLITCH
        else if s.fld fBEATROLE = 2 then (if s.fld fBEATCNT < b.num then cnt u b.num b.delay else u)
        else cnt u (s.fld fBEATCNT + 1) b.delay))
    ∧ (∀ t : Nat, let c := s.beatLast + (if s.flywheel = 0 then s.fld fBEATPER * 3 / 2 else s.fld fBEATPER)
      c ≤ t → s.comm.sched = [] →
      ∃ u, exec (.flywheelBeat t) s = .next u ∧ u.fld fBEATCNT = (s.fld fBEATCNT + 1) % 2 ^ 64 ∧ u.flywheel = s.flywheel + 1
        ∧ u.beatLast = c ∧ u.mem = s.mem ∧ u.descs = s.descs ∧ u.live = s.live
        ∧ (s.flywheel + 1 = s.fld fHOLD → u.flag fBEATLOST = true)
        ∧ (s.flywheel + 1 ≠ s.fld fHOLD → u.flag fBEATLOST = s.flag fBEATLOST))
  ) ∧ (
  (∀ (s : State) (rg : Fin 64) (c : Nat) (x : InDesc) (ev : List HwEv), s.Startable (.ring rg c) x → dOp x.raw = 0x020 → x.step ≠ 0 →
    let i := getBits (dArg x.raw 0) 0 8
    let n := getBits (dArg x.raw 0) 8 9
    let fields := dMask x.raw = 0 ∧ dArg x.raw 0 < 2 ^ 17 ∧ (∀ k, 0 < k → k < 4 → dArg x.raw k = 0) ∧ n ≠ 0 ∧ i + n ≤ 256 ∧ dProg x.raw % 16 = 0
    let low := s.touchesLow (dProg x.raw) (16 * n)
    let ent := fun (k : Nat) => BitVec.ofNat 128 (leNat (s.rdBytes (dProg x.raw + 16 * k) 16))
    let z := (s.hwEvs x.step ev).1
    let ends := fun (cause : Nat) => ∃ t, exec (.schedLoad (.ring rg c) ev) s = .next t ∧ t.Finished (.ring rg c) x 0x0204 cause ∧ t.comm = s.comm ∧ t.trans = s.trans
    (¬ fields → ends 0x0D01)
    ∧ (fields → low = true → ends 0x0609)
    ∧ (fields → low = false → ∀ e, s.rdCheck (dProg x.raw) (16 * n) = some e → e ≠ .wait → ends (e.cause 0x0D01 0x0D01))
    ∧ (fields → low = false → s.rdCheck (dProg x.raw) (16 * n) = none → (s.hwEvs x.step ev).2 = true → z.trans = s.trans → z.comm = s.comm →
      ((∃ k, k < n ∧ z.badEntry (ent k) = true) → ends 0x0D01)
      ∧ ((∀ k, k < n → z.badEntry (ent k) = false) → SM.Sorted s.comm.sched →
        ∃ t, exec (.schedLoad (.ring rg c) ev) s = .next t ∧ t.Finished (.ring rg c) x 0 0
          ∧ (∀ k, k < n → SM.getD 0 (t.commAfter x.step).sched (i + k) = ent k)
          ∧ t = { z with descs := t.descs, steps := t.steps, eng := t.eng, trans := t.trans })))
  ∧ (∀ (e : BitVec 128) (n : Nat), 0 < n →
    (dueIn e (n - 1) n ≠ 0 ↔ n = eStart e ∨ (ePeriod e ≠ 0 ∧ eStart e < n ∧ (n - eStart e) % ePeriod e = 0)))
  )

/-- R70, R72, R74, R75, R353, R467, R636: forming the fleet. A masthead that is told of a crew node keeps its ID and sends it its index and its windows (log entry 46), and before any step of the job the map goes to every crew node; clearing
a rank holder's entry is refused. The crew node takes the index, and FAB_FLEETMAP with the masthead's
partition values; the masthead's own table goes to every crew node. A crew window reads 0 and drops a write (log entry 42) where its selection is above 0xFF or no crew node is listed, answers from the node itself at
window 0, and passes the access on otherwise; a read that HIF_RLYTO ends answers with all ones and sets its bit, and a write that has not left is dropped.

R40, R71, R72, R75, R76, R539, R585: the relay. The masthead puts a crew node's host reads, writes and vectors out under the crew node's index where its windows allow them, and answers those that they do not; what comes
back, and a doorbell, go to the crew node, or a doorbell is counted where none is listed (log entry 42); the crew node takes a doorbell and a register access as its own, and a word of the windows as what bounds its DMA. A masked vector waits
as a pending bit (log entry 35). A relay hold begins and ends by message or after 100 µs; a crew node whose relay returns is at its last
committed step with a new epoch. -/
def Obligations.FleetAndRelay : Prop :=
  (
  ∀ s : State, s.wf →
    (∀ (n : Fin 64) (v : BitVec 64), s.pw.booting = false → s.pw.blks = [] → n.val ≠ 0 →
      let id := v.toNat % 4096
      let fleet := fun (t : State) (id : Nat) => t.fld (fFleet n.val) = id ∧ ∀ m, m < 64 → m ≠ n.val → t.fld (fFleet m) = s.fld (fFleet m)
      (s.isMast = false → s.largeClass = true → s.rankOf n.val = none →
        ∃ t, exec (.fleetEntryWrite n v) s = .next t ∧ fleet t id ∧ t = { s with regs := t.regs })
      ∧ (s.isMast = true → id = 0 → s.fld (fFleet n.val) ≠ 0 → (s.rankOf n.val).isSome = true →
        exec (.fleetEntryWrite n v) s = .next (s.setFld fBADWR 1))
      ∧ (s.isMast = true → id ≠ 0 → id ≠ s.fld (fFleet n.val) → s.largeClass = true ∨ s.fld (fFleet n.val) ≠ 0 ∨ s.crew.length < 15 →
        let told := s.portQ ++ [⟨7, v.setWidth 12, 0xFFFF, 32, .fleet (.index n.val)⟩, ⟨7, v.setWidth 12, 0xFFFF, 32, .fleet (.relay (.windows s.windows))⟩]
        ∃ t, exec (.fleetEntryWrite n v) s = .next t ∧ fleet t id
          ∧ ((s.comm.lastTag ≠ 0 ∨ s.stepOpen = true) → t.portQ = told ∧ t = { s with regs := t.regs, portQ := t.portQ })
          ∧ (s.comm.lastTag = 0 → s.stepOpen = false → told <+: t.portQ ∧ t.fld (fFleetMap n.val) = 4096 + id ∧ t.mem = s.mem ∧ t.descs = s.descs)))
    ∧ (∀ n : Fin 64, s.isCrew = true → ∃ t, exec (.fleetIndexAssign n) s = .next t ∧ t.myIdx = n.val ∧ t.role = s.role
      ∧ t = { s.arrived (.fleet (.index n.val)) with regs := t.regs })
    ∧ (∀ (ids : List Nat) (part : BitVec 64) (cow : BitVec 16),
      let z := s.arrived (.fleet (.fleetMap ids part cow))
      let sent := fun (m : FleetMsg) => s.crew.map (fun n => (⟨7, BitVec.ofNat 12 (s.fld (fFleet n)), 0xFFFF, 32, .fleet m⟩ : Packet))
      (s.isCrew = true → ∃ t, exec (.fleetMap ids part cow) s = .next t ∧ (∀ k, k < 64 → t.fld (fFleetMap k) = ids.getD k 0 % 8192)
        ∧ t.rec_.mastPart = some (part, cow) ∧ t.mem = s.mem ∧ t.spad = s.spad ∧ t.comm = s.comm ∧ t.steps = s.steps)
      ∧ (s.isCrew = false → ids = s.mapIds → ∃ t, exec (.fleetMap ids part cow) s = .next t ∧ (∀ k, k < 64 → t.fld (fFleetMap k) = ids.getD k 0)
        ∧ t.portQ = z.portQ ++ sent (.fleetMap ids (s.word 0x70008) (BitVec.ofNat 16 (s.fld fCOWMASK))) ++ sent (.relay (.windows s.windows))
        ∧ t.mem = s.mem ∧ t.spad = s.spad ∧ t.comm = s.comm ∧ t.steps = s.steps))
    ∧ (∀ (off : Nat) (wide : Bool) (v : BitVec 64), 0x1000000 ≤ off → off < 0x2000000 → s.isCrew = false → s.pw.booting = false →
      let reads := fun (t : State) => exec (.crewWindowRead off wide) s = .next t
      let writes := fun (t : State) => exec (.crewWindowWrite off wide v) s = .next t
      ((s.crewPlace off).2 = none → reads (s.emit (.readData 0)) ∧ writes s)
      ∧ (∀ o, (s.crewPlace off).2 = some o →
        let n := (s.crewPlace off).1
        let sent := fun (i : RelayItem) => s.portQ ++ [⟨7, BitVec.ofNat 12 (s.fld (fFleet n)), 0xFFFF, 32, .fleet (.relay i)⟩]
        (n = 0 → writes (s.mmioWrite .host o wide v) ∧ reads ((s.mmioRead o wide).1.emit (.readData (s.mmioRead o wide).2)))
        ∧ (n ≠ 0 → (s.isMast = false ∨ s.fld (fFleet n) = 0) → reads (s.emit (.readData 0)) ∧ writes s)
        ∧ (n ≠ 0 → s.isMast = true → s.fld (fFleet n) ≠ 0 →
          reads { s with rec_ := { s.rec_ with cwReads := s.rec_.cwReads ++ [(n, o)] }, portQ := sent (.regRead (Fin.ofNat 64 n) o wide) }
          ∧ writes { s with portQ := sent (.regWrite (Fin.ofNat 64 n) o wide v) })))
    ∧ (∀ idx : Fin 64, s.held = false →
      (∀ r, s.rec_.cwReads.find? (fun r => r.1 = idx.val) = some r →
        ∃ t, exec (.crewReadTimeout idx) s = .next t ∧ t.flag ⟨0x10630, idx.val, 1⟩ = true ∧ t.rec_.cwReads = s.rec_.cwReads.erase r
          ∧ (s.out ++ [.readData (BitVec.allOnes 64)]) <+: t.out ∧ t.mem = s.mem)
      ∧ (∀ k, s.rec_.cwReads.find? (fun r => r.1 = idx.val) = none → s.heldWrite idx.val = some k →
        exec (.crewReadTimeout idx) s = .next { s with portQ := s.portQ.erase k }))
  ) ∧ (
  ∀ s : State, s.wf →
    let z := fun (i : RelayItem) => s.arrived (.fleet (.relay i))
    let takes := fun (i : RelayItem) (t : State) => exec (.relayedHostTraffic i) s = .next t
    (∀ idx : Fin 64, s.held = false → s.isMast = true → s.fld (fFleet idx.val) ≠ 0 → idx.val ≠ 0 →
      let passes := fun (i j : RelayItem) =>
        takes i { z i with portQ := (z i).portQ ++ [⟨7, BitVec.ofNat 12 (s.fld (fFleet idx.val)), 0xFFFF, 32, .fleet (.relay j)⟩] }
      (∀ (addr len value : Nat),
        (s.winOk true addr len = true → takes (.write idx addr len value) ((z (.write idx addr len value)).emit (.hostWrite addr (leBytes len value))))
        ∧ (s.winOk true addr len = false → passes (.write idx addr len value) (.outside idx addr value s.windows))
        ∧ (∀ i, i = .fetch idx addr len ∨ i = .read idx addr len →
          (s.winOk false addr len = true → takes i ((z i).emit (.hostRead addr len)))
          ∧ (s.winOk false addr len = false → passes i (.outside idx addr 0 s.windows))))
      ∧ (∀ v, let m := idx.val * 32 + v % 32
        (s.masked m = false → takes (.vector idx v) ((z (.vector idx v)).emit (.msix m (s.msixWord (2 * m)).toNat ((s.msixWord (2 * m + 1)).toNat % 2 ^ 32))))
        ∧ (s.masked m = true → ∃ t, takes (.vector idx v) t ∧ m ∈ t.pba ∧ t = { z (.vector idx v) with pba := t.pba }))
      ∧ (∀ i, (∃ off wide v, i = .doorbell idx off wide v) ∨ (∃ data, i = .fetchData idx data) ∨ (∃ data, i = .readData idx data)
          ∨ (∃ off wide v, i = .regWrite idx off wide v) → passes i i)
      ∧ (∀ off v, s.rec_.cwReads.contains (idx.val, off) = true → takes (.regReadData idx off v)
          (State.emit { z (.regReadData idx off v) with rec_ := { s.rec_ with cwReads := s.rec_.cwReads.erase (idx.val, off) } } (.readData v))))
    ∧ (∀ (idx : Fin 64) (off : Nat) (wide : Bool) (v : BitVec 64), s.held = false → s.isMast = true → s.fld (fFleet idx.val) = 0 →
      takes (.doorbell idx off wide v) ((z (.doorbell idx off wide v)).incFld fDBDROP))
    ∧ (∀ (idx : Fin 64) (off : Nat) (wide : Bool) (v : BitVec 64), s.held = false → s.isCrew = true →
      takes (.doorbell idx off wide v) ((z (.doorbell idx off wide v)).bell off v)
      ∧ takes (.regWrite idx off wide v) ((z (.regWrite idx off wide v)).mmioWrite .host off wide v)
      ∧ (let r := (z (.regRead idx off wide)).mmioRead off wide
        takes (.regRead idx off wide) (r.1.fleetTo 0 (.relay (.regReadData idx off r.2))))
      ∧ (∀ wins, takes (.windows wins) { z (.windows wins) with rec_ := { s.rec_ with mastWins := some wins } })
      ∧ (∀ addr value wins, takes (.outside idx addr value wins) ((z (.outside idx addr value wins)).outsideHere addr value wins))
      ∧ (∀ data, takes (.fetchData idx data) (z (.fetchData idx data)) ∧ takes (.readData idx data) (z (.readData idx data))))
    ∧ (s.isCrew = true → s.held = false → s.rec_.relayLost = false →
      exec .relayLost s = .next { s with rec_ := { s.rec_ with relayLost := true } })
    ∧ (s.rec_.relayLost = true → ∃ t, exec .relayReturn s = .next t ∧ t.rec_.relayLost = false ∧ t.heldVecs = [] ∧ t.steps = [] ∧ t.comm = s.comm ∧ t.live = s.comm
      ∧ t.mem = s.restorePages.mem ∧ t.spad = s.spad ∧ t.fld fEPOCH = (s.fld fEPOCH + 1) % 2 ^ 32)
    ∧ (s.isCrew = true → exec .relayHold s = .next { s.arrived (.fleet .relayHold) with pw := { s.pw with relayHold := true } }
      ∧ exec .relayResume s = .next { s.arrived (.fleet .relayResume) with pw := { s.pw with relayHold := false } })
    ∧ (s.pw.relayHold = true → exec .relayHoldTimeout s = .next { s with pw := { s.pw with relayHold := false } })
  )

/-- R485, R493, R494, R498, R499: the stream-7 descriptors. CKPT, on a node that is no crew node, completes with OK and the generation above CKP_GEN, and its step's commit will
fire a checkpoint; DRAIN_RANK marks its index; RESUME of a valid record that fits the node and its step keeps the record for the commit; LKREAD writes what the locker
returns, but nothing outside its destination. CKPT and DRAIN_RANK on a crew node complete with NOT_MASTHEAD, and each completes with EXEC_ERROR where a field, the locker, the slot or the record is wrong.

R468, R470, R484, R485, R489, R490, R495, R527, R586: a covered page of an uncommitted step is copied to a free slot once, and a protected page that a checkpoint has yet to write to its hold; with no slot a checkpoint under way is abandoned first, and the oldest step's page then sets SNAPFULL. The writer's commands follow each other as R489 says,
each after the completion of the one before; one is held back in Brace, or before a digest agreement; one that leaves the locker's range is not sent, and abandons the checkpoint. A failed command goes again twice, and the third failure abandons it. After the last Flush the slot is valid with its generation. The
generation is CKP_GEN once every rank has reported done. The locker's DMA reaches the pages that its command names alone (which, is log entry 54). -/
def Obligations.CheckpointsAreWritten : Prop :=
  (
  ∀ (s : State) (rg : Fin 64) (c : Nat) (x : InDesc), s.Startable (.ring rg c) x → x.step ≠ 0 →
    let d : DRef := .ring rg c
    let ok := fun (i : Instr) (res : Nat) (f : Step → Step) => ∃ t, exec i s = .next t ∧ t.Finished d x 0 res ∧ s.OnlyEnds t
      ∧ ∀ y, s.step? x.step = some y → (t.step? x.step).map (fun z => (z.ckpts, z.drains, z.resume)) = some ((f y).ckpts, (f y).drains, (f y).resume)
    let bad := fun (i : Instr) (cause : Nat) => ∃ t, exec i s = .next t ∧ t.Finished d x 0x0204 cause ∧ s.OnlyEnds t
    let a := dArg x.raw
    (dOp x.raw = 0x500 →
      (s.isCrew = true → bad (.ckpt d) 0x0F02)
      ∧ (s.isCrew = false → plainCkp x.raw 2 false = true → ok (.ckpt d) ((s.fld fGEN + 1) % 2 ^ 32) (fun y => { y with ckpts := y.ckpts ++ [(d, a 0)] }))
      ∧ (s.isCrew = false → plainCkp x.raw 2 false = false → bad (.ckpt d) 0x0F06))
    ∧ (dOp x.raw = 0x502 →
      let names := (a 0 = 0 ∨ s.fld (fFleet (a 0)) ≠ 0) ∧ (a 0 = s.myIdx → s.holdsRank = true) ∧ (a 0 ≠ s.myIdx → (s.rankOf (a 0)).isSome = true)
      (s.isCrew = true → bad (.drainRank d) 0x0F02)
      ∧ (s.isCrew = false → plainCkp x.raw 64 false = true → names → ok (.drainRank d) 0 (fun y => { y with drains := y.drains ++ [a 0] }))
      ∧ (s.isCrew = false → plainCkp x.raw 64 false = false ∨ ¬ names → bad (.drainRank d) 0x0F06))
    ∧ (dOp x.raw = 0x501 →
      let plain := plainCkp x.raw (2 ^ 64) false = true ∧ s.comm.stepCnt = 0 ∧ s.steps.head?.map (·.tag) = some x.step
        ∧ ∀ y ∈ s.descs, y.step = x.step → y.ref = d ∨ dOp y.raw = 3
      (∀ img, ¬ plain → bad (.resume d img) 0x0F06)
      ∧ (plain → (∀ img, s.flag fNOLOCKER = true → bad (.resume d img) 0x0F05)
        ∧ (s.flag fNOLOCKER = false →
          (∀ img, s.slotOfGen (a 0) = none → bad (.resume d img) 0x0F03)
          ∧ (s.slotOfGen (a 0) ≠ none → bad (.resume d none) 0x0F05 ∧ ∀ i : LkImage,
            let fits := crF i.record 256 12 = s.fld fRANK ∧ crF i.record 280 7 = s.fleetSize ∧ crF i.record 368 16 = s.protCount ∧ crF i.record 128 64 = x.step.toNat
            (validRecord i = false ∨ crF i.record 64 64 ≠ a 0 → bad (.resume d (some i)) 0x0F03)
            ∧ (validRecord i = true → crF i.record 64 64 = a 0 → (¬ fits → bad (.resume d (some i)) 0x0F04)
              ∧ (fits → ok (.resume d (some i)) 0 (fun y => { y with resume := some i })))))))
    ∧ (dOp x.raw = 0x503 → ∀ dma : Option (List (Nat × List Byte)),
      let len := a 2
      let dst := dProg x.raw
      let plain := plainCkp x.raw (2 ^ 64) true = true ∧ a 1 % 4096 = 0 ∧ len % 4096 = 0 ∧ 0 < len ∧ len ≤ 2 ^ 30 ∧ dst % 4096 = 0 ∧ dst + len ≤ memSize
        ∧ a 1 + len ≤ s.slotBlocks * 4096 ∧ ∀ p ∈ pagesOf dst len, s.groupKind (groupOf (p * 4096)) = 0
      (¬ plain → bad (.lkread d dma) 0x0F06)
      ∧ (plain → (s.flag fNOLOCKER = true → bad (.lkread d dma) 0x0F05)
        ∧ (s.flag fNOLOCKER = false →
          (s.slotOfGen (a 0) = none → bad (.lkread d dma) 0x0F03)
          ∧ (s.slotOfGen (a 0) ≠ none → bad (.lkread d none) 0x0F05 ∧ ∀ l s', dma = some l →
            let put := l.filter (fun p => decide (dst ≤ p.1) && decide (p.1 + p.2.length ≤ dst + len))
            s.writes (s.writer d 0xF0) put = .ok s' → s.ckpt = none →
            ∃ t, exec (.lkread d dma) s = .next t ∧ t.Finished d x 0 0 ∧ t.mem = put.foldl (fun m p => memWrite m p.1 p.2) s.mem
              ∧ t.spad = s.spad ∧ t.regs = s.regs ∧ t.comm = s.comm))))
  ) ∧ (
  ∀ s : State, s.mapsOk →
    (∀ (tag : ImgTag) (page : Nat) (ev : List HwEv), page < 2 ^ 27 →
      (∃ t, tag = .step t ∧ t ≠ 0 ∧ s.covered page = true ∧ s.steps.any (fun x => x.tag = t) = true)
        ∨ (tag = .hold ∧ s.groupKind (groupOf (page * 4096)) = 1 ∧ s.ckpt.any (fun c => !c.written.contains page) = true) →
      let copy := exec (.cowImageCopy tag page ev) s
      let stack := s.stackOf (page * 4096)
      let img : Image := ⟨tag, page, stack, s.pageBytes page, s.pageOpen page⟩
      (s.images.any (fun i => i.tag = tag ∧ i.page = page) = true → copy = .next s)
      ∧ (s.images.any (fun i => i.tag = tag ∧ i.page = page) = false → ev = [] →
        (s.slotFree stack = true → copy = .next { s with images := s.images ++ [img] })
        ∧ (s.slotFree stack = false → s.ckpt.isSome = true → ∃ u, copy = .next u ∧ u.ckpt = none ∧ u.flag fABANDON = true
          ∧ ((s.abandonCkpt fABANDON).slotFree stack = true → img ∈ u.images))
        ∧ (∀ t, tag = .step t → s.slotFree stack = false → s.ckpt = none →
          (s.steps.any (fun x => x.tag < t) = false → copy = .next (s.setFld fSNAPFULL 1))
          ∧ (s.steps.any (fun x => x.tag < t) = true → copy = .next s))))
    ∧ (∀ c : CkptRun, s.ckpt = some c → c.held = false →
      let d := { c with retries := 0 }
      let ok := exec (.lockerCompletion .ok) s
      (∀ st, c.retries < 2 → exec (.lockerCompletion (.error st)) s = .next (s.ckptSend { c with retries := c.retries + 1 }))
      ∧ (∀ st, 2 ≤ c.retries → ∃ t, exec (.lockerCompletion (.error st)) s = .next t ∧ t.ckpt = none ∧ t.flag fLOCKERR = true
        ∧ t.images = s.images.filter (fun i => i.tag ≠ .hold) ∧ t.fld fGEN = s.fld fGEN ∧ t.mem = s.mem)
      ∧ (c.phase = 1 → ok = .next (s.ckptSend { d with phase := 2, cur := none }))
      ∧ (c.phase = 3 ∨ c.phase = 4 ∨ c.phase = 5 → ok = .next (s.ckptSend { d with phase := c.phase + 1 }))
      ∧ (c.phase = 2 → c.cur = none → ok = .next (s.ckptUnit d))
      ∧ (∀ p, c.phase = 2 → c.cur = some p → ok = .next (State.ckptUnit { s with images := s.images.filter (fun i => ¬ (i.tag = .hold ∧ i.page = p)) } { d with written := p :: c.written }))
      ∧ (c.phase = 6 → c.slot < 2 → c.gen < 2 ^ 64 → ∃ t, ok = .next t ∧ t.ckpt = none ∧ t.mem = s.mem
        ∧ t.flag (fLKVALID c.slot) = true ∧ t.fld (fLKGEN c.slot) = c.gen
        ∧ (s.role = 2 → t.portQ = s.portQ ++ [⟨7, s.nodeAt 0, 0xFFFF, 32, .fleet (.ckptDone s.myIdx c.gen)⟩])
        ∧ (s.role = 0 → s.fleetSize ≤ 1 → s.idxOfRank 0 = s.myIdx → t.fld fGEN = c.gen)))
    ∧ (∀ c : CkptRun, c.held = false →
      let wait := c.paused = true ∨ (c.phase = 5 ∧ c.needDig = true)
      let fits := s.slotLba c.slot + 1 ≤ s.fld fLKBASE + s.fld fLKCOUNT
      (wait → s.ckptSend c = { s with ckpt := some { c with held := true } })
      ∧ (¬ wait → c.phase = 4 ∨ c.phase = 6 → s.ckptSend c = { s with ckpt := some { c with prps := [] }, out := s.out ++ [.locker 0 0 0 false []] })
      ∧ (¬ wait → c.phase = 1 → fits → ∃ t y, s.ckptSend c = t ∧ t.ckpt = some { c with prps := y } ∧ t = { s with ckpt := t.ckpt, out := t.out, freeCtr := t.freeCtr }
        ∧ t.out = s.out ++ [.locker 1 (s.slotLba c.slot) 1 true (List.replicate 4096 0)])
      ∧ (¬ wait → c.phase = 5 → fits → ∃ t y r, s.ckptSend c = t ∧ t.ckpt = some { c with prps := y } ∧ t = { s with ckpt := t.ckpt, out := t.out, freeCtr := t.freeCtr }
        ∧ t.out = s.out ++ [.locker 1 (s.slotLba c.slot) 1 true r] ∧ getBits (leNat r) 64 64 = c.gen % 2 ^ 64 ∧ getBits (leNat r) 128 64 = c.tag.toNat)
      ∧ (¬ wait → c.phase = 1 ∨ c.phase = 5 → ¬ fits → (s.ckptSend c).ckpt = none ∧ (s.ckptSend c).flag fLOCKERR = true ∧ (s.ckptSend c).mem = s.mem))
    ∧ (∀ (write : Bool) (addr : Nat) (data : List Byte),
      let ok := s.ckpt.any (fun c => !c.held && (pagesOf addr (max data.length 1)).all c.prps.contains)
      exec (.lockerCompletion (.dma write addr data)) s
        = .next (State.emit { s with mem := if ok && write then memWrite s.mem addr data else s.mem } (.lockerDma addr ok)))
    ∧ (∀ (idx : Fin 64) (gen : Nat), gen < 2 ^ 64 →
      let l := if s.mh.ckptDone.contains idx.val then s.mh.ckptDone else s.mh.ckptDone ++ [idx.val]
      let z := s.arrived (.fleet (.ckptDone idx.val gen))
      (s.role ≠ 2 → s.mh.ckptOpen = true → gen = s.fld fGEN + 1 →
        ((List.range (max s.fleetSize 1)).all (fun r => l.contains (s.idxOfRank r)) = true →
          ∃ t, exec (.checkpointDone idx gen false) s = .next t ∧ t.fld fGEN = gen ∧ t.mh.ckptOpen = false ∧ t = { z with regs := t.regs, mh := t.mh })
        ∧ ((List.range (max s.fleetSize 1)).all (fun r => l.contains (s.idxOfRank r)) = false →
          exec (.checkpointDone idx gen false) s = .next { z with mh := { s.mh with ckptDone := l } })
        ∧ ∃ t, exec (.checkpointDone idx gen true) s = .next t ∧ t.ckpt = none ∧ t.mh.ckptOpen = false ∧ t.fld fGEN = s.fld fGEN ∧ t.mem = s.mem)
      ∧ (s.role = 2 → s.ckpt.any (fun c => c.gen = gen) = true → exec (.checkpointDone idx gen true) s = .next (State.dropCkpt (s.arrived (.fleet (.ckptAbandon gen))))))
  )

/-- R446, R449, R471, R472, R480: a rank holder whose oldest step is locally done, with earlier records posted, log entries written and trails secured, sends step-done once: a crew node by
a message with the step tag, its rank and its two hashes; one that a trail alone holds back counts it once. A masthead takes a member's step-done, shows one whose fleet hash differs, and decides a commit when it holds
one from every rank, which it broadcasts; a BID hash that is reported is kept, and a takeover that waits for a spare takes the one that reports.

R62, R436, R469, R472, R489: a commit. On a standalone node, on a rank holder that is told of it, and on the masthead, the oldest step leaves with its images, its tag and digest become the last
committed ones, and the step count rises by one; a spare counts the step. Memory stays, where no schedule entry, checkpoint, resume or drain comes with the commit. With a CKPT descriptor of the step a checkpoint begins,
with the next generation. A standalone node in Brace, or after an unsecured loss, waits. -/
def Obligations.StepsCommit : Prop :=
  (
  (∀ (s : State) (x : Step), s.steps.head? = some x →
    let ready := s.holdsRank = true ∧ x.doneSent = false ∧ s.localDone x = true ∧ s.sendsDone = true ∧ s.rec_.waitGo = false
    (¬ ready → exec (.stepDone x.tag) s = .next s)
    ∧ (ready → s.fld fRMODE ≠ 2 → s.mapsOk →
      (s.trailsSecured = false → x.stalled = false → ∃ t, exec (.stepDone x.tag) s = .next t
        ∧ t.fld fTRAILHOLD = min (s.fld fTRAILHOLD + 1) (2 ^ 32 - 1) ∧ t = { s with regs := t.regs, steps := t.steps } ∧ t.portQ = s.portQ)
      ∧ (s.trailsSecured = false → x.stalled = true → exec (.stepDone x.tag) s = .next s)
      ∧ (s.trailsSecured = true →
        let done := fun (t : State) => exec (.stepDone x.tag) s = .next t ∧ (t.steps.head?.map (·.doneSent)) = some true
        (s.role = 2 → ∃ t, done t ∧ t = { s with steps := t.steps, portQ := t.portQ }
          ∧ t.portQ = s.portQ ++ [⟨7, s.nodeAt 0, 0xFFFF, 32, .fleet (.stepDone s.myIdx (s.fld fRANK) x.tag (s.flag fFLAGGED && !s.flag fBRACE)
              (s.bidHash true) s.bidHash)⟩])
        ∧ (s.role = 0 → ∃ t, done t ∧ t = { s with steps := t.steps })
        ∧ (s.role = 1 → s.mh.committing.isSome = true → ∃ t, done t ∧ t = { s with steps := t.steps, mh := t.mh }
          ∧ t.mh.dones = s.mh.dones.filter (fun d => ¬ (d.1 = s.myIdx ∧ d.2.2.1 = x.tag)) ++ [(s.myIdx, s.fld fRANK, x.tag, s.flag fFLAGGED && !s.flag fBRACE)]))))
  ∧ (∀ (s : State) (idx : Fin 64) (rank : Nat) (tag : BitVec 64) (drain : Bool) (fbid bid : BitVec 64), s.isMast = true → s.mapsOk →
    let l := s.mh.dones.filter (fun d => ¬ (d.1 = idx.val ∧ d.2.2.1 = tag)) ++ [(idx.val, rank, tag, drain)]
    let z := s.arrived (.fleet (.stepDone idx.val rank tag drain fbid bid))
    ∃ t, exec (.stepDoneReceive idx rank tag drain fbid bid) s = .next t ∧ t.mh.dones = l
      ∧ t.mem = s.mem ∧ t.comm = s.comm ∧ (fbid = s.bidHash true → t.regs = z.regs) ∧ (fbid ≠ s.bidHash true → t.flag ⟨0x30038, 0, 1⟩ = true)
      ∧ (l.head?.map (fun d => d.2.2.1) = some tag → s.mh.committing = none → s.flag fBRACE = false → s.mh.unsecured = false → s.rec_.waitGo = false →
        (∀ r, r < s.fleetSize → l.any (fun d => d.2.1 == r && d.2.2.1 == tag) = true) →
        t.mh.committing = some tag
          ∧ t.portQ = z.portQ ++ s.crew.map (fun n => ⟨7, BitVec.ofNat 12 (s.fld (fFleet n)), 0xFFFF, 32, .fleet (.commit tag t.mh.marks)⟩))
      ∧ (s.mh.committing = none → (∃ r, r < s.fleetSize ∧ l.any (fun d => d.2.1 == r) = false) →
        t.mh.committing = none ∧ t.portQ = z.portQ ∧ t.steps = s.steps ∧ t.descs = s.descs))
  ∧ (∀ (s : State) (idx : Fin 64) (rank : Nat) (bid : BitVec 64), s.isMast = true →
    let z := s.arrived (.fleet (.bid idx.val rank bid))
    (s.mh.noSpare = false → exec (.bidHashReport idx rank bid) s = .next (if rank < s.fleetSize then
        { z with mh := { s.mh with rankBid := SM.setD 0 s.mh.rankBid rank bid, ranks := SM.setD 4095 s.mh.ranks idx.val rank } }
      else { z with mh := { s.mh with bids := SM.setD 0 s.mh.bids idx.val bid } }))
    ∧ (∀ r, s.mh.noSpare = true → s.mh.lostRanks = [r] → s.mh.bound = [] → idx.val ∈ s.crew → s.rankOf idx.val = none → s.fleetSize ≤ rank →
      ∃ t, exec (.bidHashReport idx rank bid) s = .next t ∧ t.mh.bound = [(r, idx.val)] ∧ t.mh.noSpare = false
        ∧ t = { z with mh := t.mh, portQ := t.portQ }))
  ) ∧ (
  (∀ (s : State) (x : Step) (marks : List Nat), s.steps = [x] → x.doneSent = true → x.resume = none → x.drains = [] →
    s.comm.sched = [] → s.due = [] → s.rec_.deferCkpt = [] → s.rec_.digGroups = [] → s.ckpt = none → s.mapsOk →
    s.mh.aftertake = false → s.flag fFLAGGED = false → s.flag fBRACE = false → s.mh.unsecured = false → s.pw.d3 = false →
    let done := fun (t : State) => exec (.commitApply x.tag marks) s = .next t ∧ t.steps = [] ∧ t.comm.lastTag = x.tag
      ∧ t.comm.stepCnt = s.comm.stepCnt + 1 ∧ t.comm.flags = (s.commAfter x.tag).flags ∧ t.comm.uf = (s.commAfter x.tag).uf
      ∧ t.comm.regions = (s.commAfter x.tag).regions ∧ t.comm.groups = (s.commAfter x.tag).groups ∧ t.comm.sol = (s.commAfter x.tag).sol
      ∧ t.mem = s.mem ∧ t.spad = s.spad
    (x.ckpts = [] → (s.role = 0 ∨ (s.role = 2 ∧ s.holdsRank = true ∧ ∀ m ∈ marks, 2 ^ 40 ≤ m) ∨ (s.role = 1 ∧ s.mh.committing = some x.tag ∧ ∀ m ∈ s.mh.marks, 2 ^ 40 ≤ m)) →
      ∃ t, done t ∧ t.comm.lastDig = s.stepDigest x ∧ t.images = s.images.filter (fun i => i.tag ≠ .step x.tag))
    ∧ (∀ d cls, s.role = 0 → x.ckpts = [(d, cls)] → cls < 2 → s.mh.ckptOpen = false → s.holdsRank = true → s.flag fNOLOCKER = false → 2 * s.slotBlocks ≤ s.fld fLKCOUNT →
      ∃ t k, done t ∧ t.ckpt = some k ∧ k.gen = s.fld fGEN + 1 ∧ k.cls = cls ∧ k.tag = x.tag ∧ t.mh.ckptOpen = true))
  ∧ (∀ (s : State) (x : Step) (marks : List Nat), s.role = 0 → s.steps.head? = some x → x.doneSent = true → s.flag fBRACE = true ∨ s.mh.unsecured = true →
    exec (.commitApply x.tag marks) s = .next (s.arrived (.fleet (.commit x.tag marks))))
  ∧ (∀ (s : State) (tag : BitVec 64) (marks : List Nat), s.role = 2 → s.holdsRank = false → s.comm.lastTag.toNat < tag.toNat → s.comm.sched = [] →
    (∀ m ∈ marks, 2 ^ 40 ≤ m) → ∃ t, exec (.commitApply tag marks) s = .next t ∧ t.comm.lastTag = tag ∧ t.comm.stepCnt = s.comm.stepCnt + 1
      ∧ t.mem = s.mem ∧ t.spad = s.spad ∧ t.descs = s.descs)
  )

/-- R67, R469, R473, R479, R539: a rollback restores every page that has an image of an uncommitted step from the image of the oldest one, and the register state to the committed
copy; uncommitted steps, remote and collective operations, programs and engines end; the epoch is the new one, the node waits for GO, and scratchpads stay. The masthead begins one with a loss that it counts; a relay's loss during a hold, and a rank lost already, begin none.

R473, R480 to R483, R560: what the masthead does with the loss of a rank holder, beside the rollback. A secured loss with a fit spare binds to the rank the lowest such spare whose BID hash is the rank's, or the lowest; with none it sets
NOSPARE; a loss that no living buddy covers, or of the masthead itself, sets UNSECURED. GO is broadcast once nothing of this stands, and not before; with it the trails to buddies under rebuild go out. -/
def Obligations.RollbackAndLosses : Prop :=
  (
  ∀ s : State, s.wf →
    let rolled := fun (t : State) (e : Nat) => t.mem = s.restorePages.mem ∧ t.spad = s.spad ∧ t.comm = s.comm ∧ t.live = s.comm ∧ t.trans = []
      ∧ t.steps = [] ∧ (∀ i ∈ t.images, i ∈ s.images ∧ i.tag = .hold) ∧ t.remote.ops = [] ∧ t.coll = {} ∧ t.spar = [] ∧ t.fld fEPOCH = e
      ∧ t.rec_.waitGo = true ∧ ∀ d ∈ t.descs, d ∈ s.descs ∧ ∃ r c, d.ref = .ring r c ∧ (s.isImm r.val = true ∨ d.committed = true)
    (∀ (tag : BitVec 64) (e : BitVec 32), s.role = 2 → ∃ t, exec (.rollback tag e) s = .next t ∧ rolled t e.toNat)
    ∧ (∀ e : BitVec 32, s.role ≠ 2 → e.toNat = (s.fld fEPOCH + 1) % 2 ^ 32 → ∃ t, exec (.rollback s.comm.lastTag e) s = .next t ∧ rolled t e.toNat)
    ∧ (∀ (idx : Fin 64) (why : LossCause) (sec : Bool) (fit : List (Fin 64)), s.role ≠ 2 → why ≠ .relay ∨ s.held = false →
      ((∀ r, s.rankOf idx.val = some r → r ∉ s.mh.lostRanks) → ∃ t, exec (.nodeLost idx why sec fit) s = .next t ∧ rolled t ((s.fld fEPOCH + 1) % 2 ^ 32))
      ∧ (∀ r, s.rankOf idx.val = some r → r ∈ s.mh.lostRanks → (∀ b ∈ s.mh.bound, b.1 ≠ r) → ∃ t, exec (.nodeLost idx why sec fit) s = .next t
        ∧ t = { s.arrived (.fleet (.lost (BitVec.ofNat 12 (s.fld (fFleet idx.val))) why)) with mh := t.mh }))
    ∧ (∀ p i, s.steps ≠ [] → (∀ j ∈ s.images, j.page = p → j = i) → i ∈ s.images → i.page = p → i.tag = .step (s.steps.headD { tag := 0 }).tag →
      ∀ k, k < 4096 → SM.getD 0 s.restorePages.mem (p * 4096 + k) = SM.getD 0 i.bytes k)
    ∧ (∀ a, (∀ j ∈ s.images, j.page ≠ a / 4096) → SM.getD 0 s.restorePages.mem a = SM.getD 0 s.mem a)
  ) ∧ (
  ∀ s : State, s.mapsOk →
    (∀ (idx : Fin 64) (r : Nat) (sec : Bool) (fit : List (Fin 64)), s.role ≠ 2 → s.rankOf idx.val = some r → s.mh.lostRanks = [] → s.mh.bound = [] →
      s.flag fFLAGGED = false →
      ((idx.val = s.myIdx ∨ sec = false ∨ buddyCount s.fleetSize = 0) → ∃ t, exec (.nodeLost idx .dead sec fit) s = .next t
        ∧ t.mh.unsecured = true ∧ t.flag fUNSECURED = true)
      ∧ (idx.val ≠ s.myIdx → sec = true → 0 < buddyCount s.fleetSize → buddyRank s.fleetSize r 0 ≠ r →
        let c := s.crew.filter (fun n => (fit.map Fin.val).contains n && (s.rankOf n).isNone)
        let want := SM.getD 0 s.mh.rankBid r
        let pick := (c.find? (fun n => SM.getD 0 s.mh.bids n = want ∧ want ≠ 0)).or c.head?
        (pick = none → ∃ t, exec (.nodeLost idx .dead sec fit) s = .next t ∧ t.mh.noSpare = true ∧ t.flag fNOSPARE = true ∧ t.mh.lostRanks = [r])
        ∧ (∀ n, pick = some n → ∃ t, exec (.nodeLost idx .dead sec fit) s = .next t ∧ t.mh.bound = [(r, n)] ∧ t.mh.lostRanks = [r]
          ∧ t.mh.noSpare = false)))
    ∧ (s.rec_.waitGo = true →
      let z := s.arrived (.fleet .go)
      let free := fun (q : List Packet) => State.rebuildTrails { z with rec_ := { s.rec_ with waitGo := false }, portQ := q }
      let stays := s.mh.bound ≠ [] ∨ s.mh.lostRanks ≠ [] ∨ s.mh.unsecured = true ∨ s.mh.noSpare = true ∨ s.rec_.needPages ≠ [] ∨ s.flag fBRACE = true
      (s.role = 2 → exec .go s = .next (free z.portQ))
      ∧ (s.role ≠ 2 → stays → exec .go s = .next z)
      ∧ (s.role ≠ 2 → ¬ stays → exec .go s = .next (free (z.portQ ++ s.crew.map (fun n => ⟨7, BitVec.ofNat 12 (s.fld (fFleet n)), 0xFFFF, 32, .fleet .go⟩)))))
  )

/-- R69, R303, R466, R476, R477, R480, R481, R492, R507, R521: trails and takeover. A page whose four parts have come with the CRC of their bytes is written to its place and nowhere else; with a wrong CRC it is asked for
again. A trail is answered with SECURED when its record is there, no page is missing, and no mirror page of its rank is stale. SECURED ends the trail at its owner, and with the last one a drained node leaves the ranks; RESEND sends the page, or the
record, again. A bound spare wipes its memory and takes the rank with its index, its rings and its epoch; the buddy that is the source sends its mirror; ready, the spare holds the register state; the masthead then counts the rank taken over. -/
def Obligations.TrailsAndTakeover : Prop :=
  ∀ s : State, s.mapsOk →
    (∀ (p : Fin 16) (h : TrailHdr), h.job.toNat = s.fld fJOBSTAMP → h.dst.toNat = s.fld fNODEID →
      (∀ (b0 b1 b2 b3 : List Byte) (q : Nat), h.kind = 0 → s.trailPage h.rank.toNat h.page = some q →
        let z := s.arrived (.trail h b3)
        ((s.rxOf h).parts = [] → exec (.trailPacketReceive p h b3) s = .next (z.setRx { z.rxOf h with parts := [(h.page, h.part, b3)] }))
        ∧ (h.part = 3 → (s.rxOf h).regs = false → (s.rxOf h).parts = [(h.page, 0, b0), (h.page, 1, b1), (h.page, 2, b2)] →
          let bs := b0 ++ b1 ++ b2 ++ b3
          ∃ t, exec (.trailPacketReceive p h b3) s = .next t ∧ t.spad = s.spad ∧ t.regs = z.regs ∧ t.comm = s.comm ∧ t.steps = s.steps
            ∧ (BitVec.ofNat 32 (Sha.crc32 bs) = h.crc → t.mem = memWrite s.mem (q * 4096) bs)
            ∧ (BitVec.ofNat 32 (Sha.crc32 bs) ≠ h.crc → t.mem = s.mem ∧ (t.rxOf h).bad = h.page :: (s.rxOf h).bad.filter (· ≠ h.page)
              ∧ ∃ k, t.portQ = z.portQ ++ [⟨5, h.src, 0xFFFF, 32, .trail k []⟩] ∧ k.kind = 3 ∧ k.page = h.page ∧ k.rank = h.rank)))
      ∧ (∀ data : List Byte, h.kind = 1 → h.page = 0 → s.trailRx = [] → s.rec_.stale = [] → h.crc ≠ 0 →
        let z := s.arrived (.trail h data)
        ∃ t k, exec (.trailPacketReceive p h data) s = .next t ∧ t.portQ = z.portQ ++ [⟨5, h.src, 0xFFFF, 32, .trail k []⟩]
          ∧ k.rank = h.rank ∧ k.tag = h.tag ∧ t = { z with trailRx := t.trailRx, portQ := t.portQ }
          ∧ (h.crc = BitVec.ofNat 32 (Sha.crc32 data) → k.kind = 2 ∧ (t.rxOf h).secured = true)
          ∧ (h.crc ≠ BitVec.ofNat 32 (Sha.crc32 data) → k.kind = 3 ∧ k.part = 1 ∧ (t.rxOf h).secured = false))
      ∧ (h.kind = 2 →
        let z := s.arrived (.trail h [])
        let hit := fun (x : Trail) => x.tag == h.tag && s.nodeAt (s.idxOfRank (buddyRank s.fleetSize (s.fld fRANK) x.buddy)) == h.src
        (s.rec_.drained = false → ∃ t, exec (.secured p h) s = .next t ∧ t.trails = s.trails.filter (fun x => !hit x)
          ∧ (∀ b, b ∈ t.rec_.rebuild ↔ b ∈ s.rec_.rebuild ∧ ∀ x ∈ s.trails, hit x = true → x.full = true → x.buddy ≠ b)
          ∧ (t.rec_.rebuild = [] → t.flag fREBUILD = false) ∧ t = { z with trails := t.trails, rec_ := { s.rec_ with rebuild := t.rec_.rebuild }, regs := t.regs })
        ∧ (s.rec_.drained = true → s.holdsRank = true → s.rec_.rebuild = [] → s.trails.filter (fun x => !hit x) = [] →
          ∃ t, exec (.secured p h) s = .next t ∧ t.trails = [] ∧ t.holdsRank = false ∧ t.flag fDRAINED = true ∧ t.flag fMRUN = true ∧ t.fld fMPROF = 0x10))
      ∧ (h.kind = 3 →
        let z := s.arrived (.trail h [])
        let hd := { z.trailHdr 0 h.src h.tag h.page with rank := h.rank }
        let sends := fun (h' : TrailHdr) (bs : List Byte) => exec (.resend p h) s = .next { z with portQ := z.portQ ++ trailPkts h.src h' bs }
        (h.part = 1 → sends { hd with kind := 1, page := 0 } (Config.regRecord h.tag.toNat))
        ∧ (h.part ≠ 1 → h.rank.toNat = s.fld fRANK → sends hd (s.committedPage h.page))
        ∧ (∀ q, h.part ≠ 1 → h.rank.toNat ≠ s.fld fRANK → s.trailPage h.rank.toNat h.page = some q → sends hd (s.rdBytes (q * 4096) 4096))))
    ∧ (∀ (rank : Nat) (idx : Fin 64) (e : BitVec 32) (src : Fin 2) (ps cs : List (Nat × Nat × Nat)) (rs : List (Nat × BitVec 64)),
      let bind := exec (.spareBind rank idx e src ps cs rs) s
      (s.role = 2 → s.holdsRank = false → rank < s.fleetSize → s.fleetSize ≤ 64 → ∃ t, bind = .next t ∧ t.mem = []
        ∧ t.fld fRANK = rank ∧ t.myIdx = idx.val ∧ t.fld fEPOCH = e.toNat ∧ t.descs = [] ∧ t.steps = [] ∧ t.images = []
        ∧ t.rec_.takenOver = true ∧ t.rec_.waitGo = true ∧ t.spad = (if s.flag fMRUN then [] else s.spad)
        ∧ ∀ r tl hd, ps = [(r, tl, hd)] → (t.ring r).tail = BitVec.ofNat 32 tl ∧ (t.ring r).head = BitVec.ofNat 32 hd ∧ (t.ring r).retire = BitVec.ofNat 32 hd)
      ∧ (s.role = 2 → s.holdsRank = true → src.val < buddyCount s.fleetSize → buddyRank s.fleetSize rank src.val = s.fld fRANK →
        s.trailRx.any (fun t => t.rank = rank ∧ t.secured ∧ t.tag = s.comm.lastTag) = true →
        let z := s.arrived (.fleet (.bind rank idx.val e))
        bind = .next (z.sendMirror rank (3 + src.val) (s.nodeAt idx.val) s.comm.lastTag))
      ∧ (∀ n, s.role ≠ 2 → s.mh.bound = [(rank, n)] → s.trailRx = [] → n < 64 → s.idxOfRank rank < 64 → s.idxOfRank rank ≠ n →
        ∃ t, bind = .next t ∧ t.fld (fFleet (s.idxOfRank rank)) = s.fld (fFleet n)
          ∧ t.fld (fFleet n) = 0 ∧ t.mem = s.mem ∧ t.comm = s.comm))
    ∧ (∀ (idx : Fin 64) (regs : RegState) (cells : List (Nat × Byte)) (waiting : List Rec) (ends : List (Fin 64 × Nat)),
      let ready := exec (.spareReady idx regs cells ⟨waiting, ends⟩) s
      (s.rec_.takenOver = true → s.myIdx = idx.val → ∃ t, ready = .next t ∧ t.comm = regs ∧ t.live = regs
        ∧ t.mem = cells.foldl (fun m c => if c.1 < memSize ∧ s.groupKind (groupOf c.1) = 1 then SM.setD 0 m c.1 c.2 else m) s.mem
        ∧ t.rec_.takenOver = false)
      ∧ (∀ b, s.rec_.takenOver = false → s.mh.bound.find? (fun b => s.idxOfRank b.1 = idx.val) = some b → ready
        = .next { s.arrived (.fleet (.spareReady idx.val)) with mh := { s.mh with
            bound := s.mh.bound.filter (fun x => x.1 ≠ b.1), lostRanks := s.mh.lostRanks.filter (· ≠ b.1), aftertake := s.mh.aftertake || s.flag fAFTERTAKE } }))

/-! ## Reset, boot, power and security (chapters 17 and 18) -/

/-- R528, R529, R531, R532, R533, R534, R535, R553, R559, R562, R563: what the reset commands leave. Every class from JOB up wipes node memory and the scratchpads, discards open steps, descriptors and records, and returns the
committed register state; PERST and COLD also disable every ring and clear the epoch. A supply's fall, THERMTRIP, PERST_N, a hot reset, the host link's fall and RESET_N do the broader two, the watchdog and the host's key the WARM one, and JOB loads
the job ID, at the node and, over VC7, at every crew node. A reset command that finds the reset already under way starts no second one. A node whose map is damaged refuses job assignment, with no effect (log entry 39), and the end of a JOB reset may
begin a margin test that a takeover cut short (log entry 56). -/
def Obligations.ResetsWipe : Prop :=
  ∀ s : State, s.wf →
    let wiped := fun (t : State) => t.mem = [] ∧ t.spad = [] ∧ t.steps = [] ∧ t.descs = [] ∧ t.recs = [] ∧ t.comm = RegState.reset ∧ t.live = RegState.reset
      ∧ t.tr = [] ∧ t.wa = [] ∧ t.spar = [] ∧ t.coll = {} ∧ t.images = [] ∧ t.flag fJOBLOCK = false ∧ t.pending = s.pending
      ∧ t.fld fLIFESTEP = s.fld fLIFESTEP ∧ t.part.fuseMap = s.part.fuseMap ∧ t.part.lcRow0 = s.part.lcRow0 ∧ t.part.uds = s.part.uds
    let broad := fun (t : State) => wiped t ∧ t.sq = [] ∧ t.cq = [] ∧ t.msix = [] ∧ t.pba = [] ∧ t.fld fEPOCH = 0 ∧ t.pw.booting = true ∧ t.pw.warm = false ∧ t.flag fREADY = false
    let cold := fun (t : State) => broad t ∧ t.tt.ring = [] ∧ t.pw.cold = true
    (∀ kept, (s.pw.thermtrip = false → ∃ t, exec (.powerOn kept) s = .next t ∧ cold t ∧ t.pw.supplyLow = false)
      ∧ (s.pw.thermtrip = true → exec (.powerOn kept) s = .next s))
    ∧ (s.pw.supplyLow = false → ∃ t, exec .vinLow s = .next t ∧ cold t ∧ t.pw.supplyLow = true ∧ (1, 0) ∈ t.pw.causes)
    ∧ (s.pw.supplyLow = true → exec .vinLow s = .next s)
    ∧ (∀ low, ∃ t, exec (.vauxLow low) s = .next t ∧ t.pw.supplyLow = true ∧ t.pw.thermtrip = false ∧ t.pw.resetLow = false ∧ t.alertCause = 0 ∧ t.alertMask = 0x1F
      ∧ (s.pw.supplyLow = false → cold t ∧ (1, 0) ∈ t.pw.causes)
      ∧ (s.pw.supplyLow = true → t = { s with pw := t.pw, alertCause := 0, alertMask := 0x1F }))
    ∧ (s.pw.thermtrip = false → ∃ t, exec .thermtrip s = .next t ∧ cold t ∧ t.pw.thermtrip = true ∧ t.pw.resetLow = true
      ∧ t.fld (fCause 2) = min (s.fld (fCause 2) + 1) (2 ^ 32 - 1) ∧ t.fld fLASTIDX = 2 ∧ t.fld fLASTCLS = 0)
    ∧ (s.pw.thermtrip = true → exec .thermtrip s = .next s)
    ∧ (s.pw.supplyLow = false → s.pw.thermtrip = false →
      (∃ t, exec (.perst .pin false) s = .next t ∧ broad t ∧ t.pw.perstLow = true ∧ (3, 1) ∈ t.pw.causes)
      ∧ exec (.perst .pin true) s = .next { s with pw := { s.pw with perstLow := false } }
      ∧ (∀ c, c ≠ .pin → s.isCrew = false → ∃ t, exec (.perst c false) s = .next t ∧ broad t ∧ t.pw.perstLow = s.pw.perstLow ∧ (3, 1) ∈ t.pw.causes)
      ∧ (s.pw.resetLow = false → ∃ t, exec (.resetN false) s = .next t ∧ broad t ∧ t.pw.resetLow = true ∧ (4, 1) ∈ t.pw.causes)
      ∧ (s.pw.resetLow = true → exec (.resetN false) s = .next s)
      ∧ exec (.resetN true) s = .next { s with pw := { s.pw with resetLow := false } })
    ∧ ((s.pw.supplyLow = true ∨ s.pw.thermtrip = true) → ∀ up,
      exec (.perst .pin up) s = .next { s with pw := { s.pw with perstLow := !up } }
      ∧ exec (.resetN up) s = .next { s with pw := { s.pw with resetLow := !up || s.pw.thermtrip } })
    ∧ (s.pw.booting = false → s.pw.blks = [] →
      (∀ v : BitVec 64, v.toNat % 256 = 0xA5 → ∃ t, exec (.warmReset v) s = .next t ∧ wiped t
        ∧ t.pw.booting = true ∧ t.pw.warm = true ∧ t.fld fEPOCH = s.fld fEPOCH ∧ t.fld fLASTIDX = 5 ∧ t.fld fLASTCLS = 2)
      ∧ (∀ v : BitVec 64, v.toNat % 256 ≠ 0xA5 → ∃ t, exec (.warmReset v) s = .next t
        ∧ t.flag fJOBLOCK = (s.flag fJOBLOCK || v.getLsbD 8) ∧ t = { s with regs := t.regs })
      ∧ ∃ t, exec .lock s = .next t ∧ t.flag fJOBLOCK = true ∧ t = { s with regs := t.regs })
    ∧ (s.flag fREADY = true → ∃ t, exec .watchdogExpiry s = .next t ∧ wiped t ∧ t.pw.booting = true ∧ t.pw.warm = true ∧ t.fld fLASTIDX = 6)
    ∧ (s.flag fREADY = false → exec .watchdogExpiry s = .next s)
    ∧ (s.pw.booting = false → s.pw.blks = [] → ∀ v : BitVec 64,
      let sets := getBits v.toNat 16 8 = 0xA5
      (sets → s.pw.jobBusy = false → s.isCrew = false → s.pw.mapDamaged = false →
        ∃ t, exec (.jobCommand v) s = .next t ∧ wiped t ∧ t.fld fJOBSTAMP = v.toNat % 65536 ∧ t.fld fEPOCH = s.fld fEPOCH ∧ t.pw.booting = false
          ∧ t.pw.jobBusy = true ∧ t.pw.jobRequested = true ∧ t.fld fLASTIDX = 8 ∧ t.fld fLASTCLS = 3
          ∧ s.crew.map (fun n => (⟨7, BitVec.ofNat 12 (s.fld (fFleet n)), 0xFFFF, 32, .fleet (.job (v.setWidth 16))⟩ : Packet)) <+: t.portQ)
      ∧ (sets → s.pw.jobBusy = true → ∃ t, exec (.jobCommand v) s = .next t ∧ t.flag fDROPPED = true ∧ t = { s with regs := t.regs })
      ∧ ((¬ sets ∨ (s.pw.jobBusy = false ∧ (s.isCrew = true ∨ s.pw.mapDamaged = true))) → ∃ t, exec (.jobCommand v) s = .next t ∧ t = { s with regs := t.regs }))
    ∧ (∀ (src : BitVec 12) (id : BitVec 16), s.isCrew = true →
      let z := s.arrived (.fleet (.job id))
      ((src ≠ z.nodeAt 0 ∨ src = 0) → exec (.jobCommandReceive src id) s = .next z)
      ∧ (src = z.nodeAt 0 → src ≠ 0 → s.inReset = true → exec (.jobCommandReceive src id) s = .next (z.setFld fDROPPED 1))
      ∧ (src = z.nodeAt 0 → src ≠ 0 → s.inReset = false → s.pw.mapDamaged = true → exec (.jobCommandReceive src id) s = .next z)
      ∧ (src = z.nodeAt 0 → src ≠ 0 → s.inReset = false → s.pw.mapDamaged = false → ∃ t, exec (.jobCommandReceive src id) s = .next t ∧ wiped t
        ∧ t.fld fJOBSTAMP = id.toNat ∧ t.pw.jobBusy = true ∧ t.fld fPWRSTATE ≠ 1))
    ∧ (∀ idx : Fin 64,
      let z := s.arrived (.fleet (.jobDone idx.val))
      (idx.val = s.myIdx → s.pw.jobBusy = true → ∃ t, exec (.jobResetDone idx) s = .next t ∧ t.pw.jobBusy = false ∧ t.mem = s.mem ∧ t.descs = s.descs ∧ t.steps = s.steps
        ∧ (s.isCrew = true → t.portQ = z.portQ ++ [⟨7, z.nodeAt 0, 0xFFFF, 32, .fleet (.jobDone s.myIdx)⟩])
        ∧ (s.isCrew = false → s.pw.jobRequested = true → (∀ n ∈ s.crew, n ∈ s.mh.jobDone) → t.flag fJOBDONE = true ∧ t.pw.jobRequested = false))
      ∧ (idx.val ≠ s.myIdx → s.pw.jobRequested = true → idx.val ∈ s.crew → ∃ t, exec (.jobResetDone idx) s = .next t ∧ idx.val ∈ t.mh.jobDone
        ∧ ((s.pw.jobBusy = false ∧ ∀ n ∈ s.crew, n = idx.val ∨ n ∈ s.mh.jobDone) → t.flag fJOBDONE = true ∧ t.pw.jobRequested = false)
        ∧ t = { z with regs := t.regs, pw := t.pw, mh := t.mh }))

/-- R29, R32, R324, R542 to R548, R561, R568: every boot outside the factory test completes: READY is set, unless the node is in Brace, where it waits. A boot after a COLD or PERST reset has the role, the fleet class and the host rate that the
strap's code gives, and counts the causes owed. An open pin takes code 0 and code 14 takes code 12, each with FAULT_N; with no image that passes, and at codes 12 and 13, the node is in recovery. A masthead or crew node holds no rank, and a
standalone node rank 0. A map lost or damaged is told and asserts FAULT_N. A port that the class or the code leaves idle stands by; the others are up at the generation that their training reached, or down. Code 15 in the MANUFACTURE state is the factory
test, which the spec leaves open.

R536, R537, R538, R539: a BLOCK reset: the request closes the block once, first holding the crew for the relay, and is dropped during a broader reset; isolation is counted in cause 9, and in cause 10 where a large class leaves work behind,
takes a port DOWN and abandons the locker's checkpoint; at its end a tile's scratchpad and registers are wiped, no other tile's, node memory stays, a port trains, and the relay resumes.

R351, R551, R554 to R562, R645, R650: Brace, the power limiter, the clock and the power states. Brace sets its bit, counts, pauses the checkpoint and starts a flush; its end clears the bit and counts, and READY follows that it held back.
The limiter goes up one level above its limit and down one below nine tenths of it. Furled, WAKE, D3hot, Struck and D0 move PWRSTATE as the table says: Furled puts the UP ports in standby and its end restores them, Struck keeps node memory with the
cached bytes written back and loses the scratchpads and the ports, and after D0 the ports train again before READY. -/
def Obligations.BootAndPower : Prop :=
  (
  ∀ (s : State) (b : BootIn), s.wf → s.pw.booting = true → s.pw.readyDue = false → s.pw.supplyLow = false → s.pw.perstLow = false →
    s.pw.resetLow = false → s.pw.thermtrip = false →
    let raw := b.strap.map (fun n => n.val / 4)
    let code := match raw with
      | none => 0
      | some 14 => 12
      | some 15 => 0
      | some c => c
    let factory := s.pw.warm = false ∧ s.lc = 1 ∧ raw = some 15
    (factory → exec (.boot b) s = .fault .factoryTest)
    ∧ (¬ factory → ∃ t, exec (.boot b) s = .next t ∧ t.mem = s.mem
      ∧ (s.flag fBRACE = false → t.flag fREADY = true ∧ t.pw.booting = false ∧ t.pw.warm = false)
      ∧ (s.flag fBRACE = true → t.pw.readyDue = true ∧ t.pw.booting = true)
      ∧ (b.mapCopyA = false → b.mapCopyB = false → t.pw.mapDamaged = true ∧ t.flag fMAPBAD = true ∧ t.flag fREPLACE = true ∧ t.faultN = true)
      ∧ ((b.mapCopyA = true ∨ b.mapCopyB = true) → (t.pw.mapDamaged = true ↔ ∃ e ∈ s.part.map, kindOk (meKind e) = false))
      ∧ (∀ p, p < 16 → (t.fld fSTRCODE = 12 ∨ t.portOn p = false → (t.port p).st = .standby)
        ∧ (t.fld fSTRCODE ≠ 12 → t.portOn p = true → (b.upPorts.find? (fun u => u.port.val = p) = none → (t.port p).st = .down)
          ∧ ∀ u, b.upPorts.find? (fun u => u.port.val = p) = some u →
            let top := min u.peer.val (t.fld (fMAXGEN p))
            (top < u.downs.val → (t.port p).st = .down)
            ∧ (u.downs.val ≤ top → (t.port p).st = .up ∧ (t.port p).gen = top - u.downs.val ∧ (t.port p).width = u.width.val ∧ (t.port p).delay = u.delay % 65536)))
      ∧ (s.pw.warm = true → t.fld fSTRCODE = s.fld fSTRCODE ∧ t.role = s.role ∧ t.fld fRANK = s.fld fRANK)
      ∧ (s.pw.warm = false → t.pw.causes = [] ∧ t.fld fSTRCODE = code ∧ t.hostRate = (if code ∈ [0, 2, 4, 8, 12] then 64 else if code ∈ [1, 3, 10] then 32 else 0)
        ∧ t.role = (if code ∈ [2, 3, 4, 8, 10] then 1 else if code ∈ [5, 6, 7, 9, 11, 13] then 2 else 0)
        ∧ (t.largeClass = true ↔ code ∈ [8, 9, 10, 11])
        ∧ t.fld fRANK = (if t.role = 0 then 0 else 0xFFF)
        ∧ (raw = none → t.flag fSTROPEN = true ∧ t.faultN = true) ∧ (raw = some 14 → t.flag fSTRBAD = true ∧ t.faultN = true))
      ∧ (let code := t.fld fSTRCODE
        ((code = 12 ∨ code = 13) → t.flag fRECOVERY = true)
        ∧ (code ≠ 12 → code ≠ 13 →
          (s.slotCheck 0 = 0 → t.fld fIMAGE = 0 ∧ t.sec.running = s.part.imgA)
          ∧ (s.slotCheck 0 ≠ 0 → s.slotCheck 1 = 0 → t.fld fIMAGE = 1 ∧ t.sec.running = s.part.imgB)
          ∧ (s.slotCheck 0 ≠ 0 → s.slotCheck 1 ≠ 0 → t.flag fRECOVERY = true ∧ t.flag fNOFW = true ∧ t.faultN = true))))
  ) ∧ (
  ∀ (s : State) (id : BitVec 8), s.wf →
    let n := id.toNat
    let closed := { s.pw with blks := [⟨n, false⟩] }
    let told := fun (m : FleetMsg) => s.portQ ++ s.crew.map (fun k => (⟨7, BitVec.ofNat 12 (s.fld (fFleet k)), 0xFFFF, 32, .fleet m⟩ : Packet))
    (s.pw.booting = false → s.pw.blks = [] →
      (blkOk n = true → s.pw.jobBusy = false →
        let q := if n = 0x40 then told .relayHold else s.portQ
        (∃ t, exec (.blockResetRequest id) s = .next t ∧ t = { s with regs := t.regs, pw := closed, portQ := q })
        ∧ exec (.blockHangDetect id) s = .next { s with pw := closed, portQ := q })
      ∧ (blkOk n = true → s.pw.jobBusy = true → (∃ t, exec (.blockResetRequest id) s = .next t ∧ t.flag fDROPPED = true ∧ t = { s with regs := t.regs })
        ∧ exec (.blockHangDetect id) s = .next (s.setFld fDROPPED 1))
      ∧ (blkOk n = false → ∃ t, exec (.blockResetRequest id) s = .next t ∧ t = { s with regs := t.regs }))
    ∧ (∀ idle, ⟨n, false⟩ ∈ s.pw.blks →
      let busy := s.blkWork n ≠ [] ∨ s.blkOps n ≠ []
      ¬ (s.largeClass = true ∧ idle = true ∧ busy) →
      ∃ t, exec (.blockIsolate id idle) s = .next t
        ∧ t.pw.blks = s.pw.blks.map (fun b => if b.id = n then { b with isolated := true } else b)
        ∧ t.fld (fCause 9) = min (s.fld (fCause 9) + 1) (2 ^ 32 - 1)
        ∧ t.fld (fCause 10) = (if n < 0x24 ∧ s.largeClass = true ∧ busy then min (s.fld (fCause 10) + 1) (2 ^ 32 - 1) else s.fld (fCause 10))
        ∧ (s.largeClass = true → t.mem = s.mem ∧ t.spad = s.spad)
        ∧ (n < 0x24 → ¬ busy → s.remote.ops = [] → t.steps = s.steps ∧ t.descs = s.descs ∧ t.mem = s.mem ∧ t.spad = s.spad)
        ∧ (0x30 ≤ n → n < 0x40 → (t.port (n - 0x30)).st ≠ .up ∧ t.steps = s.steps ∧ t.descs = s.descs ∧ t.mem = s.mem ∧ t.spad = s.spad)
        ∧ (n = 0x41 → t.ckpt = none)
        ∧ (n = 0x40 → t = { s with regs := t.regs, pw := t.pw }))
    ∧ (⟨n, true⟩ ∈ s.pw.blks → ∃ t, exec (.blockResetDone id) s = .next t ∧ t.pw = { s.pw with blks := s.pw.blks.filter (fun b => b.id ≠ n) }
      ∧ (n < 0x20 → (∀ a, a < 2 ^ 25 → SM.getD 0 t.spad (spadKey n a) = 0)
        ∧ (∀ k a, k ≠ n → a < 2 ^ 25 → SM.getD 0 t.spad (spadKey k a) = SM.getD 0 s.spad (spadKey k a))
        ∧ s.OtherTilesKept t n
        ∧ t = { s with spad := t.spad, tr := t.tr, wa := t.wa, chain := t.chain, vthr := t.vthr, pw := t.pw })
      ∧ (0x30 ≤ n → n < 0x40 → s.portOn (n - 0x30) = true → (t.port (n - 0x30)).st = .training ∧ (∀ k, k ≠ n - 0x30 → t.port k = s.port k)
        ∧ t.mem = s.mem ∧ t.spad = s.spad ∧ t.regs = s.regs ∧ t.steps = s.steps)
      ∧ ((n = 0x40 ∨ (0x20 ≤ n ∧ n < 0x24) ∨ n = 0x41) → t = { s with pw := t.pw, portQ := if n = 0x40 then told .relayResume else s.portQ }))
  ) ∧ (
  ∀ s : State, s.wf →
    let told := fun (q : List Packet) (m : FleetMsg) => q ++ s.crew.map (fun k => (⟨7, BitVec.ofNat 12 (s.fld (fFleet k)), 0xFFFF, 32, .fleet m⟩ : Packet))
    (s.flag fBRACE = true → exec .braceEntry s = .next s)
    ∧ (s.flag fBRACE = false → ∃ t, exec .braceEntry s = .next t ∧ t.flag fBRACE = true ∧ t.fld (fCause 11) = min (s.fld (fCause 11) + 1) (2 ^ 32 - 1)
      ∧ t.alertCause = s.alertCause ||| 2 ∧ t.tt.flush.isSome = true ∧ (∀ c, t.ckpt = some c → c.paused = true) ∧ t.mem = s.mem ∧ t.spad = s.spad ∧ t.steps = s.steps)
    ∧ (∀ us, s.flag fBRACE = true → ∃ t, exec (.braceExit us) s = .next t ∧ t.flag fBRACE = false
      ∧ (s.pw.readyDue = true → t.pw.readyDue = false ∧ t.pw.booting = false ∧ t.flag fREADY = true)
      ∧ (s.ckpt = none → s.isMast = false → t.fld (fCause 12) = min (s.fld (fCause 12) + 1) (2 ^ 32 - 1) ∧ t.mem = s.mem ∧ t.steps = s.steps))
    ∧ (∀ avg cur low since,
      let high := s.fld fPLIMIT < avg ∨ 140 < cur
      let lvl := if since = true ∧ high ∧ s.pw.limiter < 4 then s.pw.limiter + 1
        else if since = true ∧ ¬ high ∧ low = true ∧ 10 * avg < 9 * s.fld fPLIMIT then s.pw.limiter - 1 else s.pw.limiter
      ∃ t, exec (.powerLimiterSample avg cur low since) s = .next t ∧ t.pw = { s.pw with avgW := some avg, limiter := lvl }
        ∧ t.alertCause = (if lvl ≠ s.pw.limiter ∧ 0 < lvl then s.alertCause ||| 8 else s.alertCause)
        ∧ t.mem = s.mem ∧ t.spad = s.spad ∧ t.steps = s.steps ∧ t.descs = s.descs ∧ t.ports = s.ports)
    ∧ (s.pw.frefLost = false → ∃ t, exec .frefLoss s = .next t ∧ t.pw.frefLost = true ∧ (∀ p, p < 16 → (t.port p).st ≠ .up) ∧ t.mem = s.mem ∧ t.spad = s.spad)
    ∧ (s.pw.frefLost = true → exec .frefLoss s = .next s ∧ exec .frefReturn s = .next { s with pw := { s.pw with frefLost := false } })
    ∧ (s.isCrew = true → s.pw.booting = false →
      let z := s.arrived (.fleet .furl)
      ∃ t, exec .furl s = .next t ∧ t.portQ = z.portQ ++ [⟨7, z.nodeAt 0, 0xFFFF, 32, .fleet (.furled s.myIdx)⟩] ∧ t = { z with regs := t.regs, ports := t.ports, portQ := t.portQ }
        ∧ (s.fld fPWRSTATE = 0 → t.fld fPWRSTATE = 1 ∧ ∀ p, (z.port p).st = .up → (t.port p).st = .standby ∧ (t.port p).furled = true ∧ (t.port p).credits = (z.port p).credits)
        ∧ (s.fld fPWRSTATE ≠ 0 → t.regs = z.regs ∧ t.ports = z.ports))
    ∧ (∀ by_,
      let z := if by_ = .vc7 ∧ s.isCrew = true then s.arrived (.fleet .wake) else s
      (s.fld fPWRSTATE = 1 ∨ (by_ = .vc7 ∧ s.isCrew = true)) → ∃ t, exec (.wake by_) s = .next t ∧ t.fld fPWRSTATE = (if s.fld fPWRSTATE = 1 then 0 else s.fld fPWRSTATE)
        ∧ (s.fld fPWRSTATE = 1 → ∀ p, (z.port p).furled = true → (t.port p).furled = false ∧ (s.portOn p = true → (t.port p).st = .up))
        ∧ (∀ p, (z.port p).furled = false → t.port p = z.port p)
        ∧ t = { z with regs := t.regs, ports := t.ports, pw := if by_ = .vc7 ∧ s.isCrew = true then { s.pw with d3Held := false } else s.pw })
    ∧ (s.isCrew = true → exec .d3hot s = .next { s.arrived (.fleet .stopFetch) with pw := { s.pw with d3Held := true } })
    ∧ (s.isCrew = false → (s.pw.booting = true → exec .d3hot s = .next { s with pw := { s.pw with d3Held := true } })
      ∧ (s.pw.booting = false → (s.pw.d3 = true ∨ s.fld fPWRSTATE = 2) → exec .d3hot s = .next s)
      ∧ (s.pw.booting = false → s.pw.d3 = false → s.fld fPWRSTATE ≠ 2 →
        exec .d3hot s = .next { s with pw := { s.pw with d3 := true, d3Held := false }, portQ := if s.stepOpen then told s.portQ .stopFetch else told (told s.portQ .stopFetch) .furl }))
    ∧ (∀ l, s.pw.d3 = true → s.stepOpen = false → (∀ n ∈ s.crew, ∃ f ∈ l, f.val = n) → ∃ t, exec (.struck l) s = .next t ∧ t.fld fPWRSTATE = 2 ∧ t.pw.d3 = false
      ∧ t.spad = [] ∧ t.tr = [] ∧ t.wa = [] ∧ t.spar = [] ∧ t.cline = [] ∧ (s.cline = [] → t.mem = s.mem) ∧ (∀ p, (t.port p).st ≠ .up)
      ∧ t.comm = s.comm ∧ t.descs = s.descs)
    ∧ (s.isCrew = false →
      (s.fld fPWRSTATE ≠ 2 → exec .d0 s = .next { s with pw := { s.pw with d3 := false, d3Held := false }, portQ := told s.portQ .wake })
      ∧ (s.fld fPWRSTATE = 2 → ∃ t, exec .d0 s = .next t ∧ t.fld fPWRSTATE = 0 ∧ t.mem = s.mem ∧ t.comm = s.comm ∧ t.descs = s.descs
        ∧ (∀ p, p < 16 → s.portOn p = true → s.fld fSTRCODE ≠ 12 → (t.port p).st = .training)
        ∧ (t.flag fREADY = true ↔ ∀ p, p < 16 → (t.port p).st ≠ .training)
        ∧ (t.flag fREADY = true → told [] .wake <:+ t.portQ)
        ∧ (t.flag fREADY = false → t.pw.d0Wait = true)))
  )

/-- R545, R567, R568, R571 to R574: the commands that change what the part holds. FW_WRITE puts an image that passes every check into the slot named, which then no longer counts as cut short, and leaves the slot otherwise; SVN_COMMIT raises the counter to the lower
SVN of the two images and never lowers it; REVOKE sets one bit, unless an image needs its key; RCV_LOAD runs an image in a recovery boot only; NODEID_SET writes both copies. Each ends with its status in SEC_MBSTAT, and
nothing else changes; an image outside the outbound windows is refused (log entry 30). While one command runs another answers BUSY, and in a boot or a WARM reset none has an effect.

R570, R575, R576: ATTEST leaves its report, with the nonce and the twelve items, in SEC_MBDATA. The SPDM responder answers each request in its order, and one out of order with an error; GET_MEASUREMENTS
of one index answers that item's block, and index 0xFF every block; slot 0 holds the one chain. Nothing but the responder's own state changes, and during a boot it answers nothing. The layout of the answers is presumed (log entry 32). -/
def Obligations.FirmwareAndAttestation : Prop :=
  (
  ∀ s : State, s.wf →
    let own := fun (k : Nat) => s.sec.pending = 0 ∨ s.sec.pending = k
    let ends := fun (i : Instr) (st : Nat) (p : Part) => ∃ t, exec i s = .next t ∧ t.fld fMBSTAT = st
      ∧ t = { s with regs := t.regs, part := p, sec := { s.sec with pending := 0 } }
    (∀ c ∈ [(2, Instr.svnCommit), (3, .revoke), (4, .attest), (5, .dbgChallenge), (6, .dbgResponse), (7, .dbgClose), (8, .lcAdvance), (10, .nodeidSet)],
      (s.pw.booting = true → exec c.2 s = .next s) ∧ (s.pw.booting = false → ¬ own c.1 → exec c.2 s = .next (s.setFld fMBSTAT 1)))
    ∧ (s.pw.booting = false →
      (∀ img : FwImage,
        let sized := 8192 ≤ s.mbArg 1 ∧ s.mbArg 1 ≤ 56 * 2 ^ 20
        (sized → 8192 + img.body.length = s.mbArg 1) →
        (¬ own 1 → exec (.fwWrite img) s = .next (s.setFld fMBSTAT 1)) ∧ (¬ own 9 → exec (.rcvLoad img) s = .next (s.setFld fMBSTAT 1))
        ∧ (own 1 →
          ((1 < s.mbArg 2 ∨ ¬ sized) → ends (.fwWrite img) 4 s.part)
          ∧ (sized → s.mbArg 2 = 1 → s.fld fIMAGE = 1 → ends (.fwWrite img) 2 s.part)
          ∧ (sized → s.mbArg 2 ≤ 1 → ¬ (s.mbArg 2 = 1 ∧ s.fld fIMAGE = 1) →
            (s.winOk false (s.mbArg 0) (s.mbArg 1) = false → ends (.fwWrite img) 2 s.part)
            ∧ (s.winOk false (s.mbArg 0) (s.mbArg 1) = true →
              (s.imageCheck (some img) ≠ 0 → ends (.fwWrite img) 3 s.part)
              ∧ (s.imageCheck (some img) = 0 → ends (.fwWrite img) 0
                  (if s.mbArg 2 = 0 then { s.part with imgA := some img, imgCut := s.part.imgCut &&& 2 } else { s.part with imgB := some img, imgCut := s.part.imgCut &&& 1 })))))
        ∧ (own 9 →
          (s.flag fRECOVERY = false → ends (.rcvLoad img) 2 s.part)
          ∧ (s.flag fRECOVERY = true → ¬ sized → ends (.rcvLoad img) 4 s.part)
          ∧ (s.flag fRECOVERY = true → sized → s.winOk false (s.mbArg 0) (s.mbArg 1) = false → ends (.rcvLoad img) 2 s.part)
          ∧ (s.flag fRECOVERY = true → sized → s.winOk false (s.mbArg 0) (s.mbArg 1) = true →
            (s.imageCheck (some img) ≠ 0 → ends (.rcvLoad img) 3 s.part)
            ∧ (s.imageCheck (some img) = 0 → ∃ t, exec (.rcvLoad img) s = .next t ∧ t.fld fMBSTAT = 0 ∧ t.sec.running = some img
              ∧ t = { s with regs := t.regs, sec := { s.sec with running := some img, pending := 0 } }))))
      ∧ (own 2 → (s.slotCheck 0 ≠ 0 ∨ s.slotCheck 1 ≠ 0) → ends .svnCommit 2 s.part)
      ∧ (∀ a b, own 2 → s.part.imgA = some a → s.part.imgB = some b → s.slotCheck 0 = 0 → s.slotCheck 1 = 0 →
        ends .svnCommit 0 { s.part with svn := max s.part.svn (min (FwImage.svn a) (FwImage.svn b)) })
      ∧ (own 3 →
        let needs := (s.slotCheck 0 = 0 ∧ s.part.imgA.bind s.part.slotOf = some (s.mbArg 0)) ∨ (s.slotCheck 1 = 0 ∧ s.part.imgB.bind s.part.slotOf = some (s.mbArg 0))
        (3 < s.mbArg 0 → ends .revoke 4 s.part) ∧ (s.mbArg 0 ≤ 3 → needs → ends .revoke 2 s.part)
        ∧ (s.mbArg 0 ≤ 3 → ¬ needs → ends .revoke 0 { s.part with revoked := s.part.revoked ||| BitVec.ofNat 4 (2 ^ s.mbArg 0) }))
      ∧ (own 10 →
        ((s.mbArg 0 = 0 ∨ 0xFFF < s.mbArg 0) → ends .nodeidSet 4 s.part)
        ∧ (1 ≤ s.mbArg 0 → s.mbArg 0 ≤ 0xFFF → s.lc = 0x1F → ends .nodeidSet 2 s.part)
        ∧ (1 ≤ s.mbArg 0 → s.mbArg 0 ≤ 0xFFF → s.lc ≠ 0x1F →
          ends .nodeidSet 0 { s.part with nodeIdA := some (BitVec.ofNat 12 (s.mbArg 0)), nodeIdB := some (BitVec.ofNat 12 (s.mbArg 0)) })))
  ) ∧ (
  ∀ s : State, s.wf →
    (s.pw.booting = true → s.isCrew = false → ∀ i : Instr, i ∈ [.getVersion, .getCapabilities, .negotiateAlgorithms, .getDigests] ∨ (∃ k, i = .getMeasurements k)
      ∨ (∃ k n, i = .challenge k n) ∨ (∃ k o n, i = .getCertificate k o n) → exec i s = .next s)
    ∧ (s.pw.booting = false → (s.sec.pending = 0 ∨ s.sec.pending = 4) → ∃ t, exec .attest s = .next t ∧ t.fld fMBSTAT = 0
      ∧ (s.report.length ≤ 4096 → t.mbBytes 0 s.report.length = s.report) ∧ t = { s with regs := t.regs, sec := { s.sec with pending := 0 } })
    ∧ (s.pw.booting = false → s.isCrew = false →
      let answers := fun (i : Instr) (code p1 p2 : Nat) => ∃ t body, exec i s = .next t
        ∧ t.out = s.out ++ [.doe ([0x12, BitVec.ofNat 8 code, BitVec.ofNat 8 p1, BitVec.ofNat 8 p2] ++ body)]
        ∧ t = { s with out := t.out, sec := t.sec, freeCtr := t.freeCtr }
      let refused := fun (i : Instr) => exec i s = .next { s with out := s.out ++ [.doe [0x12, 0x7F, 0x04, 0]] }
      (∃ t, exec .getVersion s = .next t ∧ t.out = s.out ++ [.doe [0x12, 0x04, 0, 0, 0, 1, 0, 0x12]] ∧ t.sec.spdmVer = true
        ∧ t.sec.spdmCaps = false ∧ t.sec.spdmAlg = false ∧ t = { s with out := t.out, sec := t.sec })
      ∧ (if s.sec.spdmVer then answers .getCapabilities 0x61 0 0 else refused .getCapabilities)
      ∧ (if s.sec.spdmCaps then answers .negotiateAlgorithms 0x63 0 0 else refused .negotiateAlgorithms)
      ∧ (if s.sec.spdmAlg && s.lc != 0x1F then answers .getDigests 0x01 0 1 else refused .getDigests)
      ∧ (∀ nonce, if s.sec.spdmAlg && s.lc != 0x1F then answers (.challenge 0 nonce) 0x03 0 1 else refused (.challenge 0 nonce))
      ∧ (∀ off len, s.sec.spdmAlg = true → s.lc ≠ 0x1F → off ≤ s.certs.length →
        let part := (s.certs.drop off).take len
        ∃ t, exec (.getCertificate 0 off len) s = .next t
          ∧ t.out = s.out ++ [.doe ([0x12, 0x02, 0, 0] ++ leBytes 2 part.length ++ leBytes 2 (s.certs.length - off - part.length) ++ part)]
          ∧ t = { s with out := t.out, sec := t.sec })
      ∧ (∀ k off len nonce, (k ≠ 0 ∨ s.sec.spdmAlg = false ∨ s.lc = 0x1F) → refused (.getCertificate k off len) ∧ refused (.challenge k nonce))
      ∧ (∀ off len, s.certs.length < off → refused (.getCertificate 0 off len))
      ∧ (∀ k, s.sec.spdmAlg = false → refused (.getMeasurements k))
      ∧ (s.sec.spdmAlg = true → ∃ t, exec (.getMeasurements 0xFF) s = .next t
        ∧ t.out = s.out ++ [.doe ([0x12, 0x60, 0, 0, 12] ++ leBytes 3 s.measureAll.length ++ s.measureAll)] ∧ t = { s with out := t.out, sec := t.sec })
      ∧ (∀ k, 13 ≤ k → k ≠ 0xFF → refused (.getMeasurements k))
      ∧ (s.sec.spdmAlg = true → answers (.getMeasurements 0) 0x60 12 0)
      ∧ (∀ k, s.sec.spdmAlg = true → 1 ≤ k → k ≤ 12 → ∃ t, exec (.getMeasurements k) s = .next t
        ∧ t.out = s.out ++ [.doe ([0x12, 0x60, 0, 0, 1] ++ leBytes 3 ((s.item k).length + 7) ++ [BitVec.ofNat 8 k, 1] ++ leBytes 2 ((s.item k).length + 3)
            ++ [0x80] ++ leBytes 2 (s.item k).length ++ s.item k)]
        ∧ t = { s with out := t.out, sec := t.sec }))
  )

/-- R531, R577 to R583: debug and the lifecycle. A challenge record carries a nonce of its own, the lifecycle code, the scope and the failure count; the right response opens its scope and the wrong one is counted, the third locking both
paths; a nonce serves once. The lifecycle moves only along the table's transitions, each through a WARM reset; SCRAPPED destroys the secret. The password opens debug where it may, and EXTEST ends with a PERST-class reset. The nonce of a challenge is the node's own choice, any value (log entry 7). -/
def Obligations.DebugAndLifecycle : Prop :=
  ∀ s : State, s.wf →
    let warmed := fun (t : State) => t.pw.booting = true ∧ t.pw.warm = true ∧ t.mem = [] ∧ t.spad = [] ∧ t.steps = [] ∧ t.fld fLASTIDX = 7
    let own := fun (k : Nat) => s.sec.pending = 0 ∨ s.sec.pending = k
    let ends := fun (i : Instr) (st : Nat) => ∃ t, exec i s = .next t ∧ t.fld fMBSTAT = st ∧ t = { s with regs := t.regs, sec := { s.sec with pending := 0 } }
    (s.pw.booting = false →
      (own 5 →
        ((s.mbArg 0 = 0 ∨ 3 < s.mbArg 0) → ends .dbgChallenge 4)
        ∧ (1 ≤ s.mbArg 0 → s.mbArg 0 ≤ 3 → (s.lcOpens = false ∨ s.flag fDBGLOCK = true) → ends .dbgChallenge 2)
        ∧ (1 ≤ s.mbArg 0 → s.mbArg 0 ≤ 3 → s.lcOpens = true → s.flag fDBGLOCK = false → ∃ t c, exec .dbgChallenge s = .next t ∧ t.fld fMBSTAT = 0
          ∧ t.sec.challenge = some c ∧ t.mbBytes 0 128 = leBytes 128 c.toNat
          ∧ getBits c.toNat 0 384 = (Config.freeNonce s.freeCtr).toNat ∧ getBits c.toNat 384 64 = s.part.serial.toNat
          ∧ getBits c.toNat 448 8 = s.lc ∧ getBits c.toNat 456 8 = s.mbArg 0 ∧ getBits c.toNat 464 8 = s.fld fFAILS ∧ getBits c.toNat 472 552 = 0
          ∧ t.freeCtr = s.freeCtr + 1 ∧ t = { s with regs := t.regs, sec := t.sec, freeCtr := t.freeCtr }))
      ∧ (own 6 → (s.sec.challenge = none → ends .dbgResponse (if s.sec.endedByReset then 3 else 2))
        ∧ (∀ c, s.sec.challenge = some c →
          let r := s.mbBytes 0 128
          let key := s.mbBytes 128 96
          let scope := getBits c.toNat 456 8
          let held := scope = 1 ∧ s.lc = 7 ∧ s.lcRefused = true
          let ok := leNat r = c.toNat ∧ BitVec.ofNat 384 (leNat (Sha.sha384 key)) = s.part.dbgHash ∧
            Sha.ecdsaOk (beNat (key.take 48)) (beNat (key.drop 48)) (beNat (Sha.sha384 r)) (beNat (s.mbBytes 224 48)) (beNat (s.mbBytes 272 48)) = true
          ((s.flag fDBGLOCK = true ∨ held) → ends .dbgResponse 2)
          ∧ (s.flag fDBGLOCK = false → ¬ held →
            (¬ ok → ∃ t, exec .dbgResponse s = .next t ∧ t.fld fMBSTAT = 3 ∧ t.sec.challenge = none
              ∧ t.fld fFAILS = min 3 (s.fld fFAILS + 1) ∧ (2 ≤ s.fld fFAILS → t.flag fDBGLOCK = true) ∧ t.sec.auth = s.sec.auth ∧ t.sec.debug = s.sec.debug
              ∧ t.part = s.part ∧ t.mem = s.mem)
            ∧ (ok → scope ≠ 1 → ∃ t, exec .dbgResponse s = .next t ∧ t.fld fMBSTAT = 0 ∧ t.sec.challenge = none ∧ t.sec.auth = scope
              ∧ t.fld fFAILS = s.fld fFAILS ∧ t = { s with regs := t.regs, sec := t.sec })
            ∧ (ok → scope = 1 → s.lc ≠ 7 → ∃ t, exec .dbgResponse s = .next t ∧ t.fld fMBSTAT = 0 ∧ t.sec.challenge = none ∧ t.sec.debug = true ∧ t = { s with regs := t.regs, sec := t.sec })
            ∧ (ok → scope = 1 → s.lc = 7 → ∃ t, exec .dbgResponse s = .next t ∧ t.sec.debug = true ∧ warmed t))))
      ∧ (own 7 → ((s.lc ≠ 7 ∨ s.sec.debug = false ∨ s.lcRefused = true) → ends .dbgClose 2)
        ∧ (s.lc = 7 → s.sec.debug = true → s.lcRefused = false → s.sec.sealPend = false → ∃ t, exec .dbgClose s = .next t ∧ t.sec.debug = false ∧ warmed t))
      ∧ (own 8 → (s.lcRefused = true → ends .lcAdvance 2)
        ∧ (s.lcRefused = false →
          ((s.lc, s.mbArg 0) ∉ [(1, 3), (3, 7), (7, 0x0F), (0x0F, 0x1F), (3, 0x1F), (7, 0x1F)] → ends .lcAdvance 2)
          ∧ (s.lc = 1 → s.mbArg 0 = 3 → s.part.certA = none → s.part.certB = none → ends .lcAdvance 2)
          ∧ (s.lc = 7 → s.mbArg 0 = 0x0F → s.sec.auth ≠ 2 → ends .lcAdvance 3)
          ∧ (s.lc = 3 ∨ s.lc = 7 → s.mbArg 0 = 0x1F → s.sec.auth ≠ 3 → ends .lcAdvance 3)
          ∧ (((s.lc = 1 ∧ s.mbArg 0 = 3 ∧ (s.part.certA.isSome = true ∨ s.part.certB.isSome = true)) ∨ (s.lc = 3 ∧ s.mbArg 0 = 7)
              ∨ (s.lc = 7 ∧ s.mbArg 0 = 0x0F ∧ s.sec.auth = 2) ∨ (s.lc = 0x0F ∧ s.mbArg 0 = 0x1F) ∨ ((s.lc = 3 ∨ s.lc = 7) ∧ s.mbArg 0 = 0x1F ∧ s.sec.auth = 3)) →
            ∃ t, exec .lcAdvance s = .next t ∧ t.lc = s.mbArg 0 ∧ warmed t
              ∧ (s.mbArg 0 = 0x1F → t.part.uds = BitVec.allOnes 256 ∧ t.part.mramMap = [] ∧ t.part.ledger = [] ∧ t.part.certA = none ∧ t.tt.store = [])
              ∧ (s.mbArg 0 ≠ 0x1F → t.part.uds = s.part.uds ∧ t.part.ledger = s.part.ledger)))))
    ∧ (s.sec.challenge.isSome = true → exec .dbgNonceExpiry s = .next { s with sec := { s.sec with challenge := none } })
    ∧ (∀ pw : BitVec 256,
      ((s.lcOpens = false ∨ s.flag fDBGLOCK = true) → exec (.pwunlock pw) s = .next s)
      ∧ (s.lcOpens = true → s.flag fDBGLOCK = false → BitVec.ofNat 384 (leNat (Sha.sha384 (leBytes 32 pw.toNat))) = s.part.pwHash →
        (s.lc = 7 → s.lcRefused = true → exec (.pwunlock pw) s = .next s)
        ∧ (s.lc ≠ 7 → exec (.pwunlock pw) s = .next { s with sec := { s.sec with debug := true } })
        ∧ (s.lc = 7 → s.lcRefused = false → ∃ t, exec (.pwunlock pw) s = .next t ∧ t.sec.debug = true ∧ warmed t))
      ∧ (s.lcOpens = true → s.flag fDBGLOCK = false → BitVec.ofNat 384 (leNat (Sha.sha384 (leBytes 32 pw.toNat))) ≠ s.part.pwHash →
        ∃ t, exec (.pwunlock pw) s = .next t ∧ t.fld fFAILS = min 3 (s.fld fFAILS + 1) ∧ t.sec.debug = s.sec.debug ∧ t.mem = s.mem))
    ∧ (∃ t, exec .extest s = .next t ∧ t.pw.booting = true ∧ t.pw.warm = false ∧ t.mem = [] ∧ t.spad = [] ∧ t.steps = [] ∧ t.sq = [] ∧ t.sec.debug = false)

/-- R565, R571, R577: what the fuses hold only grows under every command: the lifecycle state and the security version never fall, a revoked key stays revoked, the root key hashes, the fuse part of the map, the key and password hashes and the signature policy stay, and
the device secret stays until the part is scrapped. -/
def Obligations.FusesOnlyGrow : Prop :=
  ∀ s t : State, step s = .next t →
    s.lc ≤ t.lc ∧ s.part.svn ≤ t.part.svn ∧ s.part.revoked &&& t.part.revoked = s.part.revoked ∧ t.part.rootHash = s.part.rootHash
      ∧ t.part.fuseMap = s.part.fuseMap ∧ t.part.mlHash = s.part.mlHash ∧ t.part.dbgHash = s.part.dbgHash ∧ t.part.pwHash = s.part.pwHash
      ∧ t.part.sigPol = s.part.sigPol ∧ t.part.serial = s.part.serial ∧ (t.part.uds = s.part.uds ∨ (t.part.uds = BitVec.allOnes 256 ∧ t.lc = 0x1F))

/-! ## The telltale recorder and the SMBus target (chapters 19 and 22) -/

/-- R590, R593, R596 to R601: FIRE writes one STATE record with the code, argument and next SEQ, raises no vector and starts no flush. FREEZE and THAW set and clear the freeze; at a thaw, by host or by time-out, the queue enters the ring in order. FLUSH starts a
flush, whose end has copied the records up to its target and, where nothing is left, ends FLUSHING. MCLEAR empties the store with its key alone and keeps SEQ; TT_RDCNT takes a value up to TT_WRCNT, any other sets BADRD, and a write from inside the node is dropped and counted. -/
def Obligations.TelltaleCommands : Prop :=
  ∀ s : State, s.wf → s.pw.booting = false → s.pw.blks = [] →
    (∀ v : BitVec 64, s.flag fFROZEN = false → (getBits v.toNat 0 10 < 0x100 ∨ s.flag (fTrigEn (getBits v.toNat 0 10)) = true) →
      ∃ t r, exec (.fire v) s = .next t ∧ t.tt.ring.getLast? = some r ∧ r.code = getBits v.toNat 0 10 ∧ r.cls = 2 ∧ r.arg = v.extractLsb' 32 32 ∧ r.unit = 0xF0
        ∧ r.seq = s.tt.seq ∧ r.steptag = s.stepTag ∧ r.held = false ∧ t.tt.seq = s.tt.seq + 1 ∧ t.fld fWRCNT = (s.fld fWRCNT + 1) % 2 ^ 32
        ∧ t.tt.flush = s.tt.flush ∧ t = { s with regs := t.regs, tt := t.tt })
    ∧ (∀ v : BitVec 64, ∃ t, exec (.fire v) s = .next t ∧ t = { s with regs := t.regs, tt := t.tt }
      ∧ (¬ (getBits v.toNat 0 10 < 0x100 ∨ s.flag (fTrigEn (getBits v.toNat 0 10)) = true) → t.tt = s.tt)
      ∧ ((getBits v.toNat 0 10 < 0x100 ∨ s.flag (fTrigEn (getBits v.toNat 0 10)) = true) → s.flag fFROZEN = true →
        t.tt.ring = s.tt.ring ∧ t.fld fWRCNT = s.fld fWRCNT
        ∧ (s.tt.queue.length < 32 → ∃ r, t.tt.queue = s.tt.queue ++ [r] ∧ r.code = getBits v.toNat 0 10 ∧ r.cls = 2 ∧ r.seq = s.tt.seq ∧ r.held = true)
        ∧ (32 ≤ s.tt.queue.length → t.tt = s.tt)))
    ∧ (∃ t, exec .freeze s = .next t ∧ t.flag fFROZEN = true ∧ t = { s with regs := t.regs })
    ∧ (∀ i : Instr, i = .thaw ∨ i = .freezeTimeout → s.flag fFROZEN = true → ∃ t, exec i s = .next t ∧ t.flag fFROZEN = false ∧ t.tt.queue = [] ∧ t.tt.pendMerge = 0
        ∧ t.tt.seq = s.tt.seq ∧ t.mem = s.mem ∧ t.steps = s.steps
        ∧ ((s.tt.pendMerge = 0 ∨ s.tt.queue ≠ []) → s.tt.ring.length + s.tt.queue.length ≤ 2048 →
          t.tt.ring = s.tt.ring ++ s.tt.queue ∧ t.fld fWRCNT = (s.fld fWRCNT + s.tt.queue.length) % 2 ^ 32)
        ∧ (∀ r, s.tt.pendMerge ≠ 0 → s.tt.queue = [] → s.tt.ring.getLast? = some r →
          t.tt.ring = s.tt.ring.dropLast ++ [{ r with rep := min (r.rep + s.tt.pendMerge) 65535, lastbeat := s.word 0x80008 }]))
    ∧ (s.flag fFROZEN = false → ∃ t, exec .thaw s = .next t ∧ t = { s with regs := t.regs } ∧ t.flag fFROZEN = false)
    ∧ (∃ t, exec .flush s = .next t ∧ t.tt.flush = (if s.tt.flush.isSome then s.tt.flush else some (BitVec.ofNat 32 (s.fld fWRCNT)))
      ∧ t = { s with regs := t.regs, tt := t.tt })
    ∧ (s.tt.flush.isSome = true → ∃ t, exec .telltaleFlushDone s = .next t ∧ t.tt.ring = s.tt.ring ∧ t.tt.seq = s.tt.seq ∧ t = { s with regs := t.regs, tt := t.tt })
    ∧ (∀ n : BitVec 32, s.tt.flush = some n → s.flag fFROZEN = false → s.tt.marked = [] → n.toNat = s.fld fWRCNT →
      let k := (n.toNat + 2 ^ 32 - s.fld fFLCNT) % 2 ^ 32
      k ≤ s.tt.ring.length → k < 2 ^ 31 → s.tt.store.length + k ≤ 32768 → (s.tt.store ++ s.tt.ring).Pairwise (fun a b => a.seq ≠ b.seq) →
      ∃ t, exec .telltaleFlushDone s = .next t ∧ t.tt.store = s.tt.store ++ s.tt.ring.drop (s.tt.ring.length - k) ∧ t.tt.flush = none
        ∧ t.fld fFLCNT = n.toNat ∧ t.flag fFLUSHING = false ∧ t.tt.ring = s.tt.ring ∧ t = { s with regs := t.regs, tt := t.tt })
    ∧ (∀ v : BitVec 64, ∃ t, exec (.mclear v) s = .next t ∧ t.tt = (if getBits v.toNat 16 8 = 0xA5 then { s.tt with store := [] } else s.tt)
      ∧ t = { s with regs := t.regs, tt := t.tt })
    ∧ (∀ v : BitVec 32,
      ((v.toNat + 2 ^ 32 - s.fld fRDCNT) % 2 ^ 32 ≤ (s.fld fWRCNT + 2 ^ 32 - s.fld fRDCNT) % 2 ^ 32 →
        ∃ t, exec (.ttRdcntWrite .host v) s = .next t ∧ t.fld fRDCNT = v.toNat ∧ t = { s with regs := t.regs })
      ∧ ((s.fld fWRCNT + 2 ^ 32 - s.fld fRDCNT) % 2 ^ 32 < (v.toNat + 2 ^ 32 - s.fld fRDCNT) % 2 ^ 32 →
        ∃ t, exec (.ttRdcntWrite .host v) s = .next t ∧ t.fld fRDCNT = s.fld fRDCNT ∧ t.flag fBADRD = true ∧ t = { s with regs := t.regs })
      ∧ ∀ u, ∃ t, exec (.ttRdcntWrite (.unit u) v) s = .next t ∧ t.fld fRDCNT = s.fld fRDCNT ∧ t.fld fBNDCNT = min (s.fld fBNDCNT + 1) (2 ^ 32 - 1) ∧ t.mem = s.mem ∧ t.descs = s.descs)

/-- R652, R653: the SMBus target while VAUX stands. STATUS answers its bits and IDENT its 16 bytes in every state; in Off every other read answers 0xFFFF. Otherwise POWER, the temperatures, REEF and the alert words answer what the node holds, and a supply reading that nothing of the model holds
is some 16-bit value (log entry 31). A write of ones clears ALERTCAUSE bits, ALERTMASK keeps 5 bits, and the Alert Response Address is answered while an unmasked cause stands. Nothing else changes. -/
def Obligations.SmbusTarget : Prop :=
  ∀ s : State, s.pw.vauxOff = false →
    let reply := fun (i : Instr) (v : Nat) => exec i s = .next { s with out := s.out ++ [.smbus (leBytes 2 v)] }
    (reply .status s.smbStatus ∧ s.smbStatus.testBit 0 = (s.flag fREADY && !s.isOff) ∧ s.smbStatus.testBit 1 = s.faultN
      ∧ s.smbStatus.testBit 2 = s.flag fFLAGGED ∧ s.smbStatus.testBit 3 = s.flag fREPLACE ∧ s.smbStatus.testBit 4 = s.flag fDRAINED
      ∧ s.smbStatus.testBit 5 = s.flag fBRACE ∧ s.smbStatus.testBit 6 = s.pw.thermtrip ∧ s.smbStatus.testBit 7 = s.flag fMAPBAD
      ∧ s.smbStatus.testBit 8 = s.flag fDEGRADED ∧ s.smbStatus >>> 9 = s.fld fPWRSTATE)
    ∧ exec .ident s = .next { s with out := s.out ++ [.smbus (16 :: (leBytes 8 (s.regRead 0).toNat ++ leBytes 8 (s.regRead 8).toNat))] }
    ∧ (∀ i ∈ [Instr.vin, .vaux, .vbak, .power, .tjmax, .tcasemax, .reef, .alertcauseRead, .alertmaskRead],
      ∃ t v, exec i s = .next t ∧ v < 2 ^ 16 ∧ t.out = s.out ++ [.smbus (leBytes 2 v)] ∧ t = { s with out := t.out, freeCtr := t.freeCtr }
        ∧ (s.isOff = true → v = 0xFFFF))
    ∧ (s.isOff = false →
      (∀ w, s.pw.avgW = some w → reply .power w)
      ∧ (s.temps.tileJ ≠ [] → reply .tjmax ((s.temps.tileJ ++ [s.temps.pdJ, s.temps.fd0J, s.temps.fd1J]).foldl max 0)
        ∧ reply .tcasemax (s.temps.stack.flatten.foldl max 0))
      ∧ reply .reef (s.capInForce ||| ((List.range 32).foldl (fun m k => max m (s.fld (fFLOOR k))) 0) <<< 8)
      ∧ reply .alertcauseRead s.alertCause.toNat ∧ reply .alertmaskRead s.alertMask.toNat
      ∧ ∀ v : BitVec 16, exec (.alertcauseWrite v) s = .next { s with alertCause := s.alertCause &&& ~~~ v }
        ∧ exec (.alertmaskWrite v) s = .next { s with alertMask := v &&& 0x1F })
    ∧ (s.isOff = true → ∀ v : BitVec 16, exec (.alertcauseWrite v) s = .next s ∧ exec (.alertmaskWrite v) s = .next s)
    ∧ exec .alertResponseAddress s = .next (if s.alertCause &&& s.alertMask ≠ 0 then { s with out := s.out ++ [.smbus (leBytes 1 (2 * s.smbAddr))] } else s)
end

