-- ==== Sys2Proof/Laws/State.lean ====
section
/-! SUPPORT. What each basic update of the state leaves alone: one lemma for each field and update. -/

namespace Sys2Proof.Machine

/-! ## `State.emit`, which changes `out` -/

@[simp] theorem State.emit_pending (s : State) (o : Out) : (s.emit o).pending = s.pending := rfl
@[simp] theorem State.emit_freeCtr (s : State) (o : Out) : (s.emit o).freeCtr = s.freeCtr := rfl
@[simp] theorem State.emit_now (s : State) (o : Out) : (s.emit o).now = s.now := rfl
@[simp] theorem State.emit_part (s : State) (o : Out) : (s.emit o).part = s.part := rfl
@[simp] theorem State.emit_mapView (s : State) (o : Out) : (s.emit o).mapView = s.mapView := rfl
@[simp] theorem State.emit_regs (s : State) (o : Out) : (s.emit o).regs = s.regs := rfl
@[simp] theorem State.emit_latch (s : State) (o : Out) : (s.emit o).latch = s.latch := rfl
@[simp] theorem State.emit_msix (s : State) (o : Out) : (s.emit o).msix = s.msix := rfl
@[simp] theorem State.emit_pba (s : State) (o : Out) : (s.emit o).pba = s.pba := rfl
@[simp] theorem State.emit_heldVecs (s : State) (o : Out) : (s.emit o).heldVecs = s.heldVecs := rfl
@[simp] theorem State.emit_aerPoison (s : State) (o : Out) : (s.emit o).aerPoison = s.aerPoison := rfl
@[simp] theorem State.emit_hostRate (s : State) (o : Out) : (s.emit o).hostRate = s.hostRate := rfl
@[simp] theorem State.emit_mem (s : State) (o : Out) : (s.emit o).mem = s.mem := rfl
@[simp] theorem State.emit_spad (s : State) (o : Out) : (s.emit o).spad = s.spad := rfl
@[simp] theorem State.emit_sq (s : State) (o : Out) : (s.emit o).sq = s.sq := rfl
@[simp] theorem State.emit_cq (s : State) (o : Out) : (s.emit o).cq = s.cq := rfl
@[simp] theorem State.emit_descs (s : State) (o : Out) : (s.emit o).descs = s.descs := rfl
@[simp] theorem State.emit_recs (s : State) (o : Out) : (s.emit o).recs = s.recs := rfl
@[simp] theorem State.emit_steps (s : State) (o : Out) : (s.emit o).steps = s.steps := rfl
@[simp] theorem State.emit_lastSeal (s : State) (o : Out) : (s.emit o).lastSeal = s.lastSeal := rfl
@[simp] theorem State.emit_stalledTags (s : State) (o : Out) : (s.emit o).stalledTags = s.stalledTags := rfl
@[simp] theorem State.emit_comm (s : State) (o : Out) : (s.emit o).comm = s.comm := rfl
@[simp] theorem State.emit_live (s : State) (o : Out) : (s.emit o).live = s.live := rfl
@[simp] theorem State.emit_trans (s : State) (o : Out) : (s.emit o).trans = s.trans := rfl
@[simp] theorem State.emit_nanStep (s : State) (o : Out) : (s.emit o).nanStep = s.nanStep := rfl
@[simp] theorem State.emit_stopped (s : State) (o : Out) : (s.emit o).stopped = s.stopped := rfl
@[simp] theorem State.emit_images (s : State) (o : Out) : (s.emit o).images = s.images := rfl
@[simp] theorem State.emit_vthr (s : State) (o : Out) : (s.emit o).vthr = s.vthr := rfl
@[simp] theorem State.emit_tr (s : State) (o : Out) : (s.emit o).tr = s.tr := rfl
@[simp] theorem State.emit_wa (s : State) (o : Out) : (s.emit o).wa = s.wa := rfl
@[simp] theorem State.emit_chain (s : State) (o : Out) : (s.emit o).chain = s.chain := rfl
@[simp] theorem State.emit_closes (s : State) (o : Out) : (s.emit o).closes = s.closes := rfl
@[simp] theorem State.emit_passes (s : State) (o : Out) : (s.emit o).passes = s.passes := rfl
@[simp] theorem State.emit_spar (s : State) (o : Out) : (s.emit o).spar = s.spar := rfl
@[simp] theorem State.emit_cline (s : State) (o : Out) : (s.emit o).cline = s.cline := rfl
@[simp] theorem State.emit_handles (s : State) (o : Out) : (s.emit o).handles = s.handles := rfl
@[simp] theorem State.emit_nextHandle (s : State) (o : Out) : (s.emit o).nextHandle = s.nextHandle := rfl
@[simp] theorem State.emit_nextChild (s : State) (o : Out) : (s.emit o).nextChild = s.nextChild := rfl
@[simp] theorem State.emit_eng (s : State) (o : Out) : (s.emit o).eng = s.eng := rfl
@[simp] theorem State.emit_wsOpen (s : State) (o : Out) : (s.emit o).wsOpen = s.wsOpen := rfl
@[simp] theorem State.emit_beatLast (s : State) (o : Out) : (s.emit o).beatLast = s.beatLast := rfl
@[simp] theorem State.emit_flywheel (s : State) (o : Out) : (s.emit o).flywheel = s.flywheel := rfl
@[simp] theorem State.emit_beatWait (s : State) (o : Out) : (s.emit o).beatWait = s.beatWait := rfl
@[simp] theorem State.emit_beatTaken (s : State) (o : Out) : (s.emit o).beatTaken = s.beatTaken := rfl
@[simp] theorem State.emit_due (s : State) (o : Out) : (s.emit o).due = s.due := rfl
@[simp] theorem State.emit_expDone (s : State) (o : Out) : (s.emit o).expDone = s.expDone := rfl
@[simp] theorem State.emit_logWr (s : State) (o : Out) : (s.emit o).logWr = s.logWr := rfl
@[simp] theorem State.emit_logQ (s : State) (o : Out) : (s.emit o).logQ = s.logQ := rfl
@[simp] theorem State.emit_setups (s : State) (o : Out) : (s.emit o).setups = s.setups := rfl
@[simp] theorem State.emit_ports (s : State) (o : Out) : (s.emit o).ports = s.ports := rfl
@[simp] theorem State.emit_portQ (s : State) (o : Out) : (s.emit o).portQ = s.portQ := rfl
@[simp] theorem State.emit_remote (s : State) (o : Out) : (s.emit o).remote = s.remote := rfl
@[simp] theorem State.emit_coll (s : State) (o : Out) : (s.emit o).coll = s.coll := rfl
@[simp] theorem State.emit_trails (s : State) (o : Out) : (s.emit o).trails = s.trails := rfl
@[simp] theorem State.emit_trailRx (s : State) (o : Out) : (s.emit o).trailRx = s.trailRx := rfl
@[simp] theorem State.emit_ckpt (s : State) (o : Out) : (s.emit o).ckpt = s.ckpt := rfl
@[simp] theorem State.emit_mh (s : State) (o : Out) : (s.emit o).mh = s.mh := rfl
@[simp] theorem State.emit_rec (s : State) (o : Out) : (s.emit o).rec_ = s.rec_ := rfl
@[simp] theorem State.emit_parity (s : State) (o : Out) : (s.emit o).parity = s.parity := rfl
@[simp] theorem State.emit_temps (s : State) (o : Out) : (s.emit o).temps = s.temps := rfl
@[simp] theorem State.emit_tt (s : State) (o : Out) : (s.emit o).tt = s.tt := rfl
@[simp] theorem State.emit_pw (s : State) (o : Out) : (s.emit o).pw = s.pw := rfl
@[simp] theorem State.emit_sec (s : State) (o : Out) : (s.emit o).sec = s.sec := rfl
@[simp] theorem State.emit_alertCause (s : State) (o : Out) : (s.emit o).alertCause = s.alertCause := rfl
@[simp] theorem State.emit_alertMask (s : State) (o : Out) : (s.emit o).alertMask = s.alertMask := rfl
@[simp] theorem State.emit_smbAddr (s : State) (o : Out) : (s.emit o).smbAddr = s.smbAddr := rfl

/-! ## `State.send`, which changes `portQ` -/

@[simp] theorem State.send_pending (s : State) (p : Packet) : (s.send p).pending = s.pending := rfl
@[simp] theorem State.send_freeCtr (s : State) (p : Packet) : (s.send p).freeCtr = s.freeCtr := rfl
@[simp] theorem State.send_now (s : State) (p : Packet) : (s.send p).now = s.now := rfl
@[simp] theorem State.send_part (s : State) (p : Packet) : (s.send p).part = s.part := rfl
@[simp] theorem State.send_mapView (s : State) (p : Packet) : (s.send p).mapView = s.mapView := rfl
@[simp] theorem State.send_regs (s : State) (p : Packet) : (s.send p).regs = s.regs := rfl
@[simp] theorem State.send_latch (s : State) (p : Packet) : (s.send p).latch = s.latch := rfl
@[simp] theorem State.send_msix (s : State) (p : Packet) : (s.send p).msix = s.msix := rfl
@[simp] theorem State.send_pba (s : State) (p : Packet) : (s.send p).pba = s.pba := rfl
@[simp] theorem State.send_heldVecs (s : State) (p : Packet) : (s.send p).heldVecs = s.heldVecs := rfl
@[simp] theorem State.send_aerPoison (s : State) (p : Packet) : (s.send p).aerPoison = s.aerPoison := rfl
@[simp] theorem State.send_hostRate (s : State) (p : Packet) : (s.send p).hostRate = s.hostRate := rfl
@[simp] theorem State.send_mem (s : State) (p : Packet) : (s.send p).mem = s.mem := rfl
@[simp] theorem State.send_spad (s : State) (p : Packet) : (s.send p).spad = s.spad := rfl
@[simp] theorem State.send_out (s : State) (p : Packet) : (s.send p).out = s.out := rfl
@[simp] theorem State.send_sq (s : State) (p : Packet) : (s.send p).sq = s.sq := rfl
@[simp] theorem State.send_cq (s : State) (p : Packet) : (s.send p).cq = s.cq := rfl
@[simp] theorem State.send_descs (s : State) (p : Packet) : (s.send p).descs = s.descs := rfl
@[simp] theorem State.send_recs (s : State) (p : Packet) : (s.send p).recs = s.recs := rfl
@[simp] theorem State.send_steps (s : State) (p : Packet) : (s.send p).steps = s.steps := rfl
@[simp] theorem State.send_lastSeal (s : State) (p : Packet) : (s.send p).lastSeal = s.lastSeal := rfl
@[simp] theorem State.send_stalledTags (s : State) (p : Packet) : (s.send p).stalledTags = s.stalledTags := rfl
@[simp] theorem State.send_comm (s : State) (p : Packet) : (s.send p).comm = s.comm := rfl
@[simp] theorem State.send_live (s : State) (p : Packet) : (s.send p).live = s.live := rfl
@[simp] theorem State.send_trans (s : State) (p : Packet) : (s.send p).trans = s.trans := rfl
@[simp] theorem State.send_nanStep (s : State) (p : Packet) : (s.send p).nanStep = s.nanStep := rfl
@[simp] theorem State.send_stopped (s : State) (p : Packet) : (s.send p).stopped = s.stopped := rfl
@[simp] theorem State.send_images (s : State) (p : Packet) : (s.send p).images = s.images := rfl
@[simp] theorem State.send_vthr (s : State) (p : Packet) : (s.send p).vthr = s.vthr := rfl
@[simp] theorem State.send_tr (s : State) (p : Packet) : (s.send p).tr = s.tr := rfl
@[simp] theorem State.send_wa (s : State) (p : Packet) : (s.send p).wa = s.wa := rfl
@[simp] theorem State.send_chain (s : State) (p : Packet) : (s.send p).chain = s.chain := rfl
@[simp] theorem State.send_closes (s : State) (p : Packet) : (s.send p).closes = s.closes := rfl
@[simp] theorem State.send_passes (s : State) (p : Packet) : (s.send p).passes = s.passes := rfl
@[simp] theorem State.send_spar (s : State) (p : Packet) : (s.send p).spar = s.spar := rfl
@[simp] theorem State.send_cline (s : State) (p : Packet) : (s.send p).cline = s.cline := rfl
@[simp] theorem State.send_handles (s : State) (p : Packet) : (s.send p).handles = s.handles := rfl
@[simp] theorem State.send_nextHandle (s : State) (p : Packet) : (s.send p).nextHandle = s.nextHandle := rfl
@[simp] theorem State.send_nextChild (s : State) (p : Packet) : (s.send p).nextChild = s.nextChild := rfl
@[simp] theorem State.send_eng (s : State) (p : Packet) : (s.send p).eng = s.eng := rfl
@[simp] theorem State.send_wsOpen (s : State) (p : Packet) : (s.send p).wsOpen = s.wsOpen := rfl
@[simp] theorem State.send_beatLast (s : State) (p : Packet) : (s.send p).beatLast = s.beatLast := rfl
@[simp] theorem State.send_flywheel (s : State) (p : Packet) : (s.send p).flywheel = s.flywheel := rfl
@[simp] theorem State.send_beatWait (s : State) (p : Packet) : (s.send p).beatWait = s.beatWait := rfl
@[simp] theorem State.send_beatTaken (s : State) (p : Packet) : (s.send p).beatTaken = s.beatTaken := rfl
@[simp] theorem State.send_due (s : State) (p : Packet) : (s.send p).due = s.due := rfl
@[simp] theorem State.send_expDone (s : State) (p : Packet) : (s.send p).expDone = s.expDone := rfl
@[simp] theorem State.send_logWr (s : State) (p : Packet) : (s.send p).logWr = s.logWr := rfl
@[simp] theorem State.send_logQ (s : State) (p : Packet) : (s.send p).logQ = s.logQ := rfl
@[simp] theorem State.send_setups (s : State) (p : Packet) : (s.send p).setups = s.setups := rfl
@[simp] theorem State.send_ports (s : State) (p : Packet) : (s.send p).ports = s.ports := rfl
@[simp] theorem State.send_remote (s : State) (p : Packet) : (s.send p).remote = s.remote := rfl
@[simp] theorem State.send_coll (s : State) (p : Packet) : (s.send p).coll = s.coll := rfl
@[simp] theorem State.send_trails (s : State) (p : Packet) : (s.send p).trails = s.trails := rfl
@[simp] theorem State.send_trailRx (s : State) (p : Packet) : (s.send p).trailRx = s.trailRx := rfl
@[simp] theorem State.send_ckpt (s : State) (p : Packet) : (s.send p).ckpt = s.ckpt := rfl
@[simp] theorem State.send_mh (s : State) (p : Packet) : (s.send p).mh = s.mh := rfl
@[simp] theorem State.send_rec (s : State) (p : Packet) : (s.send p).rec_ = s.rec_ := rfl
@[simp] theorem State.send_parity (s : State) (p : Packet) : (s.send p).parity = s.parity := rfl
@[simp] theorem State.send_temps (s : State) (p : Packet) : (s.send p).temps = s.temps := rfl
@[simp] theorem State.send_tt (s : State) (p : Packet) : (s.send p).tt = s.tt := rfl
@[simp] theorem State.send_pw (s : State) (p : Packet) : (s.send p).pw = s.pw := rfl
@[simp] theorem State.send_sec (s : State) (p : Packet) : (s.send p).sec = s.sec := rfl
@[simp] theorem State.send_alertCause (s : State) (p : Packet) : (s.send p).alertCause = s.alertCause := rfl
@[simp] theorem State.send_alertMask (s : State) (p : Packet) : (s.send p).alertMask = s.alertMask := rfl
@[simp] theorem State.send_smbAddr (s : State) (p : Packet) : (s.send p).smbAddr = s.smbAddr := rfl

/-! ## `State.setWord`, which changes `regs` -/

@[simp] theorem State.setWord_pending (s : State) (a : Nat) (v : BitVec 64) : (s.setWord a v).pending = s.pending := rfl
@[simp] theorem State.setWord_freeCtr (s : State) (a : Nat) (v : BitVec 64) : (s.setWord a v).freeCtr = s.freeCtr := rfl
@[simp] theorem State.setWord_now (s : State) (a : Nat) (v : BitVec 64) : (s.setWord a v).now = s.now := rfl
@[simp] theorem State.setWord_part (s : State) (a : Nat) (v : BitVec 64) : (s.setWord a v).part = s.part := rfl
@[simp] theorem State.setWord_mapView (s : State) (a : Nat) (v : BitVec 64) : (s.setWord a v).mapView = s.mapView := rfl
@[simp] theorem State.setWord_latch (s : State) (a : Nat) (v : BitVec 64) : (s.setWord a v).latch = s.latch := rfl
@[simp] theorem State.setWord_msix (s : State) (a : Nat) (v : BitVec 64) : (s.setWord a v).msix = s.msix := rfl
@[simp] theorem State.setWord_pba (s : State) (a : Nat) (v : BitVec 64) : (s.setWord a v).pba = s.pba := rfl
@[simp] theorem State.setWord_heldVecs (s : State) (a : Nat) (v : BitVec 64) : (s.setWord a v).heldVecs = s.heldVecs := rfl
@[simp] theorem State.setWord_aerPoison (s : State) (a : Nat) (v : BitVec 64) : (s.setWord a v).aerPoison = s.aerPoison := rfl
@[simp] theorem State.setWord_hostRate (s : State) (a : Nat) (v : BitVec 64) : (s.setWord a v).hostRate = s.hostRate := rfl
@[simp] theorem State.setWord_mem (s : State) (a : Nat) (v : BitVec 64) : (s.setWord a v).mem = s.mem := rfl
@[simp] theorem State.setWord_spad (s : State) (a : Nat) (v : BitVec 64) : (s.setWord a v).spad = s.spad := rfl
@[simp] theorem State.setWord_out (s : State) (a : Nat) (v : BitVec 64) : (s.setWord a v).out = s.out := rfl
@[simp] theorem State.setWord_sq (s : State) (a : Nat) (v : BitVec 64) : (s.setWord a v).sq = s.sq := rfl
@[simp] theorem State.setWord_cq (s : State) (a : Nat) (v : BitVec 64) : (s.setWord a v).cq = s.cq := rfl
@[simp] theorem State.setWord_descs (s : State) (a : Nat) (v : BitVec 64) : (s.setWord a v).descs = s.descs := rfl
@[simp] theorem State.setWord_recs (s : State) (a : Nat) (v : BitVec 64) : (s.setWord a v).recs = s.recs := rfl
@[simp] theorem State.setWord_steps (s : State) (a : Nat) (v : BitVec 64) : (s.setWord a v).steps = s.steps := rfl
@[simp] theorem State.setWord_lastSeal (s : State) (a : Nat) (v : BitVec 64) : (s.setWord a v).lastSeal = s.lastSeal := rfl
@[simp] theorem State.setWord_stalledTags (s : State) (a : Nat) (v : BitVec 64) : (s.setWord a v).stalledTags = s.stalledTags := rfl
@[simp] theorem State.setWord_comm (s : State) (a : Nat) (v : BitVec 64) : (s.setWord a v).comm = s.comm := rfl
@[simp] theorem State.setWord_live (s : State) (a : Nat) (v : BitVec 64) : (s.setWord a v).live = s.live := rfl
@[simp] theorem State.setWord_trans (s : State) (a : Nat) (v : BitVec 64) : (s.setWord a v).trans = s.trans := rfl
@[simp] theorem State.setWord_nanStep (s : State) (a : Nat) (v : BitVec 64) : (s.setWord a v).nanStep = s.nanStep := rfl
@[simp] theorem State.setWord_stopped (s : State) (a : Nat) (v : BitVec 64) : (s.setWord a v).stopped = s.stopped := rfl
@[simp] theorem State.setWord_images (s : State) (a : Nat) (v : BitVec 64) : (s.setWord a v).images = s.images := rfl
@[simp] theorem State.setWord_vthr (s : State) (a : Nat) (v : BitVec 64) : (s.setWord a v).vthr = s.vthr := rfl
@[simp] theorem State.setWord_tr (s : State) (a : Nat) (v : BitVec 64) : (s.setWord a v).tr = s.tr := rfl
@[simp] theorem State.setWord_wa (s : State) (a : Nat) (v : BitVec 64) : (s.setWord a v).wa = s.wa := rfl
@[simp] theorem State.setWord_chain (s : State) (a : Nat) (v : BitVec 64) : (s.setWord a v).chain = s.chain := rfl
@[simp] theorem State.setWord_closes (s : State) (a : Nat) (v : BitVec 64) : (s.setWord a v).closes = s.closes := rfl
@[simp] theorem State.setWord_passes (s : State) (a : Nat) (v : BitVec 64) : (s.setWord a v).passes = s.passes := rfl
@[simp] theorem State.setWord_spar (s : State) (a : Nat) (v : BitVec 64) : (s.setWord a v).spar = s.spar := rfl
@[simp] theorem State.setWord_cline (s : State) (a : Nat) (v : BitVec 64) : (s.setWord a v).cline = s.cline := rfl
@[simp] theorem State.setWord_handles (s : State) (a : Nat) (v : BitVec 64) : (s.setWord a v).handles = s.handles := rfl
@[simp] theorem State.setWord_nextHandle (s : State) (a : Nat) (v : BitVec 64) : (s.setWord a v).nextHandle = s.nextHandle := rfl
@[simp] theorem State.setWord_nextChild (s : State) (a : Nat) (v : BitVec 64) : (s.setWord a v).nextChild = s.nextChild := rfl
@[simp] theorem State.setWord_eng (s : State) (a : Nat) (v : BitVec 64) : (s.setWord a v).eng = s.eng := rfl
@[simp] theorem State.setWord_wsOpen (s : State) (a : Nat) (v : BitVec 64) : (s.setWord a v).wsOpen = s.wsOpen := rfl
@[simp] theorem State.setWord_beatLast (s : State) (a : Nat) (v : BitVec 64) : (s.setWord a v).beatLast = s.beatLast := rfl
@[simp] theorem State.setWord_flywheel (s : State) (a : Nat) (v : BitVec 64) : (s.setWord a v).flywheel = s.flywheel := rfl
@[simp] theorem State.setWord_beatWait (s : State) (a : Nat) (v : BitVec 64) : (s.setWord a v).beatWait = s.beatWait := rfl
@[simp] theorem State.setWord_beatTaken (s : State) (a : Nat) (v : BitVec 64) : (s.setWord a v).beatTaken = s.beatTaken := rfl
@[simp] theorem State.setWord_due (s : State) (a : Nat) (v : BitVec 64) : (s.setWord a v).due = s.due := rfl
@[simp] theorem State.setWord_expDone (s : State) (a : Nat) (v : BitVec 64) : (s.setWord a v).expDone = s.expDone := rfl
@[simp] theorem State.setWord_logWr (s : State) (a : Nat) (v : BitVec 64) : (s.setWord a v).logWr = s.logWr := rfl
@[simp] theorem State.setWord_logQ (s : State) (a : Nat) (v : BitVec 64) : (s.setWord a v).logQ = s.logQ := rfl
@[simp] theorem State.setWord_setups (s : State) (a : Nat) (v : BitVec 64) : (s.setWord a v).setups = s.setups := rfl
@[simp] theorem State.setWord_ports (s : State) (a : Nat) (v : BitVec 64) : (s.setWord a v).ports = s.ports := rfl
@[simp] theorem State.setWord_portQ (s : State) (a : Nat) (v : BitVec 64) : (s.setWord a v).portQ = s.portQ := rfl
@[simp] theorem State.setWord_remote (s : State) (a : Nat) (v : BitVec 64) : (s.setWord a v).remote = s.remote := rfl
@[simp] theorem State.setWord_coll (s : State) (a : Nat) (v : BitVec 64) : (s.setWord a v).coll = s.coll := rfl
@[simp] theorem State.setWord_trails (s : State) (a : Nat) (v : BitVec 64) : (s.setWord a v).trails = s.trails := rfl
@[simp] theorem State.setWord_trailRx (s : State) (a : Nat) (v : BitVec 64) : (s.setWord a v).trailRx = s.trailRx := rfl
@[simp] theorem State.setWord_ckpt (s : State) (a : Nat) (v : BitVec 64) : (s.setWord a v).ckpt = s.ckpt := rfl
@[simp] theorem State.setWord_mh (s : State) (a : Nat) (v : BitVec 64) : (s.setWord a v).mh = s.mh := rfl
@[simp] theorem State.setWord_rec (s : State) (a : Nat) (v : BitVec 64) : (s.setWord a v).rec_ = s.rec_ := rfl
@[simp] theorem State.setWord_parity (s : State) (a : Nat) (v : BitVec 64) : (s.setWord a v).parity = s.parity := rfl
@[simp] theorem State.setWord_temps (s : State) (a : Nat) (v : BitVec 64) : (s.setWord a v).temps = s.temps := rfl
@[simp] theorem State.setWord_tt (s : State) (a : Nat) (v : BitVec 64) : (s.setWord a v).tt = s.tt := rfl
@[simp] theorem State.setWord_pw (s : State) (a : Nat) (v : BitVec 64) : (s.setWord a v).pw = s.pw := rfl
@[simp] theorem State.setWord_sec (s : State) (a : Nat) (v : BitVec 64) : (s.setWord a v).sec = s.sec := rfl
@[simp] theorem State.setWord_alertCause (s : State) (a : Nat) (v : BitVec 64) : (s.setWord a v).alertCause = s.alertCause := rfl
@[simp] theorem State.setWord_alertMask (s : State) (a : Nat) (v : BitVec 64) : (s.setWord a v).alertMask = s.alertMask := rfl
@[simp] theorem State.setWord_smbAddr (s : State) (a : Nat) (v : BitVec 64) : (s.setWord a v).smbAddr = s.smbAddr := rfl

/-! ## `State.setFld`, which changes `regs` -/

@[simp] theorem State.setFld_pending (s : State) (f : Reg.Fld) (v : Nat) : (s.setFld f v).pending = s.pending := rfl
@[simp] theorem State.setFld_freeCtr (s : State) (f : Reg.Fld) (v : Nat) : (s.setFld f v).freeCtr = s.freeCtr := rfl
@[simp] theorem State.setFld_now (s : State) (f : Reg.Fld) (v : Nat) : (s.setFld f v).now = s.now := rfl
@[simp] theorem State.setFld_part (s : State) (f : Reg.Fld) (v : Nat) : (s.setFld f v).part = s.part := rfl
@[simp] theorem State.setFld_mapView (s : State) (f : Reg.Fld) (v : Nat) : (s.setFld f v).mapView = s.mapView := rfl
@[simp] theorem State.setFld_latch (s : State) (f : Reg.Fld) (v : Nat) : (s.setFld f v).latch = s.latch := rfl
@[simp] theorem State.setFld_msix (s : State) (f : Reg.Fld) (v : Nat) : (s.setFld f v).msix = s.msix := rfl
@[simp] theorem State.setFld_pba (s : State) (f : Reg.Fld) (v : Nat) : (s.setFld f v).pba = s.pba := rfl
@[simp] theorem State.setFld_heldVecs (s : State) (f : Reg.Fld) (v : Nat) : (s.setFld f v).heldVecs = s.heldVecs := rfl
@[simp] theorem State.setFld_aerPoison (s : State) (f : Reg.Fld) (v : Nat) : (s.setFld f v).aerPoison = s.aerPoison := rfl
@[simp] theorem State.setFld_hostRate (s : State) (f : Reg.Fld) (v : Nat) : (s.setFld f v).hostRate = s.hostRate := rfl
@[simp] theorem State.setFld_mem (s : State) (f : Reg.Fld) (v : Nat) : (s.setFld f v).mem = s.mem := rfl
@[simp] theorem State.setFld_spad (s : State) (f : Reg.Fld) (v : Nat) : (s.setFld f v).spad = s.spad := rfl
@[simp] theorem State.setFld_out (s : State) (f : Reg.Fld) (v : Nat) : (s.setFld f v).out = s.out := rfl
@[simp] theorem State.setFld_sq (s : State) (f : Reg.Fld) (v : Nat) : (s.setFld f v).sq = s.sq := rfl
@[simp] theorem State.setFld_cq (s : State) (f : Reg.Fld) (v : Nat) : (s.setFld f v).cq = s.cq := rfl
@[simp] theorem State.setFld_descs (s : State) (f : Reg.Fld) (v : Nat) : (s.setFld f v).descs = s.descs := rfl
@[simp] theorem State.setFld_recs (s : State) (f : Reg.Fld) (v : Nat) : (s.setFld f v).recs = s.recs := rfl
@[simp] theorem State.setFld_steps (s : State) (f : Reg.Fld) (v : Nat) : (s.setFld f v).steps = s.steps := rfl
@[simp] theorem State.setFld_lastSeal (s : State) (f : Reg.Fld) (v : Nat) : (s.setFld f v).lastSeal = s.lastSeal := rfl
@[simp] theorem State.setFld_stalledTags (s : State) (f : Reg.Fld) (v : Nat) : (s.setFld f v).stalledTags = s.stalledTags := rfl
@[simp] theorem State.setFld_comm (s : State) (f : Reg.Fld) (v : Nat) : (s.setFld f v).comm = s.comm := rfl
@[simp] theorem State.setFld_live (s : State) (f : Reg.Fld) (v : Nat) : (s.setFld f v).live = s.live := rfl
@[simp] theorem State.setFld_trans (s : State) (f : Reg.Fld) (v : Nat) : (s.setFld f v).trans = s.trans := rfl
@[simp] theorem State.setFld_nanStep (s : State) (f : Reg.Fld) (v : Nat) : (s.setFld f v).nanStep = s.nanStep := rfl
@[simp] theorem State.setFld_stopped (s : State) (f : Reg.Fld) (v : Nat) : (s.setFld f v).stopped = s.stopped := rfl
@[simp] theorem State.setFld_images (s : State) (f : Reg.Fld) (v : Nat) : (s.setFld f v).images = s.images := rfl
@[simp] theorem State.setFld_vthr (s : State) (f : Reg.Fld) (v : Nat) : (s.setFld f v).vthr = s.vthr := rfl
@[simp] theorem State.setFld_tr (s : State) (f : Reg.Fld) (v : Nat) : (s.setFld f v).tr = s.tr := rfl
@[simp] theorem State.setFld_wa (s : State) (f : Reg.Fld) (v : Nat) : (s.setFld f v).wa = s.wa := rfl
@[simp] theorem State.setFld_chain (s : State) (f : Reg.Fld) (v : Nat) : (s.setFld f v).chain = s.chain := rfl
@[simp] theorem State.setFld_closes (s : State) (f : Reg.Fld) (v : Nat) : (s.setFld f v).closes = s.closes := rfl
@[simp] theorem State.setFld_passes (s : State) (f : Reg.Fld) (v : Nat) : (s.setFld f v).passes = s.passes := rfl
@[simp] theorem State.setFld_spar (s : State) (f : Reg.Fld) (v : Nat) : (s.setFld f v).spar = s.spar := rfl
@[simp] theorem State.setFld_cline (s : State) (f : Reg.Fld) (v : Nat) : (s.setFld f v).cline = s.cline := rfl
@[simp] theorem State.setFld_handles (s : State) (f : Reg.Fld) (v : Nat) : (s.setFld f v).handles = s.handles := rfl
@[simp] theorem State.setFld_nextHandle (s : State) (f : Reg.Fld) (v : Nat) : (s.setFld f v).nextHandle = s.nextHandle := rfl
@[simp] theorem State.setFld_nextChild (s : State) (f : Reg.Fld) (v : Nat) : (s.setFld f v).nextChild = s.nextChild := rfl
@[simp] theorem State.setFld_eng (s : State) (f : Reg.Fld) (v : Nat) : (s.setFld f v).eng = s.eng := rfl
@[simp] theorem State.setFld_wsOpen (s : State) (f : Reg.Fld) (v : Nat) : (s.setFld f v).wsOpen = s.wsOpen := rfl
@[simp] theorem State.setFld_beatLast (s : State) (f : Reg.Fld) (v : Nat) : (s.setFld f v).beatLast = s.beatLast := rfl
@[simp] theorem State.setFld_flywheel (s : State) (f : Reg.Fld) (v : Nat) : (s.setFld f v).flywheel = s.flywheel := rfl
@[simp] theorem State.setFld_beatWait (s : State) (f : Reg.Fld) (v : Nat) : (s.setFld f v).beatWait = s.beatWait := rfl
@[simp] theorem State.setFld_beatTaken (s : State) (f : Reg.Fld) (v : Nat) : (s.setFld f v).beatTaken = s.beatTaken := rfl
@[simp] theorem State.setFld_due (s : State) (f : Reg.Fld) (v : Nat) : (s.setFld f v).due = s.due := rfl
@[simp] theorem State.setFld_expDone (s : State) (f : Reg.Fld) (v : Nat) : (s.setFld f v).expDone = s.expDone := rfl
@[simp] theorem State.setFld_logWr (s : State) (f : Reg.Fld) (v : Nat) : (s.setFld f v).logWr = s.logWr := rfl
@[simp] theorem State.setFld_logQ (s : State) (f : Reg.Fld) (v : Nat) : (s.setFld f v).logQ = s.logQ := rfl
@[simp] theorem State.setFld_setups (s : State) (f : Reg.Fld) (v : Nat) : (s.setFld f v).setups = s.setups := rfl
@[simp] theorem State.setFld_ports (s : State) (f : Reg.Fld) (v : Nat) : (s.setFld f v).ports = s.ports := rfl
@[simp] theorem State.setFld_portQ (s : State) (f : Reg.Fld) (v : Nat) : (s.setFld f v).portQ = s.portQ := rfl
@[simp] theorem State.setFld_remote (s : State) (f : Reg.Fld) (v : Nat) : (s.setFld f v).remote = s.remote := rfl
@[simp] theorem State.setFld_coll (s : State) (f : Reg.Fld) (v : Nat) : (s.setFld f v).coll = s.coll := rfl
@[simp] theorem State.setFld_trails (s : State) (f : Reg.Fld) (v : Nat) : (s.setFld f v).trails = s.trails := rfl
@[simp] theorem State.setFld_trailRx (s : State) (f : Reg.Fld) (v : Nat) : (s.setFld f v).trailRx = s.trailRx := rfl
@[simp] theorem State.setFld_ckpt (s : State) (f : Reg.Fld) (v : Nat) : (s.setFld f v).ckpt = s.ckpt := rfl
@[simp] theorem State.setFld_mh (s : State) (f : Reg.Fld) (v : Nat) : (s.setFld f v).mh = s.mh := rfl
@[simp] theorem State.setFld_rec (s : State) (f : Reg.Fld) (v : Nat) : (s.setFld f v).rec_ = s.rec_ := rfl
@[simp] theorem State.setFld_parity (s : State) (f : Reg.Fld) (v : Nat) : (s.setFld f v).parity = s.parity := rfl
@[simp] theorem State.setFld_temps (s : State) (f : Reg.Fld) (v : Nat) : (s.setFld f v).temps = s.temps := rfl
@[simp] theorem State.setFld_tt (s : State) (f : Reg.Fld) (v : Nat) : (s.setFld f v).tt = s.tt := rfl
@[simp] theorem State.setFld_pw (s : State) (f : Reg.Fld) (v : Nat) : (s.setFld f v).pw = s.pw := rfl
@[simp] theorem State.setFld_sec (s : State) (f : Reg.Fld) (v : Nat) : (s.setFld f v).sec = s.sec := rfl
@[simp] theorem State.setFld_alertCause (s : State) (f : Reg.Fld) (v : Nat) : (s.setFld f v).alertCause = s.alertCause := rfl
@[simp] theorem State.setFld_alertMask (s : State) (f : Reg.Fld) (v : Nat) : (s.setFld f v).alertMask = s.alertMask := rfl
@[simp] theorem State.setFld_smbAddr (s : State) (f : Reg.Fld) (v : Nat) : (s.setFld f v).smbAddr = s.smbAddr := rfl

/-! ## `State.setPort`, which changes `ports` -/

@[simp] theorem State.setPort_pending (s : State) (p : Nat) (x : Port) : (s.setPort p x).pending = s.pending := rfl
@[simp] theorem State.setPort_freeCtr (s : State) (p : Nat) (x : Port) : (s.setPort p x).freeCtr = s.freeCtr := rfl
@[simp] theorem State.setPort_now (s : State) (p : Nat) (x : Port) : (s.setPort p x).now = s.now := rfl
@[simp] theorem State.setPort_part (s : State) (p : Nat) (x : Port) : (s.setPort p x).part = s.part := rfl
@[simp] theorem State.setPort_mapView (s : State) (p : Nat) (x : Port) : (s.setPort p x).mapView = s.mapView := rfl
@[simp] theorem State.setPort_regs (s : State) (p : Nat) (x : Port) : (s.setPort p x).regs = s.regs := rfl
@[simp] theorem State.setPort_latch (s : State) (p : Nat) (x : Port) : (s.setPort p x).latch = s.latch := rfl
@[simp] theorem State.setPort_msix (s : State) (p : Nat) (x : Port) : (s.setPort p x).msix = s.msix := rfl
@[simp] theorem State.setPort_pba (s : State) (p : Nat) (x : Port) : (s.setPort p x).pba = s.pba := rfl
@[simp] theorem State.setPort_heldVecs (s : State) (p : Nat) (x : Port) : (s.setPort p x).heldVecs = s.heldVecs := rfl
@[simp] theorem State.setPort_aerPoison (s : State) (p : Nat) (x : Port) : (s.setPort p x).aerPoison = s.aerPoison := rfl
@[simp] theorem State.setPort_hostRate (s : State) (p : Nat) (x : Port) : (s.setPort p x).hostRate = s.hostRate := rfl
@[simp] theorem State.setPort_mem (s : State) (p : Nat) (x : Port) : (s.setPort p x).mem = s.mem := rfl
@[simp] theorem State.setPort_spad (s : State) (p : Nat) (x : Port) : (s.setPort p x).spad = s.spad := rfl
@[simp] theorem State.setPort_out (s : State) (p : Nat) (x : Port) : (s.setPort p x).out = s.out := rfl
@[simp] theorem State.setPort_sq (s : State) (p : Nat) (x : Port) : (s.setPort p x).sq = s.sq := rfl
@[simp] theorem State.setPort_cq (s : State) (p : Nat) (x : Port) : (s.setPort p x).cq = s.cq := rfl
@[simp] theorem State.setPort_descs (s : State) (p : Nat) (x : Port) : (s.setPort p x).descs = s.descs := rfl
@[simp] theorem State.setPort_recs (s : State) (p : Nat) (x : Port) : (s.setPort p x).recs = s.recs := rfl
@[simp] theorem State.setPort_steps (s : State) (p : Nat) (x : Port) : (s.setPort p x).steps = s.steps := rfl
@[simp] theorem State.setPort_lastSeal (s : State) (p : Nat) (x : Port) : (s.setPort p x).lastSeal = s.lastSeal := rfl
@[simp] theorem State.setPort_stalledTags (s : State) (p : Nat) (x : Port) : (s.setPort p x).stalledTags = s.stalledTags := rfl
@[simp] theorem State.setPort_comm (s : State) (p : Nat) (x : Port) : (s.setPort p x).comm = s.comm := rfl
@[simp] theorem State.setPort_live (s : State) (p : Nat) (x : Port) : (s.setPort p x).live = s.live := rfl
@[simp] theorem State.setPort_trans (s : State) (p : Nat) (x : Port) : (s.setPort p x).trans = s.trans := rfl
@[simp] theorem State.setPort_nanStep (s : State) (p : Nat) (x : Port) : (s.setPort p x).nanStep = s.nanStep := rfl
@[simp] theorem State.setPort_stopped (s : State) (p : Nat) (x : Port) : (s.setPort p x).stopped = s.stopped := rfl
@[simp] theorem State.setPort_images (s : State) (p : Nat) (x : Port) : (s.setPort p x).images = s.images := rfl
@[simp] theorem State.setPort_vthr (s : State) (p : Nat) (x : Port) : (s.setPort p x).vthr = s.vthr := rfl
@[simp] theorem State.setPort_tr (s : State) (p : Nat) (x : Port) : (s.setPort p x).tr = s.tr := rfl
@[simp] theorem State.setPort_wa (s : State) (p : Nat) (x : Port) : (s.setPort p x).wa = s.wa := rfl
@[simp] theorem State.setPort_chain (s : State) (p : Nat) (x : Port) : (s.setPort p x).chain = s.chain := rfl
@[simp] theorem State.setPort_closes (s : State) (p : Nat) (x : Port) : (s.setPort p x).closes = s.closes := rfl
@[simp] theorem State.setPort_passes (s : State) (p : Nat) (x : Port) : (s.setPort p x).passes = s.passes := rfl
@[simp] theorem State.setPort_spar (s : State) (p : Nat) (x : Port) : (s.setPort p x).spar = s.spar := rfl
@[simp] theorem State.setPort_cline (s : State) (p : Nat) (x : Port) : (s.setPort p x).cline = s.cline := rfl
@[simp] theorem State.setPort_handles (s : State) (p : Nat) (x : Port) : (s.setPort p x).handles = s.handles := rfl
@[simp] theorem State.setPort_nextHandle (s : State) (p : Nat) (x : Port) : (s.setPort p x).nextHandle = s.nextHandle := rfl
@[simp] theorem State.setPort_nextChild (s : State) (p : Nat) (x : Port) : (s.setPort p x).nextChild = s.nextChild := rfl
@[simp] theorem State.setPort_eng (s : State) (p : Nat) (x : Port) : (s.setPort p x).eng = s.eng := rfl
@[simp] theorem State.setPort_wsOpen (s : State) (p : Nat) (x : Port) : (s.setPort p x).wsOpen = s.wsOpen := rfl
@[simp] theorem State.setPort_beatLast (s : State) (p : Nat) (x : Port) : (s.setPort p x).beatLast = s.beatLast := rfl
@[simp] theorem State.setPort_flywheel (s : State) (p : Nat) (x : Port) : (s.setPort p x).flywheel = s.flywheel := rfl
@[simp] theorem State.setPort_beatWait (s : State) (p : Nat) (x : Port) : (s.setPort p x).beatWait = s.beatWait := rfl
@[simp] theorem State.setPort_beatTaken (s : State) (p : Nat) (x : Port) : (s.setPort p x).beatTaken = s.beatTaken := rfl
@[simp] theorem State.setPort_due (s : State) (p : Nat) (x : Port) : (s.setPort p x).due = s.due := rfl
@[simp] theorem State.setPort_expDone (s : State) (p : Nat) (x : Port) : (s.setPort p x).expDone = s.expDone := rfl
@[simp] theorem State.setPort_logWr (s : State) (p : Nat) (x : Port) : (s.setPort p x).logWr = s.logWr := rfl
@[simp] theorem State.setPort_logQ (s : State) (p : Nat) (x : Port) : (s.setPort p x).logQ = s.logQ := rfl
@[simp] theorem State.setPort_setups (s : State) (p : Nat) (x : Port) : (s.setPort p x).setups = s.setups := rfl
@[simp] theorem State.setPort_portQ (s : State) (p : Nat) (x : Port) : (s.setPort p x).portQ = s.portQ := rfl
@[simp] theorem State.setPort_remote (s : State) (p : Nat) (x : Port) : (s.setPort p x).remote = s.remote := rfl
@[simp] theorem State.setPort_coll (s : State) (p : Nat) (x : Port) : (s.setPort p x).coll = s.coll := rfl
@[simp] theorem State.setPort_trails (s : State) (p : Nat) (x : Port) : (s.setPort p x).trails = s.trails := rfl
@[simp] theorem State.setPort_trailRx (s : State) (p : Nat) (x : Port) : (s.setPort p x).trailRx = s.trailRx := rfl
@[simp] theorem State.setPort_ckpt (s : State) (p : Nat) (x : Port) : (s.setPort p x).ckpt = s.ckpt := rfl
@[simp] theorem State.setPort_mh (s : State) (p : Nat) (x : Port) : (s.setPort p x).mh = s.mh := rfl
@[simp] theorem State.setPort_rec (s : State) (p : Nat) (x : Port) : (s.setPort p x).rec_ = s.rec_ := rfl
@[simp] theorem State.setPort_parity (s : State) (p : Nat) (x : Port) : (s.setPort p x).parity = s.parity := rfl
@[simp] theorem State.setPort_temps (s : State) (p : Nat) (x : Port) : (s.setPort p x).temps = s.temps := rfl
@[simp] theorem State.setPort_tt (s : State) (p : Nat) (x : Port) : (s.setPort p x).tt = s.tt := rfl
@[simp] theorem State.setPort_pw (s : State) (p : Nat) (x : Port) : (s.setPort p x).pw = s.pw := rfl
@[simp] theorem State.setPort_sec (s : State) (p : Nat) (x : Port) : (s.setPort p x).sec = s.sec := rfl
@[simp] theorem State.setPort_alertCause (s : State) (p : Nat) (x : Port) : (s.setPort p x).alertCause = s.alertCause := rfl
@[simp] theorem State.setPort_alertMask (s : State) (p : Nat) (x : Port) : (s.setPort p x).alertMask = s.alertMask := rfl
@[simp] theorem State.setPort_smbAddr (s : State) (p : Nat) (x : Port) : (s.setPort p x).smbAddr = s.smbAddr := rfl

/-! ## `State.alert`, which changes `alertCause` -/

@[simp] theorem State.alert_pending (s : State) (m : BitVec 16) : (s.alert m).pending = s.pending := rfl
@[simp] theorem State.alert_freeCtr (s : State) (m : BitVec 16) : (s.alert m).freeCtr = s.freeCtr := rfl
@[simp] theorem State.alert_now (s : State) (m : BitVec 16) : (s.alert m).now = s.now := rfl
@[simp] theorem State.alert_part (s : State) (m : BitVec 16) : (s.alert m).part = s.part := rfl
@[simp] theorem State.alert_mapView (s : State) (m : BitVec 16) : (s.alert m).mapView = s.mapView := rfl
@[simp] theorem State.alert_regs (s : State) (m : BitVec 16) : (s.alert m).regs = s.regs := rfl
@[simp] theorem State.alert_latch (s : State) (m : BitVec 16) : (s.alert m).latch = s.latch := rfl
@[simp] theorem State.alert_msix (s : State) (m : BitVec 16) : (s.alert m).msix = s.msix := rfl
@[simp] theorem State.alert_pba (s : State) (m : BitVec 16) : (s.alert m).pba = s.pba := rfl
@[simp] theorem State.alert_heldVecs (s : State) (m : BitVec 16) : (s.alert m).heldVecs = s.heldVecs := rfl
@[simp] theorem State.alert_aerPoison (s : State) (m : BitVec 16) : (s.alert m).aerPoison = s.aerPoison := rfl
@[simp] theorem State.alert_hostRate (s : State) (m : BitVec 16) : (s.alert m).hostRate = s.hostRate := rfl
@[simp] theorem State.alert_mem (s : State) (m : BitVec 16) : (s.alert m).mem = s.mem := rfl
@[simp] theorem State.alert_spad (s : State) (m : BitVec 16) : (s.alert m).spad = s.spad := rfl
@[simp] theorem State.alert_out (s : State) (m : BitVec 16) : (s.alert m).out = s.out := rfl
@[simp] theorem State.alert_sq (s : State) (m : BitVec 16) : (s.alert m).sq = s.sq := rfl
@[simp] theorem State.alert_cq (s : State) (m : BitVec 16) : (s.alert m).cq = s.cq := rfl
@[simp] theorem State.alert_descs (s : State) (m : BitVec 16) : (s.alert m).descs = s.descs := rfl
@[simp] theorem State.alert_recs (s : State) (m : BitVec 16) : (s.alert m).recs = s.recs := rfl
@[simp] theorem State.alert_steps (s : State) (m : BitVec 16) : (s.alert m).steps = s.steps := rfl
@[simp] theorem State.alert_lastSeal (s : State) (m : BitVec 16) : (s.alert m).lastSeal = s.lastSeal := rfl
@[simp] theorem State.alert_stalledTags (s : State) (m : BitVec 16) : (s.alert m).stalledTags = s.stalledTags := rfl
@[simp] theorem State.alert_comm (s : State) (m : BitVec 16) : (s.alert m).comm = s.comm := rfl
@[simp] theorem State.alert_live (s : State) (m : BitVec 16) : (s.alert m).live = s.live := rfl
@[simp] theorem State.alert_trans (s : State) (m : BitVec 16) : (s.alert m).trans = s.trans := rfl
@[simp] theorem State.alert_nanStep (s : State) (m : BitVec 16) : (s.alert m).nanStep = s.nanStep := rfl
@[simp] theorem State.alert_stopped (s : State) (m : BitVec 16) : (s.alert m).stopped = s.stopped := rfl
@[simp] theorem State.alert_images (s : State) (m : BitVec 16) : (s.alert m).images = s.images := rfl
@[simp] theorem State.alert_vthr (s : State) (m : BitVec 16) : (s.alert m).vthr = s.vthr := rfl
@[simp] theorem State.alert_tr (s : State) (m : BitVec 16) : (s.alert m).tr = s.tr := rfl
@[simp] theorem State.alert_wa (s : State) (m : BitVec 16) : (s.alert m).wa = s.wa := rfl
@[simp] theorem State.alert_chain (s : State) (m : BitVec 16) : (s.alert m).chain = s.chain := rfl
@[simp] theorem State.alert_closes (s : State) (m : BitVec 16) : (s.alert m).closes = s.closes := rfl
@[simp] theorem State.alert_passes (s : State) (m : BitVec 16) : (s.alert m).passes = s.passes := rfl
@[simp] theorem State.alert_spar (s : State) (m : BitVec 16) : (s.alert m).spar = s.spar := rfl
@[simp] theorem State.alert_cline (s : State) (m : BitVec 16) : (s.alert m).cline = s.cline := rfl
@[simp] theorem State.alert_handles (s : State) (m : BitVec 16) : (s.alert m).handles = s.handles := rfl
@[simp] theorem State.alert_nextHandle (s : State) (m : BitVec 16) : (s.alert m).nextHandle = s.nextHandle := rfl
@[simp] theorem State.alert_nextChild (s : State) (m : BitVec 16) : (s.alert m).nextChild = s.nextChild := rfl
@[simp] theorem State.alert_eng (s : State) (m : BitVec 16) : (s.alert m).eng = s.eng := rfl
@[simp] theorem State.alert_wsOpen (s : State) (m : BitVec 16) : (s.alert m).wsOpen = s.wsOpen := rfl
@[simp] theorem State.alert_beatLast (s : State) (m : BitVec 16) : (s.alert m).beatLast = s.beatLast := rfl
@[simp] theorem State.alert_flywheel (s : State) (m : BitVec 16) : (s.alert m).flywheel = s.flywheel := rfl
@[simp] theorem State.alert_beatWait (s : State) (m : BitVec 16) : (s.alert m).beatWait = s.beatWait := rfl
@[simp] theorem State.alert_beatTaken (s : State) (m : BitVec 16) : (s.alert m).beatTaken = s.beatTaken := rfl
@[simp] theorem State.alert_due (s : State) (m : BitVec 16) : (s.alert m).due = s.due := rfl
@[simp] theorem State.alert_expDone (s : State) (m : BitVec 16) : (s.alert m).expDone = s.expDone := rfl
@[simp] theorem State.alert_logWr (s : State) (m : BitVec 16) : (s.alert m).logWr = s.logWr := rfl
@[simp] theorem State.alert_logQ (s : State) (m : BitVec 16) : (s.alert m).logQ = s.logQ := rfl
@[simp] theorem State.alert_setups (s : State) (m : BitVec 16) : (s.alert m).setups = s.setups := rfl
@[simp] theorem State.alert_ports (s : State) (m : BitVec 16) : (s.alert m).ports = s.ports := rfl
@[simp] theorem State.alert_portQ (s : State) (m : BitVec 16) : (s.alert m).portQ = s.portQ := rfl
@[simp] theorem State.alert_remote (s : State) (m : BitVec 16) : (s.alert m).remote = s.remote := rfl
@[simp] theorem State.alert_coll (s : State) (m : BitVec 16) : (s.alert m).coll = s.coll := rfl
@[simp] theorem State.alert_trails (s : State) (m : BitVec 16) : (s.alert m).trails = s.trails := rfl
@[simp] theorem State.alert_trailRx (s : State) (m : BitVec 16) : (s.alert m).trailRx = s.trailRx := rfl
@[simp] theorem State.alert_ckpt (s : State) (m : BitVec 16) : (s.alert m).ckpt = s.ckpt := rfl
@[simp] theorem State.alert_mh (s : State) (m : BitVec 16) : (s.alert m).mh = s.mh := rfl
@[simp] theorem State.alert_rec (s : State) (m : BitVec 16) : (s.alert m).rec_ = s.rec_ := rfl
@[simp] theorem State.alert_parity (s : State) (m : BitVec 16) : (s.alert m).parity = s.parity := rfl
@[simp] theorem State.alert_temps (s : State) (m : BitVec 16) : (s.alert m).temps = s.temps := rfl
@[simp] theorem State.alert_tt (s : State) (m : BitVec 16) : (s.alert m).tt = s.tt := rfl
@[simp] theorem State.alert_pw (s : State) (m : BitVec 16) : (s.alert m).pw = s.pw := rfl
@[simp] theorem State.alert_sec (s : State) (m : BitVec 16) : (s.alert m).sec = s.sec := rfl
@[simp] theorem State.alert_alertMask (s : State) (m : BitVec 16) : (s.alert m).alertMask = s.alertMask := rfl
@[simp] theorem State.alert_smbAddr (s : State) (m : BitVec 16) : (s.alert m).smbAddr = s.smbAddr := rfl

/-! ## `State.updStep`, which changes `steps` -/

@[simp] theorem State.updStep_pending (s : State) (tag : BitVec 64) (f : Step → Step) : (s.updStep tag f).pending = s.pending := rfl
@[simp] theorem State.updStep_freeCtr (s : State) (tag : BitVec 64) (f : Step → Step) : (s.updStep tag f).freeCtr = s.freeCtr := rfl
@[simp] theorem State.updStep_now (s : State) (tag : BitVec 64) (f : Step → Step) : (s.updStep tag f).now = s.now := rfl
@[simp] theorem State.updStep_part (s : State) (tag : BitVec 64) (f : Step → Step) : (s.updStep tag f).part = s.part := rfl
@[simp] theorem State.updStep_mapView (s : State) (tag : BitVec 64) (f : Step → Step) : (s.updStep tag f).mapView = s.mapView := rfl
@[simp] theorem State.updStep_regs (s : State) (tag : BitVec 64) (f : Step → Step) : (s.updStep tag f).regs = s.regs := rfl
@[simp] theorem State.updStep_latch (s : State) (tag : BitVec 64) (f : Step → Step) : (s.updStep tag f).latch = s.latch := rfl
@[simp] theorem State.updStep_msix (s : State) (tag : BitVec 64) (f : Step → Step) : (s.updStep tag f).msix = s.msix := rfl
@[simp] theorem State.updStep_pba (s : State) (tag : BitVec 64) (f : Step → Step) : (s.updStep tag f).pba = s.pba := rfl
@[simp] theorem State.updStep_heldVecs (s : State) (tag : BitVec 64) (f : Step → Step) : (s.updStep tag f).heldVecs = s.heldVecs := rfl
@[simp] theorem State.updStep_aerPoison (s : State) (tag : BitVec 64) (f : Step → Step) : (s.updStep tag f).aerPoison = s.aerPoison := rfl
@[simp] theorem State.updStep_hostRate (s : State) (tag : BitVec 64) (f : Step → Step) : (s.updStep tag f).hostRate = s.hostRate := rfl
@[simp] theorem State.updStep_mem (s : State) (tag : BitVec 64) (f : Step → Step) : (s.updStep tag f).mem = s.mem := rfl
@[simp] theorem State.updStep_spad (s : State) (tag : BitVec 64) (f : Step → Step) : (s.updStep tag f).spad = s.spad := rfl
@[simp] theorem State.updStep_out (s : State) (tag : BitVec 64) (f : Step → Step) : (s.updStep tag f).out = s.out := rfl
@[simp] theorem State.updStep_sq (s : State) (tag : BitVec 64) (f : Step → Step) : (s.updStep tag f).sq = s.sq := rfl
@[simp] theorem State.updStep_cq (s : State) (tag : BitVec 64) (f : Step → Step) : (s.updStep tag f).cq = s.cq := rfl
@[simp] theorem State.updStep_descs (s : State) (tag : BitVec 64) (f : Step → Step) : (s.updStep tag f).descs = s.descs := rfl
@[simp] theorem State.updStep_recs (s : State) (tag : BitVec 64) (f : Step → Step) : (s.updStep tag f).recs = s.recs := rfl
@[simp] theorem State.updStep_lastSeal (s : State) (tag : BitVec 64) (f : Step → Step) : (s.updStep tag f).lastSeal = s.lastSeal := rfl
@[simp] theorem State.updStep_stalledTags (s : State) (tag : BitVec 64) (f : Step → Step) : (s.updStep tag f).stalledTags = s.stalledTags := rfl
@[simp] theorem State.updStep_comm (s : State) (tag : BitVec 64) (f : Step → Step) : (s.updStep tag f).comm = s.comm := rfl
@[simp] theorem State.updStep_live (s : State) (tag : BitVec 64) (f : Step → Step) : (s.updStep tag f).live = s.live := rfl
@[simp] theorem State.updStep_trans (s : State) (tag : BitVec 64) (f : Step → Step) : (s.updStep tag f).trans = s.trans := rfl
@[simp] theorem State.updStep_nanStep (s : State) (tag : BitVec 64) (f : Step → Step) : (s.updStep tag f).nanStep = s.nanStep := rfl
@[simp] theorem State.updStep_stopped (s : State) (tag : BitVec 64) (f : Step → Step) : (s.updStep tag f).stopped = s.stopped := rfl
@[simp] theorem State.updStep_images (s : State) (tag : BitVec 64) (f : Step → Step) : (s.updStep tag f).images = s.images := rfl
@[simp] theorem State.updStep_vthr (s : State) (tag : BitVec 64) (f : Step → Step) : (s.updStep tag f).vthr = s.vthr := rfl
@[simp] theorem State.updStep_tr (s : State) (tag : BitVec 64) (f : Step → Step) : (s.updStep tag f).tr = s.tr := rfl
@[simp] theorem State.updStep_wa (s : State) (tag : BitVec 64) (f : Step → Step) : (s.updStep tag f).wa = s.wa := rfl
@[simp] theorem State.updStep_chain (s : State) (tag : BitVec 64) (f : Step → Step) : (s.updStep tag f).chain = s.chain := rfl
@[simp] theorem State.updStep_closes (s : State) (tag : BitVec 64) (f : Step → Step) : (s.updStep tag f).closes = s.closes := rfl
@[simp] theorem State.updStep_passes (s : State) (tag : BitVec 64) (f : Step → Step) : (s.updStep tag f).passes = s.passes := rfl
@[simp] theorem State.updStep_spar (s : State) (tag : BitVec 64) (f : Step → Step) : (s.updStep tag f).spar = s.spar := rfl
@[simp] theorem State.updStep_cline (s : State) (tag : BitVec 64) (f : Step → Step) : (s.updStep tag f).cline = s.cline := rfl
@[simp] theorem State.updStep_handles (s : State) (tag : BitVec 64) (f : Step → Step) : (s.updStep tag f).handles = s.handles := rfl
@[simp] theorem State.updStep_nextHandle (s : State) (tag : BitVec 64) (f : Step → Step) : (s.updStep tag f).nextHandle = s.nextHandle := rfl
@[simp] theorem State.updStep_nextChild (s : State) (tag : BitVec 64) (f : Step → Step) : (s.updStep tag f).nextChild = s.nextChild := rfl
@[simp] theorem State.updStep_eng (s : State) (tag : BitVec 64) (f : Step → Step) : (s.updStep tag f).eng = s.eng := rfl
@[simp] theorem State.updStep_wsOpen (s : State) (tag : BitVec 64) (f : Step → Step) : (s.updStep tag f).wsOpen = s.wsOpen := rfl
@[simp] theorem State.updStep_beatLast (s : State) (tag : BitVec 64) (f : Step → Step) : (s.updStep tag f).beatLast = s.beatLast := rfl
@[simp] theorem State.updStep_flywheel (s : State) (tag : BitVec 64) (f : Step → Step) : (s.updStep tag f).flywheel = s.flywheel := rfl
@[simp] theorem State.updStep_beatWait (s : State) (tag : BitVec 64) (f : Step → Step) : (s.updStep tag f).beatWait = s.beatWait := rfl
@[simp] theorem State.updStep_beatTaken (s : State) (tag : BitVec 64) (f : Step → Step) : (s.updStep tag f).beatTaken = s.beatTaken := rfl
@[simp] theorem State.updStep_due (s : State) (tag : BitVec 64) (f : Step → Step) : (s.updStep tag f).due = s.due := rfl
@[simp] theorem State.updStep_expDone (s : State) (tag : BitVec 64) (f : Step → Step) : (s.updStep tag f).expDone = s.expDone := rfl
@[simp] theorem State.updStep_logWr (s : State) (tag : BitVec 64) (f : Step → Step) : (s.updStep tag f).logWr = s.logWr := rfl
@[simp] theorem State.updStep_logQ (s : State) (tag : BitVec 64) (f : Step → Step) : (s.updStep tag f).logQ = s.logQ := rfl
@[simp] theorem State.updStep_setups (s : State) (tag : BitVec 64) (f : Step → Step) : (s.updStep tag f).setups = s.setups := rfl
@[simp] theorem State.updStep_ports (s : State) (tag : BitVec 64) (f : Step → Step) : (s.updStep tag f).ports = s.ports := rfl
@[simp] theorem State.updStep_portQ (s : State) (tag : BitVec 64) (f : Step → Step) : (s.updStep tag f).portQ = s.portQ := rfl
@[simp] theorem State.updStep_remote (s : State) (tag : BitVec 64) (f : Step → Step) : (s.updStep tag f).remote = s.remote := rfl
@[simp] theorem State.updStep_coll (s : State) (tag : BitVec 64) (f : Step → Step) : (s.updStep tag f).coll = s.coll := rfl
@[simp] theorem State.updStep_trails (s : State) (tag : BitVec 64) (f : Step → Step) : (s.updStep tag f).trails = s.trails := rfl
@[simp] theorem State.updStep_trailRx (s : State) (tag : BitVec 64) (f : Step → Step) : (s.updStep tag f).trailRx = s.trailRx := rfl
@[simp] theorem State.updStep_ckpt (s : State) (tag : BitVec 64) (f : Step → Step) : (s.updStep tag f).ckpt = s.ckpt := rfl
@[simp] theorem State.updStep_mh (s : State) (tag : BitVec 64) (f : Step → Step) : (s.updStep tag f).mh = s.mh := rfl
@[simp] theorem State.updStep_rec (s : State) (tag : BitVec 64) (f : Step → Step) : (s.updStep tag f).rec_ = s.rec_ := rfl
@[simp] theorem State.updStep_parity (s : State) (tag : BitVec 64) (f : Step → Step) : (s.updStep tag f).parity = s.parity := rfl
@[simp] theorem State.updStep_temps (s : State) (tag : BitVec 64) (f : Step → Step) : (s.updStep tag f).temps = s.temps := rfl
@[simp] theorem State.updStep_tt (s : State) (tag : BitVec 64) (f : Step → Step) : (s.updStep tag f).tt = s.tt := rfl
@[simp] theorem State.updStep_pw (s : State) (tag : BitVec 64) (f : Step → Step) : (s.updStep tag f).pw = s.pw := rfl
@[simp] theorem State.updStep_sec (s : State) (tag : BitVec 64) (f : Step → Step) : (s.updStep tag f).sec = s.sec := rfl
@[simp] theorem State.updStep_alertCause (s : State) (tag : BitVec 64) (f : Step → Step) : (s.updStep tag f).alertCause = s.alertCause := rfl
@[simp] theorem State.updStep_alertMask (s : State) (tag : BitVec 64) (f : Step → Step) : (s.updStep tag f).alertMask = s.alertMask := rfl
@[simp] theorem State.updStep_smbAddr (s : State) (tag : BitVec 64) (f : Step → Step) : (s.updStep tag f).smbAddr = s.smbAddr := rfl

/-! ## `State.updDesc`, which changes `descs` -/

@[simp] theorem State.updDesc_pending (s : State) (r : DRef) (f : InDesc → InDesc) : (s.updDesc r f).pending = s.pending := rfl
@[simp] theorem State.updDesc_freeCtr (s : State) (r : DRef) (f : InDesc → InDesc) : (s.updDesc r f).freeCtr = s.freeCtr := rfl
@[simp] theorem State.updDesc_now (s : State) (r : DRef) (f : InDesc → InDesc) : (s.updDesc r f).now = s.now := rfl
@[simp] theorem State.updDesc_part (s : State) (r : DRef) (f : InDesc → InDesc) : (s.updDesc r f).part = s.part := rfl
@[simp] theorem State.updDesc_mapView (s : State) (r : DRef) (f : InDesc → InDesc) : (s.updDesc r f).mapView = s.mapView := rfl
@[simp] theorem State.updDesc_regs (s : State) (r : DRef) (f : InDesc → InDesc) : (s.updDesc r f).regs = s.regs := rfl
@[simp] theorem State.updDesc_latch (s : State) (r : DRef) (f : InDesc → InDesc) : (s.updDesc r f).latch = s.latch := rfl
@[simp] theorem State.updDesc_msix (s : State) (r : DRef) (f : InDesc → InDesc) : (s.updDesc r f).msix = s.msix := rfl
@[simp] theorem State.updDesc_pba (s : State) (r : DRef) (f : InDesc → InDesc) : (s.updDesc r f).pba = s.pba := rfl
@[simp] theorem State.updDesc_heldVecs (s : State) (r : DRef) (f : InDesc → InDesc) : (s.updDesc r f).heldVecs = s.heldVecs := rfl
@[simp] theorem State.updDesc_aerPoison (s : State) (r : DRef) (f : InDesc → InDesc) : (s.updDesc r f).aerPoison = s.aerPoison := rfl
@[simp] theorem State.updDesc_hostRate (s : State) (r : DRef) (f : InDesc → InDesc) : (s.updDesc r f).hostRate = s.hostRate := rfl
@[simp] theorem State.updDesc_mem (s : State) (r : DRef) (f : InDesc → InDesc) : (s.updDesc r f).mem = s.mem := rfl
@[simp] theorem State.updDesc_spad (s : State) (r : DRef) (f : InDesc → InDesc) : (s.updDesc r f).spad = s.spad := rfl
@[simp] theorem State.updDesc_out (s : State) (r : DRef) (f : InDesc → InDesc) : (s.updDesc r f).out = s.out := rfl
@[simp] theorem State.updDesc_sq (s : State) (r : DRef) (f : InDesc → InDesc) : (s.updDesc r f).sq = s.sq := rfl
@[simp] theorem State.updDesc_cq (s : State) (r : DRef) (f : InDesc → InDesc) : (s.updDesc r f).cq = s.cq := rfl
@[simp] theorem State.updDesc_recs (s : State) (r : DRef) (f : InDesc → InDesc) : (s.updDesc r f).recs = s.recs := rfl
@[simp] theorem State.updDesc_steps (s : State) (r : DRef) (f : InDesc → InDesc) : (s.updDesc r f).steps = s.steps := rfl
@[simp] theorem State.updDesc_lastSeal (s : State) (r : DRef) (f : InDesc → InDesc) : (s.updDesc r f).lastSeal = s.lastSeal := rfl
@[simp] theorem State.updDesc_stalledTags (s : State) (r : DRef) (f : InDesc → InDesc) : (s.updDesc r f).stalledTags = s.stalledTags := rfl
@[simp] theorem State.updDesc_comm (s : State) (r : DRef) (f : InDesc → InDesc) : (s.updDesc r f).comm = s.comm := rfl
@[simp] theorem State.updDesc_live (s : State) (r : DRef) (f : InDesc → InDesc) : (s.updDesc r f).live = s.live := rfl
@[simp] theorem State.updDesc_trans (s : State) (r : DRef) (f : InDesc → InDesc) : (s.updDesc r f).trans = s.trans := rfl
@[simp] theorem State.updDesc_nanStep (s : State) (r : DRef) (f : InDesc → InDesc) : (s.updDesc r f).nanStep = s.nanStep := rfl
@[simp] theorem State.updDesc_stopped (s : State) (r : DRef) (f : InDesc → InDesc) : (s.updDesc r f).stopped = s.stopped := rfl
@[simp] theorem State.updDesc_images (s : State) (r : DRef) (f : InDesc → InDesc) : (s.updDesc r f).images = s.images := rfl
@[simp] theorem State.updDesc_vthr (s : State) (r : DRef) (f : InDesc → InDesc) : (s.updDesc r f).vthr = s.vthr := rfl
@[simp] theorem State.updDesc_tr (s : State) (r : DRef) (f : InDesc → InDesc) : (s.updDesc r f).tr = s.tr := rfl
@[simp] theorem State.updDesc_wa (s : State) (r : DRef) (f : InDesc → InDesc) : (s.updDesc r f).wa = s.wa := rfl
@[simp] theorem State.updDesc_chain (s : State) (r : DRef) (f : InDesc → InDesc) : (s.updDesc r f).chain = s.chain := rfl
@[simp] theorem State.updDesc_closes (s : State) (r : DRef) (f : InDesc → InDesc) : (s.updDesc r f).closes = s.closes := rfl
@[simp] theorem State.updDesc_passes (s : State) (r : DRef) (f : InDesc → InDesc) : (s.updDesc r f).passes = s.passes := rfl
@[simp] theorem State.updDesc_spar (s : State) (r : DRef) (f : InDesc → InDesc) : (s.updDesc r f).spar = s.spar := rfl
@[simp] theorem State.updDesc_cline (s : State) (r : DRef) (f : InDesc → InDesc) : (s.updDesc r f).cline = s.cline := rfl
@[simp] theorem State.updDesc_handles (s : State) (r : DRef) (f : InDesc → InDesc) : (s.updDesc r f).handles = s.handles := rfl
@[simp] theorem State.updDesc_nextHandle (s : State) (r : DRef) (f : InDesc → InDesc) : (s.updDesc r f).nextHandle = s.nextHandle := rfl
@[simp] theorem State.updDesc_nextChild (s : State) (r : DRef) (f : InDesc → InDesc) : (s.updDesc r f).nextChild = s.nextChild := rfl
@[simp] theorem State.updDesc_eng (s : State) (r : DRef) (f : InDesc → InDesc) : (s.updDesc r f).eng = s.eng := rfl
@[simp] theorem State.updDesc_wsOpen (s : State) (r : DRef) (f : InDesc → InDesc) : (s.updDesc r f).wsOpen = s.wsOpen := rfl
@[simp] theorem State.updDesc_beatLast (s : State) (r : DRef) (f : InDesc → InDesc) : (s.updDesc r f).beatLast = s.beatLast := rfl
@[simp] theorem State.updDesc_flywheel (s : State) (r : DRef) (f : InDesc → InDesc) : (s.updDesc r f).flywheel = s.flywheel := rfl
@[simp] theorem State.updDesc_beatWait (s : State) (r : DRef) (f : InDesc → InDesc) : (s.updDesc r f).beatWait = s.beatWait := rfl
@[simp] theorem State.updDesc_beatTaken (s : State) (r : DRef) (f : InDesc → InDesc) : (s.updDesc r f).beatTaken = s.beatTaken := rfl
@[simp] theorem State.updDesc_due (s : State) (r : DRef) (f : InDesc → InDesc) : (s.updDesc r f).due = s.due := rfl
@[simp] theorem State.updDesc_expDone (s : State) (r : DRef) (f : InDesc → InDesc) : (s.updDesc r f).expDone = s.expDone := rfl
@[simp] theorem State.updDesc_logWr (s : State) (r : DRef) (f : InDesc → InDesc) : (s.updDesc r f).logWr = s.logWr := rfl
@[simp] theorem State.updDesc_logQ (s : State) (r : DRef) (f : InDesc → InDesc) : (s.updDesc r f).logQ = s.logQ := rfl
@[simp] theorem State.updDesc_setups (s : State) (r : DRef) (f : InDesc → InDesc) : (s.updDesc r f).setups = s.setups := rfl
@[simp] theorem State.updDesc_ports (s : State) (r : DRef) (f : InDesc → InDesc) : (s.updDesc r f).ports = s.ports := rfl
@[simp] theorem State.updDesc_portQ (s : State) (r : DRef) (f : InDesc → InDesc) : (s.updDesc r f).portQ = s.portQ := rfl
@[simp] theorem State.updDesc_remote (s : State) (r : DRef) (f : InDesc → InDesc) : (s.updDesc r f).remote = s.remote := rfl
@[simp] theorem State.updDesc_coll (s : State) (r : DRef) (f : InDesc → InDesc) : (s.updDesc r f).coll = s.coll := rfl
@[simp] theorem State.updDesc_trails (s : State) (r : DRef) (f : InDesc → InDesc) : (s.updDesc r f).trails = s.trails := rfl
@[simp] theorem State.updDesc_trailRx (s : State) (r : DRef) (f : InDesc → InDesc) : (s.updDesc r f).trailRx = s.trailRx := rfl
@[simp] theorem State.updDesc_ckpt (s : State) (r : DRef) (f : InDesc → InDesc) : (s.updDesc r f).ckpt = s.ckpt := rfl
@[simp] theorem State.updDesc_mh (s : State) (r : DRef) (f : InDesc → InDesc) : (s.updDesc r f).mh = s.mh := rfl
@[simp] theorem State.updDesc_rec (s : State) (r : DRef) (f : InDesc → InDesc) : (s.updDesc r f).rec_ = s.rec_ := rfl
@[simp] theorem State.updDesc_parity (s : State) (r : DRef) (f : InDesc → InDesc) : (s.updDesc r f).parity = s.parity := rfl
@[simp] theorem State.updDesc_temps (s : State) (r : DRef) (f : InDesc → InDesc) : (s.updDesc r f).temps = s.temps := rfl
@[simp] theorem State.updDesc_tt (s : State) (r : DRef) (f : InDesc → InDesc) : (s.updDesc r f).tt = s.tt := rfl
@[simp] theorem State.updDesc_pw (s : State) (r : DRef) (f : InDesc → InDesc) : (s.updDesc r f).pw = s.pw := rfl
@[simp] theorem State.updDesc_sec (s : State) (r : DRef) (f : InDesc → InDesc) : (s.updDesc r f).sec = s.sec := rfl
@[simp] theorem State.updDesc_alertCause (s : State) (r : DRef) (f : InDesc → InDesc) : (s.updDesc r f).alertCause = s.alertCause := rfl
@[simp] theorem State.updDesc_alertMask (s : State) (r : DRef) (f : InDesc → InDesc) : (s.updDesc r f).alertMask = s.alertMask := rfl
@[simp] theorem State.updDesc_smbAddr (s : State) (r : DRef) (f : InDesc → InDesc) : (s.updDesc r f).smbAddr = s.smbAddr := rfl

/-! ## `State.setRing`, which changes `sq` -/

@[simp] theorem State.setRing_pending (s : State) (r : Nat) (q : SqRing) : (s.setRing r q).pending = s.pending := rfl
@[simp] theorem State.setRing_freeCtr (s : State) (r : Nat) (q : SqRing) : (s.setRing r q).freeCtr = s.freeCtr := rfl
@[simp] theorem State.setRing_now (s : State) (r : Nat) (q : SqRing) : (s.setRing r q).now = s.now := rfl
@[simp] theorem State.setRing_part (s : State) (r : Nat) (q : SqRing) : (s.setRing r q).part = s.part := rfl
@[simp] theorem State.setRing_mapView (s : State) (r : Nat) (q : SqRing) : (s.setRing r q).mapView = s.mapView := rfl
@[simp] theorem State.setRing_regs (s : State) (r : Nat) (q : SqRing) : (s.setRing r q).regs = s.regs := rfl
@[simp] theorem State.setRing_latch (s : State) (r : Nat) (q : SqRing) : (s.setRing r q).latch = s.latch := rfl
@[simp] theorem State.setRing_msix (s : State) (r : Nat) (q : SqRing) : (s.setRing r q).msix = s.msix := rfl
@[simp] theorem State.setRing_pba (s : State) (r : Nat) (q : SqRing) : (s.setRing r q).pba = s.pba := rfl
@[simp] theorem State.setRing_heldVecs (s : State) (r : Nat) (q : SqRing) : (s.setRing r q).heldVecs = s.heldVecs := rfl
@[simp] theorem State.setRing_aerPoison (s : State) (r : Nat) (q : SqRing) : (s.setRing r q).aerPoison = s.aerPoison := rfl
@[simp] theorem State.setRing_hostRate (s : State) (r : Nat) (q : SqRing) : (s.setRing r q).hostRate = s.hostRate := rfl
@[simp] theorem State.setRing_mem (s : State) (r : Nat) (q : SqRing) : (s.setRing r q).mem = s.mem := rfl
@[simp] theorem State.setRing_spad (s : State) (r : Nat) (q : SqRing) : (s.setRing r q).spad = s.spad := rfl
@[simp] theorem State.setRing_out (s : State) (r : Nat) (q : SqRing) : (s.setRing r q).out = s.out := rfl
@[simp] theorem State.setRing_cq (s : State) (r : Nat) (q : SqRing) : (s.setRing r q).cq = s.cq := rfl
@[simp] theorem State.setRing_descs (s : State) (r : Nat) (q : SqRing) : (s.setRing r q).descs = s.descs := rfl
@[simp] theorem State.setRing_recs (s : State) (r : Nat) (q : SqRing) : (s.setRing r q).recs = s.recs := rfl
@[simp] theorem State.setRing_steps (s : State) (r : Nat) (q : SqRing) : (s.setRing r q).steps = s.steps := rfl
@[simp] theorem State.setRing_lastSeal (s : State) (r : Nat) (q : SqRing) : (s.setRing r q).lastSeal = s.lastSeal := rfl
@[simp] theorem State.setRing_stalledTags (s : State) (r : Nat) (q : SqRing) : (s.setRing r q).stalledTags = s.stalledTags := rfl
@[simp] theorem State.setRing_comm (s : State) (r : Nat) (q : SqRing) : (s.setRing r q).comm = s.comm := rfl
@[simp] theorem State.setRing_live (s : State) (r : Nat) (q : SqRing) : (s.setRing r q).live = s.live := rfl
@[simp] theorem State.setRing_trans (s : State) (r : Nat) (q : SqRing) : (s.setRing r q).trans = s.trans := rfl
@[simp] theorem State.setRing_nanStep (s : State) (r : Nat) (q : SqRing) : (s.setRing r q).nanStep = s.nanStep := rfl
@[simp] theorem State.setRing_stopped (s : State) (r : Nat) (q : SqRing) : (s.setRing r q).stopped = s.stopped := rfl
@[simp] theorem State.setRing_images (s : State) (r : Nat) (q : SqRing) : (s.setRing r q).images = s.images := rfl
@[simp] theorem State.setRing_vthr (s : State) (r : Nat) (q : SqRing) : (s.setRing r q).vthr = s.vthr := rfl
@[simp] theorem State.setRing_tr (s : State) (r : Nat) (q : SqRing) : (s.setRing r q).tr = s.tr := rfl
@[simp] theorem State.setRing_wa (s : State) (r : Nat) (q : SqRing) : (s.setRing r q).wa = s.wa := rfl
@[simp] theorem State.setRing_chain (s : State) (r : Nat) (q : SqRing) : (s.setRing r q).chain = s.chain := rfl
@[simp] theorem State.setRing_closes (s : State) (r : Nat) (q : SqRing) : (s.setRing r q).closes = s.closes := rfl
@[simp] theorem State.setRing_passes (s : State) (r : Nat) (q : SqRing) : (s.setRing r q).passes = s.passes := rfl
@[simp] theorem State.setRing_spar (s : State) (r : Nat) (q : SqRing) : (s.setRing r q).spar = s.spar := rfl
@[simp] theorem State.setRing_cline (s : State) (r : Nat) (q : SqRing) : (s.setRing r q).cline = s.cline := rfl
@[simp] theorem State.setRing_handles (s : State) (r : Nat) (q : SqRing) : (s.setRing r q).handles = s.handles := rfl
@[simp] theorem State.setRing_nextHandle (s : State) (r : Nat) (q : SqRing) : (s.setRing r q).nextHandle = s.nextHandle := rfl
@[simp] theorem State.setRing_nextChild (s : State) (r : Nat) (q : SqRing) : (s.setRing r q).nextChild = s.nextChild := rfl
@[simp] theorem State.setRing_eng (s : State) (r : Nat) (q : SqRing) : (s.setRing r q).eng = s.eng := rfl
@[simp] theorem State.setRing_wsOpen (s : State) (r : Nat) (q : SqRing) : (s.setRing r q).wsOpen = s.wsOpen := rfl
@[simp] theorem State.setRing_beatLast (s : State) (r : Nat) (q : SqRing) : (s.setRing r q).beatLast = s.beatLast := rfl
@[simp] theorem State.setRing_flywheel (s : State) (r : Nat) (q : SqRing) : (s.setRing r q).flywheel = s.flywheel := rfl
@[simp] theorem State.setRing_beatWait (s : State) (r : Nat) (q : SqRing) : (s.setRing r q).beatWait = s.beatWait := rfl
@[simp] theorem State.setRing_beatTaken (s : State) (r : Nat) (q : SqRing) : (s.setRing r q).beatTaken = s.beatTaken := rfl
@[simp] theorem State.setRing_due (s : State) (r : Nat) (q : SqRing) : (s.setRing r q).due = s.due := rfl
@[simp] theorem State.setRing_expDone (s : State) (r : Nat) (q : SqRing) : (s.setRing r q).expDone = s.expDone := rfl
@[simp] theorem State.setRing_logWr (s : State) (r : Nat) (q : SqRing) : (s.setRing r q).logWr = s.logWr := rfl
@[simp] theorem State.setRing_logQ (s : State) (r : Nat) (q : SqRing) : (s.setRing r q).logQ = s.logQ := rfl
@[simp] theorem State.setRing_setups (s : State) (r : Nat) (q : SqRing) : (s.setRing r q).setups = s.setups := rfl
@[simp] theorem State.setRing_ports (s : State) (r : Nat) (q : SqRing) : (s.setRing r q).ports = s.ports := rfl
@[simp] theorem State.setRing_portQ (s : State) (r : Nat) (q : SqRing) : (s.setRing r q).portQ = s.portQ := rfl
@[simp] theorem State.setRing_remote (s : State) (r : Nat) (q : SqRing) : (s.setRing r q).remote = s.remote := rfl
@[simp] theorem State.setRing_coll (s : State) (r : Nat) (q : SqRing) : (s.setRing r q).coll = s.coll := rfl
@[simp] theorem State.setRing_trails (s : State) (r : Nat) (q : SqRing) : (s.setRing r q).trails = s.trails := rfl
@[simp] theorem State.setRing_trailRx (s : State) (r : Nat) (q : SqRing) : (s.setRing r q).trailRx = s.trailRx := rfl
@[simp] theorem State.setRing_ckpt (s : State) (r : Nat) (q : SqRing) : (s.setRing r q).ckpt = s.ckpt := rfl
@[simp] theorem State.setRing_mh (s : State) (r : Nat) (q : SqRing) : (s.setRing r q).mh = s.mh := rfl
@[simp] theorem State.setRing_rec (s : State) (r : Nat) (q : SqRing) : (s.setRing r q).rec_ = s.rec_ := rfl
@[simp] theorem State.setRing_parity (s : State) (r : Nat) (q : SqRing) : (s.setRing r q).parity = s.parity := rfl
@[simp] theorem State.setRing_temps (s : State) (r : Nat) (q : SqRing) : (s.setRing r q).temps = s.temps := rfl
@[simp] theorem State.setRing_tt (s : State) (r : Nat) (q : SqRing) : (s.setRing r q).tt = s.tt := rfl
@[simp] theorem State.setRing_pw (s : State) (r : Nat) (q : SqRing) : (s.setRing r q).pw = s.pw := rfl
@[simp] theorem State.setRing_sec (s : State) (r : Nat) (q : SqRing) : (s.setRing r q).sec = s.sec := rfl
@[simp] theorem State.setRing_alertCause (s : State) (r : Nat) (q : SqRing) : (s.setRing r q).alertCause = s.alertCause := rfl
@[simp] theorem State.setRing_alertMask (s : State) (r : Nat) (q : SqRing) : (s.setRing r q).alertMask = s.alertMask := rfl
@[simp] theorem State.setRing_smbAddr (s : State) (r : Nat) (q : SqRing) : (s.setRing r q).smbAddr = s.smbAddr := rfl

/-! ## `State.setCring`, which changes `cq` -/

@[simp] theorem State.setCring_pending (s : State) (c : Nat) (q : CqRing) : (s.setCring c q).pending = s.pending := rfl
@[simp] theorem State.setCring_freeCtr (s : State) (c : Nat) (q : CqRing) : (s.setCring c q).freeCtr = s.freeCtr := rfl
@[simp] theorem State.setCring_now (s : State) (c : Nat) (q : CqRing) : (s.setCring c q).now = s.now := rfl
@[simp] theorem State.setCring_part (s : State) (c : Nat) (q : CqRing) : (s.setCring c q).part = s.part := rfl
@[simp] theorem State.setCring_mapView (s : State) (c : Nat) (q : CqRing) : (s.setCring c q).mapView = s.mapView := rfl
@[simp] theorem State.setCring_regs (s : State) (c : Nat) (q : CqRing) : (s.setCring c q).regs = s.regs := rfl
@[simp] theorem State.setCring_latch (s : State) (c : Nat) (q : CqRing) : (s.setCring c q).latch = s.latch := rfl
@[simp] theorem State.setCring_msix (s : State) (c : Nat) (q : CqRing) : (s.setCring c q).msix = s.msix := rfl
@[simp] theorem State.setCring_pba (s : State) (c : Nat) (q : CqRing) : (s.setCring c q).pba = s.pba := rfl
@[simp] theorem State.setCring_heldVecs (s : State) (c : Nat) (q : CqRing) : (s.setCring c q).heldVecs = s.heldVecs := rfl
@[simp] theorem State.setCring_aerPoison (s : State) (c : Nat) (q : CqRing) : (s.setCring c q).aerPoison = s.aerPoison := rfl
@[simp] theorem State.setCring_hostRate (s : State) (c : Nat) (q : CqRing) : (s.setCring c q).hostRate = s.hostRate := rfl
@[simp] theorem State.setCring_mem (s : State) (c : Nat) (q : CqRing) : (s.setCring c q).mem = s.mem := rfl
@[simp] theorem State.setCring_spad (s : State) (c : Nat) (q : CqRing) : (s.setCring c q).spad = s.spad := rfl
@[simp] theorem State.setCring_out (s : State) (c : Nat) (q : CqRing) : (s.setCring c q).out = s.out := rfl
@[simp] theorem State.setCring_sq (s : State) (c : Nat) (q : CqRing) : (s.setCring c q).sq = s.sq := rfl
@[simp] theorem State.setCring_descs (s : State) (c : Nat) (q : CqRing) : (s.setCring c q).descs = s.descs := rfl
@[simp] theorem State.setCring_recs (s : State) (c : Nat) (q : CqRing) : (s.setCring c q).recs = s.recs := rfl
@[simp] theorem State.setCring_steps (s : State) (c : Nat) (q : CqRing) : (s.setCring c q).steps = s.steps := rfl
@[simp] theorem State.setCring_lastSeal (s : State) (c : Nat) (q : CqRing) : (s.setCring c q).lastSeal = s.lastSeal := rfl
@[simp] theorem State.setCring_stalledTags (s : State) (c : Nat) (q : CqRing) : (s.setCring c q).stalledTags = s.stalledTags := rfl
@[simp] theorem State.setCring_comm (s : State) (c : Nat) (q : CqRing) : (s.setCring c q).comm = s.comm := rfl
@[simp] theorem State.setCring_live (s : State) (c : Nat) (q : CqRing) : (s.setCring c q).live = s.live := rfl
@[simp] theorem State.setCring_trans (s : State) (c : Nat) (q : CqRing) : (s.setCring c q).trans = s.trans := rfl
@[simp] theorem State.setCring_nanStep (s : State) (c : Nat) (q : CqRing) : (s.setCring c q).nanStep = s.nanStep := rfl
@[simp] theorem State.setCring_stopped (s : State) (c : Nat) (q : CqRing) : (s.setCring c q).stopped = s.stopped := rfl
@[simp] theorem State.setCring_images (s : State) (c : Nat) (q : CqRing) : (s.setCring c q).images = s.images := rfl
@[simp] theorem State.setCring_vthr (s : State) (c : Nat) (q : CqRing) : (s.setCring c q).vthr = s.vthr := rfl
@[simp] theorem State.setCring_tr (s : State) (c : Nat) (q : CqRing) : (s.setCring c q).tr = s.tr := rfl
@[simp] theorem State.setCring_wa (s : State) (c : Nat) (q : CqRing) : (s.setCring c q).wa = s.wa := rfl
@[simp] theorem State.setCring_chain (s : State) (c : Nat) (q : CqRing) : (s.setCring c q).chain = s.chain := rfl
@[simp] theorem State.setCring_closes (s : State) (c : Nat) (q : CqRing) : (s.setCring c q).closes = s.closes := rfl
@[simp] theorem State.setCring_passes (s : State) (c : Nat) (q : CqRing) : (s.setCring c q).passes = s.passes := rfl
@[simp] theorem State.setCring_spar (s : State) (c : Nat) (q : CqRing) : (s.setCring c q).spar = s.spar := rfl
@[simp] theorem State.setCring_cline (s : State) (c : Nat) (q : CqRing) : (s.setCring c q).cline = s.cline := rfl
@[simp] theorem State.setCring_handles (s : State) (c : Nat) (q : CqRing) : (s.setCring c q).handles = s.handles := rfl
@[simp] theorem State.setCring_nextHandle (s : State) (c : Nat) (q : CqRing) : (s.setCring c q).nextHandle = s.nextHandle := rfl
@[simp] theorem State.setCring_nextChild (s : State) (c : Nat) (q : CqRing) : (s.setCring c q).nextChild = s.nextChild := rfl
@[simp] theorem State.setCring_eng (s : State) (c : Nat) (q : CqRing) : (s.setCring c q).eng = s.eng := rfl
@[simp] theorem State.setCring_wsOpen (s : State) (c : Nat) (q : CqRing) : (s.setCring c q).wsOpen = s.wsOpen := rfl
@[simp] theorem State.setCring_beatLast (s : State) (c : Nat) (q : CqRing) : (s.setCring c q).beatLast = s.beatLast := rfl
@[simp] theorem State.setCring_flywheel (s : State) (c : Nat) (q : CqRing) : (s.setCring c q).flywheel = s.flywheel := rfl
@[simp] theorem State.setCring_beatWait (s : State) (c : Nat) (q : CqRing) : (s.setCring c q).beatWait = s.beatWait := rfl
@[simp] theorem State.setCring_beatTaken (s : State) (c : Nat) (q : CqRing) : (s.setCring c q).beatTaken = s.beatTaken := rfl
@[simp] theorem State.setCring_due (s : State) (c : Nat) (q : CqRing) : (s.setCring c q).due = s.due := rfl
@[simp] theorem State.setCring_expDone (s : State) (c : Nat) (q : CqRing) : (s.setCring c q).expDone = s.expDone := rfl
@[simp] theorem State.setCring_logWr (s : State) (c : Nat) (q : CqRing) : (s.setCring c q).logWr = s.logWr := rfl
@[simp] theorem State.setCring_logQ (s : State) (c : Nat) (q : CqRing) : (s.setCring c q).logQ = s.logQ := rfl
@[simp] theorem State.setCring_setups (s : State) (c : Nat) (q : CqRing) : (s.setCring c q).setups = s.setups := rfl
@[simp] theorem State.setCring_ports (s : State) (c : Nat) (q : CqRing) : (s.setCring c q).ports = s.ports := rfl
@[simp] theorem State.setCring_portQ (s : State) (c : Nat) (q : CqRing) : (s.setCring c q).portQ = s.portQ := rfl
@[simp] theorem State.setCring_remote (s : State) (c : Nat) (q : CqRing) : (s.setCring c q).remote = s.remote := rfl
@[simp] theorem State.setCring_coll (s : State) (c : Nat) (q : CqRing) : (s.setCring c q).coll = s.coll := rfl
@[simp] theorem State.setCring_trails (s : State) (c : Nat) (q : CqRing) : (s.setCring c q).trails = s.trails := rfl
@[simp] theorem State.setCring_trailRx (s : State) (c : Nat) (q : CqRing) : (s.setCring c q).trailRx = s.trailRx := rfl
@[simp] theorem State.setCring_ckpt (s : State) (c : Nat) (q : CqRing) : (s.setCring c q).ckpt = s.ckpt := rfl
@[simp] theorem State.setCring_mh (s : State) (c : Nat) (q : CqRing) : (s.setCring c q).mh = s.mh := rfl
@[simp] theorem State.setCring_rec (s : State) (c : Nat) (q : CqRing) : (s.setCring c q).rec_ = s.rec_ := rfl
@[simp] theorem State.setCring_parity (s : State) (c : Nat) (q : CqRing) : (s.setCring c q).parity = s.parity := rfl
@[simp] theorem State.setCring_temps (s : State) (c : Nat) (q : CqRing) : (s.setCring c q).temps = s.temps := rfl
@[simp] theorem State.setCring_tt (s : State) (c : Nat) (q : CqRing) : (s.setCring c q).tt = s.tt := rfl
@[simp] theorem State.setCring_pw (s : State) (c : Nat) (q : CqRing) : (s.setCring c q).pw = s.pw := rfl
@[simp] theorem State.setCring_sec (s : State) (c : Nat) (q : CqRing) : (s.setCring c q).sec = s.sec := rfl
@[simp] theorem State.setCring_alertCause (s : State) (c : Nat) (q : CqRing) : (s.setCring c q).alertCause = s.alertCause := rfl
@[simp] theorem State.setCring_alertMask (s : State) (c : Nat) (q : CqRing) : (s.setCring c q).alertMask = s.alertMask := rfl
@[simp] theorem State.setCring_smbAddr (s : State) (c : Nat) (q : CqRing) : (s.setCring c q).smbAddr = s.smbAddr := rfl

/-! ## `State.spadWrite`, which changes `spad` -/

@[simp] theorem State.spadWrite_pending (s : State) (t a : Nat) (bs : List Byte) : (s.spadWrite t a bs).pending = s.pending := rfl
@[simp] theorem State.spadWrite_freeCtr (s : State) (t a : Nat) (bs : List Byte) : (s.spadWrite t a bs).freeCtr = s.freeCtr := rfl
@[simp] theorem State.spadWrite_now (s : State) (t a : Nat) (bs : List Byte) : (s.spadWrite t a bs).now = s.now := rfl
@[simp] theorem State.spadWrite_part (s : State) (t a : Nat) (bs : List Byte) : (s.spadWrite t a bs).part = s.part := rfl
@[simp] theorem State.spadWrite_mapView (s : State) (t a : Nat) (bs : List Byte) : (s.spadWrite t a bs).mapView = s.mapView := rfl
@[simp] theorem State.spadWrite_regs (s : State) (t a : Nat) (bs : List Byte) : (s.spadWrite t a bs).regs = s.regs := rfl
@[simp] theorem State.spadWrite_latch (s : State) (t a : Nat) (bs : List Byte) : (s.spadWrite t a bs).latch = s.latch := rfl
@[simp] theorem State.spadWrite_msix (s : State) (t a : Nat) (bs : List Byte) : (s.spadWrite t a bs).msix = s.msix := rfl
@[simp] theorem State.spadWrite_pba (s : State) (t a : Nat) (bs : List Byte) : (s.spadWrite t a bs).pba = s.pba := rfl
@[simp] theorem State.spadWrite_heldVecs (s : State) (t a : Nat) (bs : List Byte) : (s.spadWrite t a bs).heldVecs = s.heldVecs := rfl
@[simp] theorem State.spadWrite_aerPoison (s : State) (t a : Nat) (bs : List Byte) : (s.spadWrite t a bs).aerPoison = s.aerPoison := rfl
@[simp] theorem State.spadWrite_hostRate (s : State) (t a : Nat) (bs : List Byte) : (s.spadWrite t a bs).hostRate = s.hostRate := rfl
@[simp] theorem State.spadWrite_mem (s : State) (t a : Nat) (bs : List Byte) : (s.spadWrite t a bs).mem = s.mem := rfl
@[simp] theorem State.spadWrite_out (s : State) (t a : Nat) (bs : List Byte) : (s.spadWrite t a bs).out = s.out := rfl
@[simp] theorem State.spadWrite_sq (s : State) (t a : Nat) (bs : List Byte) : (s.spadWrite t a bs).sq = s.sq := rfl
@[simp] theorem State.spadWrite_cq (s : State) (t a : Nat) (bs : List Byte) : (s.spadWrite t a bs).cq = s.cq := rfl
@[simp] theorem State.spadWrite_descs (s : State) (t a : Nat) (bs : List Byte) : (s.spadWrite t a bs).descs = s.descs := rfl
@[simp] theorem State.spadWrite_recs (s : State) (t a : Nat) (bs : List Byte) : (s.spadWrite t a bs).recs = s.recs := rfl
@[simp] theorem State.spadWrite_steps (s : State) (t a : Nat) (bs : List Byte) : (s.spadWrite t a bs).steps = s.steps := rfl
@[simp] theorem State.spadWrite_lastSeal (s : State) (t a : Nat) (bs : List Byte) : (s.spadWrite t a bs).lastSeal = s.lastSeal := rfl
@[simp] theorem State.spadWrite_stalledTags (s : State) (t a : Nat) (bs : List Byte) : (s.spadWrite t a bs).stalledTags = s.stalledTags := rfl
@[simp] theorem State.spadWrite_comm (s : State) (t a : Nat) (bs : List Byte) : (s.spadWrite t a bs).comm = s.comm := rfl
@[simp] theorem State.spadWrite_live (s : State) (t a : Nat) (bs : List Byte) : (s.spadWrite t a bs).live = s.live := rfl
@[simp] theorem State.spadWrite_trans (s : State) (t a : Nat) (bs : List Byte) : (s.spadWrite t a bs).trans = s.trans := rfl
@[simp] theorem State.spadWrite_nanStep (s : State) (t a : Nat) (bs : List Byte) : (s.spadWrite t a bs).nanStep = s.nanStep := rfl
@[simp] theorem State.spadWrite_stopped (s : State) (t a : Nat) (bs : List Byte) : (s.spadWrite t a bs).stopped = s.stopped := rfl
@[simp] theorem State.spadWrite_images (s : State) (t a : Nat) (bs : List Byte) : (s.spadWrite t a bs).images = s.images := rfl
@[simp] theorem State.spadWrite_vthr (s : State) (t a : Nat) (bs : List Byte) : (s.spadWrite t a bs).vthr = s.vthr := rfl
@[simp] theorem State.spadWrite_tr (s : State) (t a : Nat) (bs : List Byte) : (s.spadWrite t a bs).tr = s.tr := rfl
@[simp] theorem State.spadWrite_wa (s : State) (t a : Nat) (bs : List Byte) : (s.spadWrite t a bs).wa = s.wa := rfl
@[simp] theorem State.spadWrite_chain (s : State) (t a : Nat) (bs : List Byte) : (s.spadWrite t a bs).chain = s.chain := rfl
@[simp] theorem State.spadWrite_closes (s : State) (t a : Nat) (bs : List Byte) : (s.spadWrite t a bs).closes = s.closes := rfl
@[simp] theorem State.spadWrite_passes (s : State) (t a : Nat) (bs : List Byte) : (s.spadWrite t a bs).passes = s.passes := rfl
@[simp] theorem State.spadWrite_spar (s : State) (t a : Nat) (bs : List Byte) : (s.spadWrite t a bs).spar = s.spar := rfl
@[simp] theorem State.spadWrite_cline (s : State) (t a : Nat) (bs : List Byte) : (s.spadWrite t a bs).cline = s.cline := rfl
@[simp] theorem State.spadWrite_handles (s : State) (t a : Nat) (bs : List Byte) : (s.spadWrite t a bs).handles = s.handles := rfl
@[simp] theorem State.spadWrite_nextHandle (s : State) (t a : Nat) (bs : List Byte) : (s.spadWrite t a bs).nextHandle = s.nextHandle := rfl
@[simp] theorem State.spadWrite_nextChild (s : State) (t a : Nat) (bs : List Byte) : (s.spadWrite t a bs).nextChild = s.nextChild := rfl
@[simp] theorem State.spadWrite_eng (s : State) (t a : Nat) (bs : List Byte) : (s.spadWrite t a bs).eng = s.eng := rfl
@[simp] theorem State.spadWrite_wsOpen (s : State) (t a : Nat) (bs : List Byte) : (s.spadWrite t a bs).wsOpen = s.wsOpen := rfl
@[simp] theorem State.spadWrite_beatLast (s : State) (t a : Nat) (bs : List Byte) : (s.spadWrite t a bs).beatLast = s.beatLast := rfl
@[simp] theorem State.spadWrite_flywheel (s : State) (t a : Nat) (bs : List Byte) : (s.spadWrite t a bs).flywheel = s.flywheel := rfl
@[simp] theorem State.spadWrite_beatWait (s : State) (t a : Nat) (bs : List Byte) : (s.spadWrite t a bs).beatWait = s.beatWait := rfl
@[simp] theorem State.spadWrite_beatTaken (s : State) (t a : Nat) (bs : List Byte) : (s.spadWrite t a bs).beatTaken = s.beatTaken := rfl
@[simp] theorem State.spadWrite_due (s : State) (t a : Nat) (bs : List Byte) : (s.spadWrite t a bs).due = s.due := rfl
@[simp] theorem State.spadWrite_expDone (s : State) (t a : Nat) (bs : List Byte) : (s.spadWrite t a bs).expDone = s.expDone := rfl
@[simp] theorem State.spadWrite_logWr (s : State) (t a : Nat) (bs : List Byte) : (s.spadWrite t a bs).logWr = s.logWr := rfl
@[simp] theorem State.spadWrite_logQ (s : State) (t a : Nat) (bs : List Byte) : (s.spadWrite t a bs).logQ = s.logQ := rfl
@[simp] theorem State.spadWrite_setups (s : State) (t a : Nat) (bs : List Byte) : (s.spadWrite t a bs).setups = s.setups := rfl
@[simp] theorem State.spadWrite_ports (s : State) (t a : Nat) (bs : List Byte) : (s.spadWrite t a bs).ports = s.ports := rfl
@[simp] theorem State.spadWrite_portQ (s : State) (t a : Nat) (bs : List Byte) : (s.spadWrite t a bs).portQ = s.portQ := rfl
@[simp] theorem State.spadWrite_remote (s : State) (t a : Nat) (bs : List Byte) : (s.spadWrite t a bs).remote = s.remote := rfl
@[simp] theorem State.spadWrite_coll (s : State) (t a : Nat) (bs : List Byte) : (s.spadWrite t a bs).coll = s.coll := rfl
@[simp] theorem State.spadWrite_trails (s : State) (t a : Nat) (bs : List Byte) : (s.spadWrite t a bs).trails = s.trails := rfl
@[simp] theorem State.spadWrite_trailRx (s : State) (t a : Nat) (bs : List Byte) : (s.spadWrite t a bs).trailRx = s.trailRx := rfl
@[simp] theorem State.spadWrite_ckpt (s : State) (t a : Nat) (bs : List Byte) : (s.spadWrite t a bs).ckpt = s.ckpt := rfl
@[simp] theorem State.spadWrite_mh (s : State) (t a : Nat) (bs : List Byte) : (s.spadWrite t a bs).mh = s.mh := rfl
@[simp] theorem State.spadWrite_rec (s : State) (t a : Nat) (bs : List Byte) : (s.spadWrite t a bs).rec_ = s.rec_ := rfl
@[simp] theorem State.spadWrite_parity (s : State) (t a : Nat) (bs : List Byte) : (s.spadWrite t a bs).parity = s.parity := rfl
@[simp] theorem State.spadWrite_temps (s : State) (t a : Nat) (bs : List Byte) : (s.spadWrite t a bs).temps = s.temps := rfl
@[simp] theorem State.spadWrite_tt (s : State) (t a : Nat) (bs : List Byte) : (s.spadWrite t a bs).tt = s.tt := rfl
@[simp] theorem State.spadWrite_pw (s : State) (t a : Nat) (bs : List Byte) : (s.spadWrite t a bs).pw = s.pw := rfl
@[simp] theorem State.spadWrite_sec (s : State) (t a : Nat) (bs : List Byte) : (s.spadWrite t a bs).sec = s.sec := rfl
@[simp] theorem State.spadWrite_alertCause (s : State) (t a : Nat) (bs : List Byte) : (s.spadWrite t a bs).alertCause = s.alertCause := rfl
@[simp] theorem State.spadWrite_alertMask (s : State) (t a : Nat) (bs : List Byte) : (s.spadWrite t a bs).alertMask = s.alertMask := rfl
@[simp] theorem State.spadWrite_smbAddr (s : State) (t a : Nat) (bs : List Byte) : (s.spadWrite t a bs).smbAddr = s.smbAddr := rfl

end Sys2Proof.Machine
end

