-- ==== Sys2Proof/Laws/Ops.lean ====
section
/-! SUPPORT. For each operation that the meanings share, one lemma that says everything it can change. -/

namespace Sys2Proof.Machine

theorem State.fleetTo_eq (s : State) (n : Nat) (m : FleetMsg) : ∃ q, s.fleetTo n m = { s with portQ := q } := ⟨_, rfl⟩

/-- A message to every crew node changes the packets that wait, and nothing else. -/
theorem State.broadcast_eq (s : State) (m : FleetMsg) : ∃ q, s.broadcast m = { s with portQ := q } := by
  unfold State.broadcast
  generalize s.crew = l
  suffices h : ∀ (l : List Nat) (t : State), (∃ q, t = { s with portQ := q }) →
      ∃ q, l.foldl (fun (s : State) n => s.send ⟨7, BitVec.ofNat 12 (s.fld (fFleet n)), 0xFFFF, 32, .fleet m⟩) t = { s with portQ := q } from
    h l s ⟨_, rfl⟩
  intro l
  induction l with
  | nil => exact fun t h => h
  | cons n l ih => exact fun t ⟨q, h⟩ => ih _ (h ▸ ⟨_, rfl⟩)

theorem State.sendMsix_eq (s : State) (v : Nat) : ∃ o b, s.sendMsix v = { s with out := o, pba := b } := by
  unfold State.sendMsix
  split <;> exact ⟨_, _, rfl⟩

/-- A vector leaves by MSI-X or through the relay, or is left pending. -/
theorem State.vector_eq (s : State) (v : Nat) : ∃ o q b h, s.vector v = { s with out := o, portQ := q, pba := b, heldVecs := h } := by
  unfold State.vector
  split
  · split <;> exact ⟨_, _, _, _, rfl⟩
  · obtain ⟨_, _, h⟩ := s.sendMsix_eq (s.myIdx * 32 + v)
    exact ⟨_, _, _, _, h⟩

/-- The node's own vector where the node is no crew node and the vector's entry is not masked. -/
theorem State.vector_own {s : State} (v : Nat) (h : s.isCrew = false) (hm : s.masked (s.myIdx * 32 + v) = false) :
    s.vector v = { s with out := s.out ++ [.msix (s.myIdx * 32 + v) (s.msixWord (2 * (s.myIdx * 32 + v))).toNat
      ((s.msixWord (2 * (s.myIdx * 32 + v) + 1)).toNat % 2 ^ 32)] } := by
  simp [State.vector, State.sendMsix, h, hm, State.emit]

theorem State.hostWrite_eq (s : State) (a : Nat) (bs : List Byte) : ∃ o q, s.hostWrite a bs = { s with out := o, portQ := q } := by
  unfold State.hostWrite
  split <;> exact ⟨_, _, rfl⟩

theorem State.incFld_eq (s : State) (f : Reg.Fld) : ∃ r, s.incFld f = { s with regs := r } := ⟨_, rfl⟩
theorem State.addFld_eq (s : State) (f : Reg.Fld) (n : Nat) : ∃ r, s.addFld f n = { s with regs := r } := ⟨_, rfl⟩
theorem State.setFld_eq (s : State) (f : Reg.Fld) (n : Nat) : ∃ r, s.setFld f n = { s with regs := r } := ⟨_, rfl⟩

theorem State.haltRing_eq (s : State) (r : Nat) :
    ∃ o q b h, s.haltRing r =
      { s with sq := SM.setD {} s.sq r { s.ring r with halted := true }, out := o, portQ := q, pba := b, heldVecs := h } :=
  State.vector_eq _ _

/-- What firing a trigger can change: the recorder's registers and its records, and what is sent. -/
def State.OnlyTt (s t : State) : Prop := ∃ r tt o q b h, t = { s with regs := r, tt := tt, out := o, portQ := q, pba := b, heldVecs := h }

theorem State.OnlyTt.refl (s : State) : s.OnlyTt s := ⟨_, _, _, _, _, _, rfl⟩
theorem State.OnlyTt.trans {s t u : State} (h : s.OnlyTt t) (h' : t.OnlyTt u) : s.OnlyTt u := by
  obtain ⟨_, _, _, _, _, _, rfl⟩ := h
  obtain ⟨_, _, _, _, _, _, rfl⟩ := h'
  exact ⟨_, _, _, _, _, _, rfl⟩
theorem State.onlyTt_setFld (s : State) (f : Reg.Fld) (v : Nat) : s.OnlyTt (s.setFld f v) := ⟨_, _, _, _, _, _, rfl⟩
theorem State.onlyTt_incFld (s : State) (f : Reg.Fld) : s.OnlyTt (s.incFld f) := ⟨_, _, _, _, _, _, rfl⟩
theorem State.onlyTt_vector (s : State) (v : Nat) : s.OnlyTt (s.vector v) := by
  obtain ⟨_, _, _, _, h⟩ := s.vector_eq v
  exact ⟨_, _, _, _, _, _, h⟩
theorem State.onlyTt_tt (s : State) (x : Telltale) : s.OnlyTt { s with tt := x } := ⟨_, _, _, _, _, _, rfl⟩

theorem State.onlyTt_newRec (s : State) (code cls unit arg : Nat) (held : Bool) (n : Nat) :
    s.OnlyTt (s.newRec code cls unit arg held n).2 := ⟨_, _, _, _, _, _, rfl⟩

theorem State.onlyTt_pushRec (s : State) (r : TRec) : s.OnlyTt (s.pushRec r) := by
  unfold State.pushRec
  extract_lets w rd full lostFl s1 s2 s3 ring src s4
  have h1 : s.OnlyTt s1 := by
    unfold s1
    split
    · exact (s.onlyTt_setFld _ _).trans (State.onlyTt_incFld _ _)
    · exact .refl s
  have h2 : s1.OnlyTt s2 := by
    unfold s2
    split
    · exact (s1.onlyTt_setFld _ _).trans (State.onlyTt_incFld _ _)
    · exact .refl s1
  have h4 : s.OnlyTt s4 := ((h1.trans h2).trans (s2.onlyTt_setFld _ _)).trans (s3.onlyTt_tt _)
  split
  · exact h4.trans (s4.onlyTt_vector 20)
  · exact h4

theorem State.onlyTt_startFlush (s : State) : s.OnlyTt s.startFlush := by
  unfold State.startFlush
  split
  · exact .refl s
  · exact ⟨_, _, _, _, _, _, rfl⟩

/-- Firing a trigger changes the recorder, its registers and what is sent, and nothing else. -/
theorem State.onlyTt_fire (s : State) (code unit arg : Nat) (manual : Bool) : s.OnlyTt (s.fire code unit arg manual) := by
  have held : s.OnlyTt (State.fire.held code unit arg manual s) := by
    unfold State.fire.held
    split
    · exact ⟨_, _, _, _, _, _, rfl⟩
    · exact s.onlyTt_incFld _
  have fresh : ∀ b, s.OnlyTt (State.fire.fresh code unit arg manual s b) := by
    intro b
    unfold State.fire.fresh
    split
    · exact held.trans (State.onlyTt_startFlush _)
    · exact ((s.onlyTt_newRec code 0 unit arg false 0).trans (State.onlyTt_pushRec _ _)).trans (State.onlyTt_startFlush _)
  unfold State.fire
  extract_lets cls frozen
  split
  · exact .refl s
  · split
    · split
      · split
        · split
          · exact s.onlyTt_tt _
          · exact s.onlyTt_tt _
        · exact fresh _
      · exact fresh _
    · split
      · split
        · exact s.onlyTt_tt _
        · refine State.OnlyTt.trans ?_ (State.onlyTt_pushRec _ _)
          exact ⟨_, _, _, _, _, _, rfl⟩
      · split
        · exact held
        · exact (s.onlyTt_newRec code 2 unit arg false 0).trans (State.onlyTt_pushRec _ _)

end Sys2Proof.Machine
end

