-- ==== Sys2Proof/Laws/Desc.lean ====
section
/-! SUPPORT. Descriptors: the shell that starts them, what the end of one changes, and what their writes of node memory change. -/

namespace Sys2Proof.Machine

/-- The descriptor found after a change of its record. -/
theorem State.desc?_updDesc {s : State} {r : DRef} {x : InDesc} (f : InDesc → InDesc) (hf : ∀ y, (f y).ref = y.ref)
    (h : s.desc? r = some x) : (s.updDesc r f).desc? r = some (f x) := by
  unfold State.desc? State.updDesc at *
  simp only
  generalize s.descs = l at h
  induction l with
  | nil => simp at h
  | cons y l ih =>
    simp only [List.find?_cons] at h
    by_cases e : y.ref = r
    · simp [e] at h
      subst h
      simp [e, hf]
    · simp [e] at h
      simp [e]
      simpa using ih h

theorem State.desc?_ref {s : State} {r : DRef} {x : InDesc} (h : s.desc? r = some x) : x.ref = r := by
  have := List.find?_some h
  simpa using this

/-- A startable descriptor runs its meaning. -/
theorem State.start_eq {s : State} {d : DRef} {x : InDesc} {op : Nat → Bool} (k : InDesc → State → State)
    (h : s.Startable d x) (ho : op (dOp x.raw) = true) : s.start d op k = .next (k x s) := by
  obtain ⟨hd, hs, hok⟩ := h
  simp [State.start, hd, hs, ho, hok]

@[simp] theorem State.desc?_eng (s : State) (e : SM Engine) (r : DRef) : State.desc? { s with eng := e } r = s.desc? r := rfl

/-- The end of a step descriptor on a ring changes its record, its step and the engines' marks. -/
theorem State.finish_step {s : State} {r : Fin 64} {c : Nat} {x : InDesc} (st re : Nat)
    (h : s.desc? (.ring r c) = some x) (hs : x.step ≠ 0) :
    (s.finish (.ring r c) st re).Finished (.ring r c) x st re ∧ s.OnlyEnds (s.finish (.ring r c) st re) := by
  unfold State.finish State.finishRing
  simp only [State.desc?_eng, h]
  rw [if_neg hs]
  refine ⟨?_, rfl⟩
  have := State.desc?_updDesc (s := s) (r := .ring r c)
    (fun y => { y with st := .finished, status := BitVec.ofNat 16 st, result := BitVec.ofNat 32 re }) (fun _ => rfl) h
  exact this

/-- A write to pages of which no image is due lands at once: memory changes by the bytes, and of the rest only the steps (digest terms, pages
to checkpoint), the open bytes and the lines of the shared cache. -/
theorem State.write_plain {s : State} (w : Writer) (a : Nat) (bs : List Byte) (hk : s.ckpt = none)
    (hc : ∀ p ∈ pagesOf a bs.length, s.covered p = false) (hs : s.live.sol = []) (h : s.wrCheck a bs.length = none) :
    ∃ st wo cl, s.write w a bs = .ok { s with mem := memWrite s.mem a bs, steps := st, wsOpen := wo, cline := cl } := by
  have hp : ∀ l : List Nat, (∀ p ∈ l, s.covered p = false) → l.foldl (fun r p => match r with
      | .ok s => s.cowPage w.tag p
      | .error e => .error e) (.ok s : Except MErr State) = .ok s := by
    intro l
    induction l with
    | nil => intro _; rfl
    | cons p l ih =>
      intro hl
      have e : s.cowPage w.tag p = .ok s := by simp [State.cowPage, hk, hl p (List.mem_cons_self ..)]
      simp only [List.foldl_cons, e]
      exact ih (fun q hq => hl q (List.mem_cons_of_mem _ hq))
  simp only [State.write, h]
  split
  · rename_i e; exact absurd ((hp _ hc).symm.trans e) (by simp)
  · rename_i e; exact absurd ((hp _ hc).symm.trans e) (by simp)
  · rename_i s' e
    obtain rfl : s = s' := by simpa using (hp _ hc).symm.trans e
    obtain ⟨st, ht⟩ : ∃ st, (if w.kind = 3 then (if w.kind = 1 then s else s.addTerm w (sectorTerms 0 a bs)).addInput w.tag (sectorTerms 3 a bs)
        else if w.kind = 1 then s else s.addTerm w (sectorTerms 0 a bs)) = { s with steps := st } := by
      split <;> split <;> exact ⟨_, rfl⟩
    have hl : ∃ st' wo cl, State.landed { s with steps := st } w.tag a bs = { s with mem := memWrite s.mem a bs, steps := st', wsOpen := wo, cline := cl } := by
      simp only [State.landed, hs, List.foldl_nil, ite_self]
      exact ⟨_, _, _, rfl⟩
    obtain ⟨st', wo, cl, hl⟩ := hl
    exact ⟨st', wo, cl, congrArg Except.ok (ht ▸ hl)⟩

/-- Writes of several units to such pages all land. -/
theorem State.unitWrites_plain (d : DRef) : ∀ (ws : List (Nat × Nat × List Byte)) (s : State), s.ckpt = none → s.live.sol = [] →
    (∀ w ∈ ws, (∀ p ∈ pagesOf w.2.1 w.2.2.length, s.covered p = false) ∧ s.wrCheck w.2.1 w.2.2.length = none) →
    ∃ m st wo cl, s.unitWrites d ws = .ok { s with mem := m, steps := st, wsOpen := wo, cline := cl }
  | [], s, _, _, _ => ⟨_, _, _, _, rfl⟩
  | (t, a, bs) :: l, s, hk, hs, h => by
    obtain ⟨st, wo, cl, e⟩ := State.write_plain (s.writer d t) a bs hk (h _ (List.mem_cons_self ..)).1 hs (h _ (List.mem_cons_self ..)).2
    obtain ⟨m, st', wo', cl', e'⟩ := State.unitWrites_plain d l { s with mem := memWrite s.mem a bs, steps := st, wsOpen := wo, cline := cl } hk hs
      (fun w hw => h w (List.mem_cons_of_mem _ hw))
    exact ⟨m, st', wo', cl', by simp only [State.unitWrites, e, e']⟩

end Sys2Proof.Machine
end

