-- ==== Sys2Proof/Laws/Memory.lean ====
section
/-! SUPPORT. The laws of the sparse maps and of the byte memories: what a read gives after a write, and that every
operation keeps the canonical form. -/

namespace Sys2Proof

theorem SM.erase_mem {α : Type} {m : SM α} {a : Nat} {p : Nat × α} (h : p ∈ m.erase a) : p ∈ m := by
  induction m with
  | nil => simp [SM.erase] at h
  | cons q m ih =>
    unfold SM.erase at h
    split at h
    · exact List.mem_cons_of_mem _ h
    · split at h
      · exact h
      · rcases List.mem_cons.mp h with h | h
        · exact h ▸ List.mem_cons_self
        · exact List.mem_cons_of_mem _ (ih h)

theorem SM.insert_mem {α : Type} {m : SM α} {a : Nat} {x : α} {p : Nat × α} (h : p ∈ m.insert a x) : p = (a, x) ∨ p ∈ m := by
  induction m with
  | nil => left; simpa [SM.insert] using h
  | cons q m ih =>
    unfold SM.insert at h
    split at h
    · rcases List.mem_cons.mp h with h | h
      · exact .inl h
      · exact .inr (List.mem_cons_of_mem _ h)
    · split at h
      · rcases List.mem_cons.mp h with h | h
        · exact .inl h
        · exact .inr h
      · rcases List.mem_cons.mp h with h | h
        · exact .inr (h ▸ List.mem_cons_self)
        · exact (ih h).imp id (List.mem_cons_of_mem _)

theorem SM.erase_sorted {α : Type} {m : SM α} (a : Nat) (h : SM.Sorted m) : SM.Sorted (m.erase a) := by
  induction m with
  | nil => simp [SM.erase, SM.Sorted]
  | cons q m ih =>
    have hq := List.pairwise_cons.mp h
    unfold SM.erase
    split
    · exact hq.2
    · split
      · exact h
      · exact List.pairwise_cons.mpr ⟨fun p hp => hq.1 p (SM.erase_mem hp), ih hq.2⟩

theorem SM.insert_sorted {α : Type} {m : SM α} (a : Nat) (x : α) (h : SM.Sorted m) : SM.Sorted (m.insert a x) := by
  induction m with
  | nil => simp [SM.insert, SM.Sorted]
  | cons q m ih =>
    have hq := List.pairwise_cons.mp h
    unfold SM.insert
    split
    · rename_i e
      exact List.pairwise_cons.mpr ⟨fun p hp => e ▸ hq.1 p hp, hq.2⟩
    · rename_i ne
      split
      · rename_i lt
        refine List.pairwise_cons.mpr ⟨fun p hp => ?_, h⟩
        rcases List.mem_cons.mp hp with rfl | hp
        · exact lt
        · exact Nat.lt_trans lt (hq.1 p hp)
      · rename_i nlt
        refine List.pairwise_cons.mpr ⟨fun p hp => ?_, ih hq.2⟩
        rcases SM.insert_mem hp with rfl | hp
        · show q.1 < a
          omega
        · exact hq.1 p hp

/-- A write keeps the canonical form. -/
theorem SM.setD_canon {α : Type} [DecidableEq α] (d : α) {m : SM α} (a : Nat) (x : α)
    (h : SM.Canon (fun _ => d) m) : SM.Canon (fun _ => d) (SM.setD d m a x) := by
  unfold SM.setD
  split
  · exact ⟨SM.erase_sorted a h.1, fun p hp => h.2 p (SM.erase_mem hp)⟩
  · rename_i ne
    refine ⟨SM.insert_sorted a x h.1, fun p hp => ?_⟩
    rcases SM.insert_mem hp with rfl | hp
    · exact ne
    · exact h.2 p hp

/-- A selection of the entries keeps the canonical form. -/
theorem SM.filter_canon {α : Type} (d : α) {m : SM α} (p : Nat × α → Bool)
    (h : SM.Canon (fun _ => d) m) : SM.Canon (fun _ => d) (m.filter p) :=
  ⟨List.Pairwise.filter p h.1, fun q hq => h.2 q (List.mem_of_mem_filter hq)⟩

/-- Clearing a range of keys keeps the canonical form. -/
theorem SM.clear_canon {α : Type} (d : α) {m : SM α} (lo n : Nat)
    (h : SM.Canon (fun _ => d) m) : SM.Canon (fun _ => d) (SM.clear m lo n) := SM.filter_canon d _ h

/-- A key below every listed one reads as the default. -/
theorem SM.getD_below {α : Type} (d : α) {m : SM α} {a : Nat} (h : ∀ p ∈ m, a < p.1) : SM.getD d m a = d := by
  cases m with
  | nil => rfl
  | cons q m =>
    have hq := h q List.mem_cons_self
    unfold SM.getD
    rw [if_neg (by omega), if_pos hq]

theorem SM.getD_erase {α : Type} (d : α) {m : SM α} (a b : Nat) (h : SM.Sorted m) :
    SM.getD d (m.erase a) b = if b = a then d else SM.getD d m b := by
  induction m with
  | nil => simp [SM.erase, SM.getD]
  | cons q m ih =>
    have hq := List.pairwise_cons.mp h
    unfold SM.erase
    split
    · rename_i e
      split
      · rename_i e'
        exact SM.getD_below d (fun p hp => by have := hq.1 p hp; omega)
      · rename_i ne
        rw [SM.getD]
        rw [if_neg (by omega)]
        split
        · exact SM.getD_below d (fun p hp => by have := hq.1 p hp; omega)
        · rfl
    · rename_i ne
      split
      · rename_i lt
        split
        · rename_i e
          subst e
          exact SM.getD_below d (fun p hp => by
            rcases List.mem_cons.mp hp with rfl | hp
            · exact lt
            · have := hq.1 p hp; omega)
        · rfl
      · rw [SM.getD, ih hq.2, SM.getD]
        split
        · rw [if_neg (by omega)]
        · split
          · rw [if_neg (by omega)]
          · rfl

theorem SM.getD_insert {α : Type} (d : α) {m : SM α} (a b : Nat) (x : α) (h : SM.Sorted m) :
    SM.getD d (m.insert a x) b = if b = a then x else SM.getD d m b := by
  induction m with
  | nil =>
    by_cases e : b = a
    · simp [SM.insert, SM.getD, e]
    · simp [SM.insert, SM.getD, e, Ne.symm e]
  | cons q m ih =>
    obtain ⟨k, v⟩ := q
    have hq := List.pairwise_cons.mp h
    by_cases e : k = a
    · by_cases e' : b = a
      · simp [SM.insert, SM.getD, e, e']
      · simp [SM.insert, SM.getD, e, e', Ne.symm e']
    · by_cases lt : a < k
      · by_cases e' : b = a
        · simp [SM.insert, SM.getD, e, lt, e']
        · by_cases l' : b < a
          · have : SM.getD d ((k, v) :: m) b = d := SM.getD_below d (fun p hp => by
              rcases List.mem_cons.mp hp with rfl | hp
              · exact Nat.lt_trans l' lt
              · have := hq.1 p hp
                simp only at this
                omega)
            simp [SM.insert, e, lt, e', this]
            simp [SM.getD, Ne.symm e', l']
          · rw [if_neg e']
            simp [SM.insert, e, lt]
            rw [SM.getD, if_neg (Ne.symm e'), if_neg l']
      · have he : SM.insert ((k, v) :: m) a x = (k, v) :: SM.insert m a x := by simp [SM.insert, e, lt]
        rw [he, SM.getD, ih hq.2, SM.getD]
        split
        · rw [if_neg (by omega)]
        · split
          · rw [if_neg (by omega)]
          · rfl

/-- What a key reads as after a write. -/
theorem SM.getD_setD {α : Type} [DecidableEq α] (d : α) {m : SM α} (a b : Nat) (x : α) (h : SM.Sorted m) :
    SM.getD d (SM.setD d m a x) b = if b = a then x else SM.getD d m b := by
  unfold SM.setD
  split
  · rename_i e
    rw [SM.getD_erase d a b h, e]
  · exact SM.getD_insert d a b x h

namespace Machine

/-- Bytes written into a memory keep its canonical form. -/
theorem memWrite_wf {m : List Host.Cell} (a : Nat) (bs : List Byte) (h : Memory.wf m) : Memory.wf (memWrite m a bs) := by
  induction bs generalizing m a with
  | nil => exact h
  | cons b bs ih => exact ih _ (SM.setD_canon 0 a b h)

theorem State.spadWrite_wf (s : State) (t a : Nat) (bs : List Byte) (h : Memory.wf s.spad) :
    Memory.wf (s.spadWrite t a bs).spad := memWrite_wf _ _ h

end Machine

end Sys2Proof
end

