-- ==== Sys2Proof/Laws/Training.lean ====
section
/-! SUPPORT. UPDATE: what its pass over a block gives where no NaN stops it. -/

namespace Sys2Proof.Machine

/-- One element of a block through the update kernel (R204): its index and what the kernel gives. -/
def State.updAt (s : State) (r : Region) (kernel : Nat) (nest : Bool) (o : List Fp.Val) (grad gb b i : Nat) : Nat × UpdRes :=
  let e := 1024 * b + i
  let m := fun (base : Nat) => Fp.decode .fp32 (leNat (s.rdBytes (regionAt r base 4 e) 4))
  (e, updElem kernel nest o (Fp.decode .fp32 (s.master r e)) (Fp.decode (if gb = 2 then .eq16 else .fp32) (leNat (s.rdBytes (regionAt r grad gb e) gb)))
    (m r.st) (m (r.st + 4096 * shardBlocks r)))

/-- Without NaN watch the pass reaches every element of the block. -/
theorem State.updBlock_all (s : State) (r : Region) (kernel : Nat) (nest : Bool) (o : List Fp.Val) (grad gb b : Nat) :
    s.updBlock r kernel nest o grad gb b false = ⟨(List.range 1024).map (s.updAt r kernel nest o grad gb b), false⟩ := by
  have h : ∀ (f : UpdBlock → Nat → UpdBlock), (∀ n i, f ⟨n, false⟩ i = ⟨n ++ [s.updAt r kernel nest o grad gb b i], false⟩) →
      ∀ (l : List Nat) (n : List (Nat × UpdRes)), l.foldl f ⟨n, false⟩ = ⟨n ++ l.map (s.updAt r kernel nest o grad gb b), false⟩ := by
    intro f hf l
    induction l with
    | nil => intro n; simp
    | cons i l ih => intro n; rw [List.foldl_cons, hf, ih, List.map_cons, List.append_assoc, List.singleton_append]
  unfold State.updBlock
  generalize List.range 1024 = l
  exact h _ (fun _ _ => rfl) l []

/-- What an UPDATE of one block writes without NaN watch. -/
theorem State.updBlocks_one {s : State} {x : InDesc} {r : Region} {t : Nat} (o : List Fp.Val) (h : getBits (dArg x.raw 2) 32 32 = 1)
    (ht : blockTile r (tilesOf x.raw) 0 (getBits (dArg x.raw 2) 0 32) = some t) (hw : s.flag fNANWATCH = false) :
    (s.updBlocks x r o).writes = (s.updWrites r (getBits (dArg x.raw 3) 0 4) (getBits (dArg x.raw 2) 0 32) ((List.range 1024).map
      (s.updAt r (getBits (dArg x.raw 3) 0 4) ((dArg x.raw 3).testBit 7) o (dArg x.raw 1) (if getBits (dArg x.raw 3) 4 3 = 2 then 2 else 4)
        (getBits (dArg x.raw 2) 0 32)))).map (fun w => (t, w)) := by
  have e : List.range 1 = [0] := rfl
  simp only [State.updBlocks, h, e, hw, List.foldl_cons, List.foldl_nil, Nat.add_zero, ht, State.updBlock_all, List.contains_nil, Bool.false_eq_true,
    if_false, List.nil_append]

end Sys2Proof.Machine
end

