-- ==== Sys2Proof/Tests/Slice0.lean ====
section
/-! SUPPORT. Tests: for each statement a state and operands that meet its hypotheses, with the boundary values of its clauses
(`wit_`); the spec's worked examples and single steps (`test_`); and a command that `WellFormed` refuses for each of its checks. -/

set_option maxRecDepth 100000
set_option Elab.async false

open Sys2Proof Sys2Proof.Machine

namespace Sys2Proof.Tests

/-! ## Helpers: small states that have booted -/

/-- Registers of a node that has booted: READY, ring 0 immediate, ring 1 a step ring, completion ring 0, one outbound window over the low 2^40 bytes,
NaN watch off, and every unit in the class. -/
def regs0 : SM (BitVec 64) := [(2, 1), (0x2000, 3), (0x2001, 1), (0x2040, 1), (0x2180, 7), (0x2181, 0xFFFFFFF000), (0x6002, 0),
  (0x600E, 0xFFFFFFFFFFFFFFFF), (0x600F, 0xFFFFFFFFFFF)]

/-- A standalone node after its boot. -/
def node0 : State := { State.reset with pw := { State.reset.pw with booting := false, causes := [] }, regs := regs0 }

/-- A descriptor word. -/
def rawOf (op stream mask prog a0 a1 a2 a3 : Nat) : BitVec 512 :=
  BitVec.ofNat 512 (op + stream <<< 12 + mask <<< 32 + prog <<< 128 + a0 <<< 192 + a1 <<< 256 + a2 <<< 320 + a3 <<< 384)

/-- Descriptor 0 of ring `r`, waiting, for step `step`. -/
def descOf (r : Fin 64) (step : BitVec 64) (raw : BitVec 512) : InDesc := ⟨.ring r 0, raw, 0, step, false, [], .waiting, 0, 0, 0, false, false, 0, []⟩

/-- The booted node with one descriptor, of step 1 on ring 1. -/
def node1 (raw : BitVec 512) : State := { node0 with descs := [descOf 1 1 raw], steps := [{ tag := 1 }] }

/-- The booted node with one immediate descriptor on ring 0. -/
def nodeI (raw : BitVec 512) : State := { node0 with descs := [descOf 0 0 raw] }

/-- A state with no exact chain and canonical memories is well-formed. -/
theorem wf_of (s : State) (hm : s.memOk)
    (h : SM.Sorted s.regs ∧ SM.Sorted s.msix ∧ SM.Sorted s.sq ∧ SM.Sorted s.cq ∧ SM.Sorted s.ports ∧ SM.Sorted s.tr ∧ SM.Sorted s.wa
      ∧ SM.Sorted s.chain ∧ SM.Sorted s.vthr ∧ SM.Sorted s.spar)
    (hc : s.chain = []) (hv : ∀ p ∈ s.vthr, SM.Sorted p.2.g)
    (hs : ∀ p ∈ s.spar, SM.Sorted p.2.i ∧ SM.Sorted p.2.f ∧ SM.Sorted p.2.z ∧ SM.Sorted p.2.w)
    (hn : ∀ p ∈ s.spar, p.2.vspan ≤ 512 ∧ p.2.fspan ≤ 512) : s.wf :=
  ⟨hm, h.1, h.2.1, h.2.2.1, h.2.2.2.1, h.2.2.2.2.1, h.2.2.2.2.2.1, h.2.2.2.2.2.2.1, h.2.2.2.2.2.2.2.1, h.2.2.2.2.2.2.2.2.1,
    h.2.2.2.2.2.2.2.2.2, hv, hs, by rw [hc]; simp, hn⟩

theorem wf_node0 : node0.wf := wf_of _ (by decide) (by decide) rfl (by decide) (by decide) (by decide)
theorem wf_reset : State.reset.wf := wf_of _ (by decide) (by decide) rfl (by decide) (by decide) (by decide)

/-- The booted node with fields of its registers set. -/
def setFlds (s : State) (l : List (Reg.Fld × Nat)) : State := l.foldl (fun s p => s.setFld p.1 p.2) s
/-- A masthead with one crew node, of node ID 9 at index 1; a crew node of rank 1 and index 1; a spare. -/
def mast : State := setFlds node0 [(fROLE, 1), (fFleet 1, 9), (fFLEETSZ, 2), (⟨0x40040, 8, 4⟩, 8)]
def crew : State := setFlds node0 [(fROLE, 2), (fINDEX, 1), (fRANK, 1), (fFLEETSZ, 2)]
def spare : State := setFlds node0 [(fROLE, 2), (fINDEX, 2), (fRANK, 0xFFF), (fFLEETSZ, 2)]
theorem wf_fleet : mast.wf ∧ crew.wf := ⟨wf_of _ (by decide) (by decide) rfl (by decide) (by decide) (by decide),
  wf_of _ (by decide) (by decide) rfl (by decide) (by decide) (by decide)⟩

/-! ## Witnesses: the host interface -/

theorem wit_StepRunsTheFrontCommand : ({ node0 with pending := [.freeze] } : State).pending = .freeze :: [] := rfl
theorem wit_EmptyQueueIdles : node0.pending = [] := rfl
theorem wit_Doorbells : node0.pw.booting = false ∧ (0 : Fin 64).val = node0.myIdx ∧ node0.fld fPWRSTATE ≠ 1 := by decide
/-- The three outcomes of a tail doorbell: dropped, taken at the ring size itself, and halting. -/
theorem wit_TailDoorbell_disabled : (node0.word (fSqCfg 2)).getLsbD 0 = false := by decide
theorem wit_TailDoorbell_taken : (node0.word (fSqCfg 0)).getLsbD 0 = true ∧ (node0.ring 0).halted = false
    ∧ ((0x100 : BitVec 64).setWidth 32 - (node0.ring 0).retire).toNat ≤ cfgSize (node0.word (fSqCfg 0)) := by decide
theorem wit_TailDoorbell_halts : ¬ ((0x101 : BitVec 64).setWidth 32 - (node0.ring 0).retire).toNat ≤ cfgSize (node0.word (fSqCfg 0)) := by decide
theorem wit_HeadDoorbell : (({ node0 with cq := [(0, ⟨4, 1⟩)] } : State).word (fCqCfg 0)).getLsbD 0 = true
    ∧ ((4 : BitVec 64).setWidth 32 - (({ node0 with cq := [(0, ⟨4, 1⟩)] } : State).cring 0).head).toNat
      ≤ ((({ node0 with cq := [(0, ⟨4, 1⟩)] } : State).cring 0).written - (({ node0 with cq := [(0, ⟨4, 1⟩)] } : State).cring 0).head).toNat := by decide
theorem wit_ReservedDoorbell : (∀ r : Fin 64, 0x480 ≠ 8 * r.val) ∧ (∀ c : Fin 16, 0x480 ≠ 0x400 + 8 * c.val) := by decide

/-- The node with two descriptors of ring 0 not yet fetched. -/
def nodeF : State := { node0 with sq := [(0, { tail := 2 })] }
theorem wit_DescriptorFetch : nodeF.mayFetch 0 = true ∧ nodeF.isImm 0 = true ∧ (nodeF.ring 0).tail ≠ (nodeF.ring 0).head
    ∧ nodeF.unstarted 0 < 32 ∧ nodeF.winOk false (getBits (nodeF.word (fSqCfg 0)).toNat 12 52 * 4096
      + 64 * ((nodeF.ring 0).head.toNat % cfgSize (nodeF.word (fSqCfg 0)))) 64 = true := by decide
theorem wit_DescriptorFetch_none : (node0.word (fSqCfg 5)).getLsbD 0 = false ∨ (node0.ring 5).halted = true ∨ (node0.ring 5).tail = (node0.ring 5).head := by decide
theorem wit_RingEnable : node0.pw.booting = false ∧ node0.pw.blks = [] ∧ node0.recs = [] ∧ (node0.word (fSqCfg 63)).getLsbD 0 = false
    ∧ getBits (0x81 : BitVec 64).toNat 4 4 ≤ 8 := by decide
theorem wit_RingDisable : (nodeF.word (fSqCfg 0)).getLsbD 0 = true ∧ (nodeF.ring 0).retire = (nodeF.ring 0).head ∧ nodeF.pw.blks = [] := by decide
theorem wit_PoisonedTlp : (node0.word (fSqCfg 1)).getLsbD 0 = true
    ∧ (node1 (rawOf 0x401 6 0 0 0 0 32 0)).desc? (.ring 1 0) = some (descOf 1 1 (rawOf 0x401 6 0 0 0 0 32 0))
    ∧ dOp (rawOf 0x401 6 0 0 0 0 32 0) ∈ [0x400, 0x401] ∧ (descOf 1 1 (rawOf 0x401 6 0 0 0 0 32 0)).st ≠ .finished := by decide
/-- A doorbell in the page of crew index 1, in that of the empty index 2, and in the reserved part of the node's own. -/
theorem wit_OtherDoorbells : (1 : Fin 64).val ≠ mast.myIdx ∧ mast.isMast = true ∧ mast.fld (fFleet (1 : Fin 64).val) ≠ 0 ∧ mast.fld (fFleet (2 : Fin 64).val) = 0
    ∧ mast.pw.booting = false ∧ node0.isMast = false ∧ (∀ r : Fin 64, 0x200 ≠ 8 * r.val) ∧ (∀ c : Fin 16, 0x200 ≠ 0x400 + 8 * c.val) := by decide
/-- A step ring whose next descriptor belongs to a step later than the two open ones, and one of an open step. -/
def nodeF1 : State := { node0 with sq := [(1, { tail := 2 })], steps := [{ tag := 5 }, { tag := 6 }] }
theorem wit_DescriptorFetch_held : nodeF1.mayFetch 1 = true ∧ (nodeF1.ring 1).tail ≠ (nodeF1.ring 1).head ∧ nodeF1.unstarted 1 < 32
    ∧ nodeF1.winOk false (getBits (nodeF1.word (fSqCfg 1)).toNat 12 52 * 4096 + 64 * ((nodeF1.ring 1).head.toNat % cfgSize (nodeF1.word (fSqCfg 1)))) 64 = true
    ∧ nodeF1.isImm 1 = false ∧ dTag (7 <<< 64) ≠ 0 ∧ nodeF1.comm.lastTag.toNat < (dTag (7 <<< 64)).toNat ∧ 2 ≤ nodeF1.older (dTag (7 <<< 64))
    ∧ nodeF1.older (dTag (6 <<< 64)) < 2 := by decide
theorem wit_RingEnableDisable_wf : node0.wf ∧ nodeF.wf := ⟨wf_node0, wf_of _ (by decide) (by decide) rfl (by decide) (by decide) (by decide)⟩
/-- A ring with a descriptor not yet retired goes on while it is being disabled. -/
theorem wit_RingDisable_busy : (({ node0 with sq := [(0, { tail := 2, head := 1 })] } : State).ring 0).retire ≠ (({ node0 with sq := [(0, { tail := 2, head := 1 })] } : State).ring 0).head
    ∧ (node0.word (fCqCfg 0)).getLsbD 0 = true := by decide
def stepSl : Step := { tag := 1, sealCnt := some 2 }
theorem wit_CommitStall : ({ node0 with steps := [stepSl] } : State).step? 1 = some stepSl ∧ stepSl.sealCnt = some 2
    ∧ ({ node0 with steps := [{ tag := 1 }] } : State).step? 1 = some { tag := 1 } ∧ ({ node0 with pw := { node0.pw with d3 := true } } : State).pw.d3 = true
    ∧ node0.isCrew = false := by decide
/-- The crew node once the masthead has told it its windows. -/
def crewW : State := { crew with rec_ := { crew.rec_ with mastWins := some node0.windows } }
theorem wit_PointerRecord : (node0.word (fSqCfg 1)).getLsbD 0 = true ∧ node0.rec_.relayLost = false ∧ node0.isCrew = false ∧ crew.isCrew = true
    ∧ node0.winOk true (node0.fld fPTRBASE * 4096 + 16 * 1) 16 = true ∧ crewW.winOk true (crewW.fld fPTRBASE * 4096 + 16 * 1) 16 = true
    ∧ (node0.setWord 0x10600 0x10000000000).winOk true ((node0.setWord 0x10600 0x10000000000).fld fPTRBASE * 4096 + 16 * 1) 16 = false
    ∧ (node0.word (fSqCfg 2)).getLsbD 0 = false := by decide
def rec1 : Rec := ⟨0, 0, 0, 0, 0, 0, 0, false, true⟩
theorem wit_PostWaitingRecords : ({ node0 with recs := [rec1] } : State).recs = [rec1] ∧ rec1.cq = (0 : Fin 16).val ∧ ({ node0 with recs := [rec1] } : State).cqRoom 0 = true
    ∧ (∀ x ∈ ({ node0 with recs := [rec1] } : State).recs, x.cq ≠ (1 : Fin 16).val) := by decide
theorem wit_Nop_step : (node1 (rawOf 0 0 0 0 0 0 0 0)).Startable (.ring 1 0) (descOf 1 1 (rawOf 0 0 0 0 0 0 0 0))
    ∧ dOp (rawOf 0 0 0 0 0 0 0 0) = 0 ∧ (descOf 1 1 (rawOf 0 0 0 0 0 0 0 0)).step ≠ 0 := by
  unfold State.Startable; decide
theorem wit_Nop_immediate : (nodeI (rawOf 0 0 0 0 0 0 0 0)).Startable (.ring 0 0) (descOf 0 0 (rawOf 0 0 0 0 0 0 0 0))
    ∧ dQuiet (rawOf 0 0 0 0 0 0 0 0) = false ∧ (nodeI (rawOf 0 0 0 0 0 0 0 0)).PostsAtOnce (descOf 0 0 (rawOf 0 0 0 0 0 0 0 0)) := by
  unfold State.Startable State.PostsAtOnce; decide
theorem wit_Seal : (node1 (rawOf 3 5 0 0 0 0 0 0)).Startable (.ring 1 0) (descOf 1 1 (rawOf 3 5 0 0 0 0 0 0))
    ∧ dOp (rawOf 3 5 0 0 0 0 0 0) = 3 ∧ (node1 (rawOf 3 5 0 0 0 0 0 0)).fld fRMODE ≠ 2 := by
  unfold State.Startable; decide
/-- A QUERY of the greatest count, and one of a count too great. -/
theorem wit_Query : (nodeI (rawOf 1 5 0 0x40 0x1000 0 0 256)).Startable (.ring 0 0) (descOf 0 0 (rawOf 1 5 0 0x40 0x1000 0 0 256))
    ∧ dOp (rawOf 1 5 0 0x40 0x1000 0 0 256) = 1 ∧ dArg (rawOf 1 5 0 0x40 0x1000 0 0 256) 3 = 256 ∧ dProg (rawOf 1 5 0 0x40 0x1000 0 0 256) % 8 = 0
    ∧ dArg (rawOf 1 5 0 0x40 0x1000 0 0 256) 0 % 32 = 0 ∧ (nodeI (rawOf 1 5 0 0x40 0x1000 0 0 256)).winOk true 0x1000 (8 * 256) = true
    ∧ (nodeI (rawOf 1 5 0 0x40 0x1000 0 0 256)).PostsAtOnce (descOf 0 0 (rawOf 1 5 0 0x40 0x1000 0 0 256)) := by
  unfold State.Startable State.PostsAtOnce; decide
theorem wit_Query_bad : (nodeI (rawOf 1 5 0 0x40 0x1000 0 0 257)).Startable (.ring 0 0) (descOf 0 0 (rawOf 1 5 0 0x40 0x1000 0 0 257))
    ∧ 256 < dArg (rawOf 1 5 0 0x40 0x1000 0 0 257) 3 := by
  unfold State.Startable; decide

/-- A QUERY that would leave the outbound windows. -/
theorem wit_Query_window : (nodeI (rawOf 1 5 0 0x40 0x10000000000 0 0 1)).Startable (.ring 0 0) (descOf 0 0 (rawOf 1 5 0 0x40 0x10000000000 0 0 1))
    ∧ (nodeI (rawOf 1 5 0 0x40 0x10000000000 0 0 1)).winOk true 0x10000000000 8 = false := by
  unfold State.Startable; decide

/-! ## Witnesses: registers, SETUP and data movement -/

theorem wit_RegisterWrites : node0.pw.booting = false ∧ node0.wf ∧ 0x1BFF8 % 8 = 0 ∧ 0x1BFF8 < 0x1C000 ∧ 5 % 8 ≠ 0 ∧ 6 % 4 ≠ 0 ∧ (1024 : BitVec 64).toNat % 2048 ≤ 1024
    ∧ 8 ≤ (8 : BitVec 64).toNat % 2048 := ⟨rfl, wf_node0, by decide⟩
theorem wit_SetupFieldIgnoresMmio : node0.wf ∧ node0.pw.booting = false := ⟨wf_node0, rfl⟩
theorem wit_AccessCodes : (Reg.fieldsAt 0x50000).Pairwise (fun a b => fieldMask a &&& fieldMask b = 0)
    ∧ ((Reg.fieldsAt 0x50008).any (fun f => f.2.acc == .w1c) && (Reg.fieldsAt 0x50008).any (fun f => f.2.acc == .ro)) = true := by decide

/-- A SETUP of one word in its ARGs: MODE_EXACT. -/
def rawS (off value mask : Nat) : BitVec 512 := rawOf 2 5 0 off value mask 0 0
theorem wit_SetupCompletes : (nodeI (rawS 0x30010 2 2)).Startable (.ring 0 0) (descOf 0 0 (rawS 0x30010 2 2))
    ∧ dOp (rawS 0x30010 2 2) = 2 ∧ dQuiet (rawS 0x30010 2 2) = false ∧ (nodeI (rawS 0x30010 2 2)).fld fPWRSTATE ≠ 1
    ∧ ([] : List (BitVec 256)).length = getBits (dArg (rawS 0x30010 2 2) 3) 0 9
    ∧ ∃ ws u, setupList (rawS 0x30010 2 2) [] = some ws ∧ (nodeI (rawS 0x30010 2 2)).setupWrites ws = .done u
      ∧ u.desc? (.ring 0 0) = some (descOf 0 0 (rawS 0x30010 2 2)) ∧ u.PostsAtOnce (descOf 0 0 (rawS 0x30010 2 2))
      ∧ ws.any (fun w => w.off == 0x30010 && w.mask.getLsbD 1) = true := by
  unfold State.Startable State.PostsAtOnce
  exact ⟨by decide, by decide, by decide, by decide, by decide, _, _, rfl, rfl, by decide, by decide, by decide⟩
theorem wit_Setup_badReg : ∃ ws, setupList (rawS 0x8 1 1) [] = some ws ∧ (nodeI (rawS 0x8 1 1)).setupWrites ws = .badReg
    ∧ (∀ k < 64, ((nodeI (rawS 0x8 1 1)).ring k).disabling = false) ∧ touches ws 0x10A08 0x10C00 = false := by
  exact ⟨_, rfl, rfl, by decide, by decide⟩
/-- One entry for each row of SETUP that names its register. -/
theorem wit_SetupRows : ([⟨0x91000, 0, 2 ^ 47, false⟩] : List WordWrite).any (fun w => decide (0x91000 ≤ w.off) && decide (w.off < 0x91400)) = true
    ∧ ([⟨0x30070, 0, 1, false⟩] : List WordWrite).any (fun w => w.off == 0x30070 || w.off == 0x30078) = true
    ∧ ([⟨0x40038, 1, 3, false⟩] : List WordWrite).any (fun w => w.off == 0x40038 && w.value &&& w.mask &&& 3 == 1) = true := by decide
/-- A SETUP refused while a step is open, one of a list outside the windows, and one that would list a sixteenth crew node. -/
theorem wit_RefusedSetup : (∃ ws, setupList (rawS 0x30000 1 1) [] = some ws ∧ ({ nodeI (rawS 0x30000 1 1) with steps := [{ tag := 1 }] } : State).setupWrites ws = .refused 0x1401)
    ∧ (nodeI (rawOf 2 5 0 0 0 0 0x10000000000 1)).winOk false (dArg (rawOf 2 5 0 0 0 0 0x10000000000 1) 2) 32 = false
    ∧ setupList (rawOf 2 5 0 0 0 0 0 257) [] = none := ⟨⟨_, rfl, rfl⟩, by decide, by decide⟩
theorem wit_SetupRowEffects : node0.wf ∧ node0.logQ = [] := ⟨wf_node0, rfl⟩
theorem wit_LostPageClear : ({ node0 with regs := regs0 ++ [(0x12200, 2 ^ 47)] } : State).flag (fLostValid 0) = true := by decide
theorem wit_Htod : (node1 (rawOf 0x400 6 0 0 0x1000 0x100000000 32 0)).Startable (.ring 1 0) (descOf 1 1 (rawOf 0x400 6 0 0 0x1000 0x100000000 32 0))
    ∧ badDma 0x1000 32 = false ∧ (List.replicate 32 (7 : Byte)).length = 32
    ∧ (node1 (rawOf 0x400 6 0 0 0x1000 0x100000000 32 0)).winOk false 0x1000 32 = true
    ∧ (node1 (rawOf 0x400 6 0 0 0x1000 0x100000000 32 0)).touchesLow 0x100000000 32 = false
    ∧ ∃ s', (node1 (rawOf 0x400 6 0 0 0x1000 0x100000000 32 0)).write
        ((node1 (rawOf 0x400 6 0 0 0x1000 0x100000000 32 0)).writer (.ring 1 0) 0xF0 3) 0x100000000 (List.replicate 32 7) = .ok s' := by
  unfold State.Startable
  exact ⟨by decide, by decide, by decide, by decide, by decide, _, rfl⟩
theorem wit_Dtoh : (node1 (rawOf 0x401 6 0 0 0x1000 0x100000000 64 0)).Startable (.ring 1 0) (descOf 1 1 (rawOf 0x401 6 0 0 0x1000 0x100000000 64 0))
    ∧ badDma 0x1000 64 = false ∧ (node1 (rawOf 0x401 6 0 0 0x1000 0x100000000 64 0)).winOk true 0x1000 64 = true
    ∧ (node1 (rawOf 0x401 6 0 0 0x1000 0x100000000 64 0)).touchesLow 0x100000000 64 = false
    ∧ (node1 (rawOf 0x401 6 0 0 0x1000 0x100000000 64 0)).rdCheck 0x100000000 64 = none := by
  unfold State.Startable; decide +kernel
theorem wit_BadTransfers : badDma 0x1000 32 = false ∧ node0.winOk false 0x10000000000 32 = false ∧ 0x1001 % 32 ≠ 0 ∧ 2 ^ 30 < 2 ^ 30 + 32 := by decide

/-- A DTOH of a crew node in its masthead's windows, an HTOD beyond the end of node memory, and one whose image slot another step holds. -/
def crewD : State := { crewW with descs := [descOf 1 1 (rawOf 0x401 6 0 0 0x1000 0x100000000 64 0)], steps := [{ tag := 1 }] }
theorem wit_Dtoh_crew : crewD.Startable (.ring 1 0) (descOf 1 1 (rawOf 0x401 6 0 0 0x1000 0x100000000 64 0)) ∧ crewD.isCrew = true
    ∧ crewD.winOk true 0x1000 64 = true ∧ crewD.rdCheck 0x100000000 64 = none ∧ (crewD.hwEvs 1 []).2 = true := by
  unfold State.Startable; decide +kernel
theorem wit_Htod_error : (match (node1 (rawOf 0x400 6 0 0 0x1000 0x8000000000 32 0)).write ((node1 (rawOf 0x400 6 0 0 0x1000 0x8000000000 32 0)).writer (.ring 1 0) 0xF0 3)
      0x8000000000 (List.replicate 32 7) with
    | .ok _ => none
    | .error e => some (decide (e = .wait))) = some false
    ∧ (node1 (rawOf 0x401 6 0 0 0x1000 0x8000000000 32 0)).rdCheck 0x8000000000 32 = some .range := by decide +kernel
/-- Lengths 16 and 2^30 + 32, and a misaligned host address. -/
theorem wit_BadTransfers_lengths : badDma 0x1000 16 = true ∧ badDma 0x1000 (2 ^ 30 + 32) = true ∧ badDma 0x1010 32 = true ∧ badDma 0x1000 (2 ^ 30) = false := by decide
/-- Region 5's low half lies below the master: a transfer into it is refused. -/
def rawW0 : BitVec 512 := rawOf 0x103 2 1 1 5 0x100000000 0x100010000 0x100020000
theorem wit_LowHalf : ({ node0 with live := { RegState.reset with regions := [(5, wregionOf rawW0)] } } : State).touchesLow 0x100010000 32 = true := by decide +kernel
theorem wit_MemoryReadsBack : Memory.wf (memWrite [] 5 [7, 0]) := by decide

/-! ## Witnesses: formats and sums -/

theorem wit_PatternsRoundTrip : 0xFF < 2 ^ Fp.Fmt.eq8a.width ∧ (Fp.decode .eq8a 0xFF).isNan = false ∧ (Fp.decode .fp32 0x7F800000).isNan = false := by decide
theorem wit_Eq16 : (Fp.decode .eq16 0x0001).isNan = false ∧ (Fp.decode .eq16 0x7FC0).isNan = true := by decide
theorem wit_Eq8Conversions : (Fp.decode .eq8b 0xFF).isNan = false := by decide
theorem wit_RoundingIsNearest : (-1 : Int) < 0 := by decide
/-- A block that is no zero block, with a reserved EB4 element. -/
def blk8 : List Byte := 8#8 :: List.replicate 15 0#8 ++ [0#8, 0#8]
theorem wit_BlocksDecode : (blk8.getD 16 0).getLsbD 6 = false ∧ Fp.BFmt.eb4.isRsvd (Fp.BFmt.eb4.raw blk8 0) = true ∧ 16 < blk8.length
    ∧ ((List.replicate 16 0#8 ++ [0x40#8]).getD 16 0).getLsbD 6 = true := by decide
theorem wit_WideSum : ([Fp.Val.zero, .inf false].zip [Fp.Val.zero, .zero]).Perm ([Fp.Val.inf false, .zero].zip [Fp.Val.zero, .zero]) := by
  exact List.Perm.swap _ _ _

/-! ## Witnesses: tile programs, the matrix and the element engine -/

/-- A running TILE_RUN of tiles 0 and 1. -/
def rawT : BitVec 512 := rawOf 0x100 1 3 0 0 0 0 0
def runningT : InDesc := { descOf 1 1 rawT with st := .running, left := 3 }

/-- The booted node with a program of `runningT` at thread 0 of tile 0, whose registers are `g`. -/
def nodeT (g : SM (BitVec 64)) : State :=
  { node0 with descs := [runningT], steps := [{ tag := 1 }], vthr := [(0, { g := g, run := some (.ring 1 0) })] }

/-- The engine instruction `w` of that thread. -/
def issue (w : Nat) : VxtIssue := ⟨0, 0, 0, BitVec.ofNat 64 w, 0, [], false⟩

theorem can_of {s : State} {i : VxtIssue} {d : DRef} {op : Nat}
    (h : (s.thr i.tile.val i.thread.val).run = some d ∧ (s.thr i.tile.val i.thread.val).halted = false ∧ i.word.toNat % 256 = op
      ∧ (s.remote.ops.any (fun o => o.by_ = .tile i.tile.val i.thread.val && o.waits)) = false ∧ s.reefStop i.tile.val = false
      ∧ (match s.scalarsOf i with
        | .ok _ => true
        | _ => false) = true) : s.CanIssue i d op := by
  refine ⟨h.1, h.2.1, h.2.2.1, h.2.2.2.1, h.2.2.2.2.1, ?_⟩
  have h6 := h.2.2.2.2.2
  split at h6
  · exact ⟨_, by assumption⟩
  · exact absurd h6 (by decide)
theorem wf_nodeT : (nodeT []).wf := wf_of _ (by decide) (by decide) rfl (by decide) (by decide) (by decide)

/-- A TILE_RUN on tiles 0 and 31. -/
def rawTR (op : Nat) : BitVec 512 := rawOf op 1 0x80000001 0 1 2 3 4
theorem wit_ProgramsStart (op : Nat) (h : op = 0x100 ∨ op = 0x101) : (node1 (rawTR op)).Startable (.ring 1 0) (descOf 1 1 (rawTR op))
    ∧ (node1 (rawTR op)).queueFull (descOf 1 1 (rawTR op)) = false ∧ (node1 (rawTR op)).score (descOf 1 1 (rawTR op)) = .go
    ∧ tilesOf (rawTR op) = [0, 31] ∧ dOp (rawTR op) = op
    ∧ (∀ t ∈ [0, 31], (node1 (rawTR op)).tileOff t = false ∧ (node1 (rawTR op)).freeThr t (dStream (rawTR op)) = some 4
      ∧ (node1 (rawTR op)).isStopped t (dStream (rawTR op)) 0 = false ∧ (node1 (rawTR op)).progFault t (dProg (rawTR op)) = none)
    ∧ (node1 (rawTR op)).earlier (descOf 1 1 (rawTR op)) = [] := by
  unfold State.Startable; rcases h with rfl | rfl <;> decide
theorem wit_ProgramsStart_wf : (node1 (rawTR 0x100)).wf ∧ (0x80000000 : BitVec 32).getLsbD 31 = true := ⟨wf_of _ (by decide) (by decide) rfl (by decide) (by decide) (by decide), by decide⟩

/-- An MMA of an FP32 row and column over k = 32 on core 0, register 0, with ZERO. -/
def wMma : Nat := 0x41 + 1 <<< 8 + 1 <<< 14 + 1 <<< 17 + 1 <<< 26 + 1 <<< 32 + 2 <<< 37 + 3 <<< 42
def gMma : SM (BitVec 64) := [(1, 0), (2, 0x10000), (3, 32 + 1 <<< 17 + 1 <<< 26 + 4 <<< 34 + 4 <<< 49)]
/-- A handoff that keeps register 0 of core 0 busy. -/
def handB : Handoff := ⟨0, 0, 0, 0, false, .ring 1 0, 1, 0, 1, 0, [], 0, [], false, [], none⟩
theorem wit_MmaCompletes : (nodeT gMma).CanIssue (issue wMma) (.ring 1 0) 0x41 ∧ (nodeT gMma).mapsOk ∧ (nodeT gMma).flag fNANWATCH = false
    ∧ ((nodeT gMma).issued (issue wMma)).mmaFault 0 (.ring 1 0) (((nodeT gMma).issued (issue wMma)).mmaOp 0 0 wMma) = none
    ∧ ((nodeT gMma).issued (issue wMma)).trBusy 0 (mCores wMma) (mTr wMma) (decide (mFa wMma = 0)) = false
    ∧ (({ nodeT gMma with coll := { hands := [handB] } } : State).issued (issue wMma)).trBusy 0 (mCores wMma) (mTr wMma) (decide (mFa wMma = 0)) = true
    ∧ (((nodeT gMma).issued (issue wMma)).hwEvs (((nodeT gMma).issued (issue wMma)).tagOf (.ring 1 0)) []).2 = true :=
  ⟨can_of (by decide), (wf_of _ (by decide) (by decide) rfl (by decide) (by decide) (by decide)).2, by decide⟩
/-- Without ZERO, on a loaded register, and on an exact chain of EQ16 operands. -/
theorem wit_MmaCompletes_element : mCores (wMma - 1 <<< 26) = [0] ∧ mGang (wMma - 1 <<< 26) = false ∧ mSplit (wMma - 1 <<< 26) = false
    ∧ mZero (wMma - 1 <<< 26) = false ∧ Mx.fmtOf (mFa (wMma - 1 <<< 26)) = some (.s .fp32)
    ∧ Mx.accOf ({ nodeT gMma with chain := [(0, ⟨.loaded, false⟩)] } : State).exact (.s .fp32) ≠ .wide
    ∧ (({ nodeT gMma with chain := [(0, ⟨.loaded, false⟩)] } : State).chain? 0 0 0).c ≠ .closed
    ∧ ({ nodeT gMma with chain := [(0, ⟨.loaded, false⟩)] } : State).mmaFault 0 (.ring 1 0) ((nodeT gMma).mmaOp 0 0 (wMma - 1 <<< 26)) = none
    ∧ 0 < min 128 ((nodeT gMma).mmaOp 0 0 (wMma - 1 <<< 26)).m
    ∧ (({ nodeT gMma with chain := [(0, ⟨.wide 1 7, false⟩)] } : State).chain? 0 0 0).c = .wide 1 7 := by decide
theorem wit_MatrixFaultsWriteNothing : (nodeT gMma).CanIssue (issue (wMma + 1 <<< 28)) (.ring 1 0) 0x41
    ∧ (nodeT gMma).desc? (.ring 1 0) = some runningT ∧ runningT.status = 0 ∧ runningT.left &&& (2 ^ 32 - 1 - 2 ^ 0) ≠ 0
    ∧ ((nodeT gMma).thr 0 0).xfers = []
    ∧ ((nodeT gMma).issued (issue (wMma + 1 <<< 28))).mmaFault 0 (.ring 1 0) (((nodeT gMma).issued (issue (wMma + 1 <<< 28))).mmaOp 0 0 (wMma + 1 <<< 28))
      = some 0x0401 := ⟨can_of (by decide), by decide⟩
/-- Each other clause: a reserved opcode, MMAF, MZERO with a reserved bit, no core and an odd pair, MCLOSE with a reserved bit and no core, MLOAD, MSTORE. -/
theorem wit_MatrixFaults_others : mxReserved 0x45 = true ∧ mReserved (0x40 + 1 <<< 63) = true ∧ mReserved 0x40 = false ∧ mCmask 0x40 = 0
    ∧ mReserved (0x40 + 1 <<< 8 + 1 <<< 12 + 1 <<< 27) = false ∧ mCmask (0x40 + 1 <<< 8 + 1 <<< 12 + 1 <<< 27) ≠ 0 ∧ mCtgt (0x40 + 1 <<< 8 + 1 <<< 12 + 1 <<< 27) = true ∧ mTr (0x40 + 1 <<< 8 + 1 <<< 12 + 1 <<< 27) % 2 = 1
    ∧ mReserved (0x42 + 1 <<< 63) = true ∧ ((nodeT gMma).issued (issue 0x42)).closeFault 0 0x42 = some 0x0403 ∧ mReserved 0x42 = false
    ∧ ((nodeT gMma).issued (issue 0x43)).mlsFault 0 0 0x43 false = some 0x0403 ∧ ((nodeT gMma).issued (issue 0x44)).mlsFault 0 0 0x44 true = some 0x0403
    ∧ (((nodeT gMma).issued (issue (wMma + 7 + 1 <<< 28))).fusedFault 0 0 (wMma + 7 + 1 <<< 28) 0 (.ring 1 0)).isSome = true := by decide
theorem wit_MzeroClears : (nodeT []).CanIssue (issue (0x40 + 15 <<< 8)) (.ring 1 0) 0x40 ∧ (nodeT []).mapsOk
    ∧ ((nodeT []).issued (issue (0x40 + 15 <<< 8))).trBusy 0 (mCores (0x40 + 15 <<< 8)) (mTr (0x40 + 15 <<< 8)) (mCtgt (0x40 + 15 <<< 8)) = false
    ∧ (({ nodeT [] with coll := { hands := [handB] } } : State).issued (issue (0x40 + 15 <<< 8))).trBusy 0 (mCores (0x40 + 15 <<< 8)) (mTr (0x40 + 15 <<< 8)) (mCtgt (0x40 + 15 <<< 8)) = true
    ∧ mReserved (0x40 + 15 <<< 8) = false ∧ mCmask (0x40 + 15 <<< 8) ≠ 0 ∧ ¬ (mCtgt (0x40 + 15 <<< 8) = true ∧ mTr (0x40 + 15 <<< 8) % 2 = 1) :=
  ⟨can_of (by decide), wf_nodeT.2, by decide⟩
/-- A core with an open exact chain on wide accumulator 1. -/
theorem wit_McloseCloses : (nodeT []).CanIssue (issue (0x42 + 1 <<< 8)) (.ring 1 0) 0x42 ∧ (nodeT []).mapsOk ∧ mCores (0x42 + 1 <<< 8) = [0]
    ∧ mReserved (0x42 + 1 <<< 8) = false ∧ ((nodeT []).issued (issue (0x42 + 1 <<< 8))).closeFault 0 (0x42 + 1 <<< 8) = none
    ∧ ({ nodeT [] with chain := [(0, ⟨.wide 1 7, false⟩)] } : State).closeFault 0 (0x42 + 1 <<< 8) = none
    ∧ (({ nodeT [] with chain := [(0, ⟨.wide 1 7, false⟩)] } : State).chain? 0 0 0).c = .wide 1 7 := ⟨can_of (by decide), wf_nodeT.2, by decide⟩
theorem wit_Mload : (nodeT []).CanIssue (issue (0x43 + 1 <<< 8)) (.ring 1 0) 0x43 ∧ mCores (0x43 + 1 <<< 8) = [0]
    ∧ ((nodeT []).issued (issue (0x43 + 1 <<< 8))).mlsFault 0 0 (0x43 + 1 <<< 8) false = none
    ∧ ((nodeT []).issued (issue (0x43 + 1 <<< 8))).trBusy 0 [0] (mTr (0x43 + 1 <<< 8)) (mCtgt (0x43 + 1 <<< 8)) = false
    ∧ (({ nodeT [] with coll := { hands := [handB] } } : State).issued (issue (0x43 + 1 <<< 8))).trBusy 0 [0] (mTr (0x43 + 1 <<< 8)) (mCtgt (0x43 + 1 <<< 8)) = true
    ∧ (((nodeT []).issued (issue (0x43 + 1 <<< 8))).hwEvs (((nodeT []).issued (issue (0x43 + 1 <<< 8))).tagOf (.ring 1 0)) []).2 = true := ⟨can_of (by decide), by decide⟩
/-- A store to the scratchpad, and one to node memory at 4 GiB. -/
theorem wit_Mstore : (nodeT []).CanIssue (issue (0x44 + 1 <<< 8)) (.ring 1 0) 0x44
    ∧ ((nodeT []).issued (issue (0x44 + 1 <<< 8))).mlsFault 0 0 (0x44 + 1 <<< 8) true = none
    ∧ ((nodeT []).issued (issue (0x44 + 1 <<< 8))).greg 0 0 (mGa (0x44 + 1 <<< 8)) = 0
    ∧ ((nodeT [(1, 2 ^ 63 + 0x100000000)]).issued (issue (0x44 + 1 <<< 8 + 1 <<< 32))).mlsFault 0 0 (0x44 + 1 <<< 8 + 1 <<< 32) true = none
    ∧ (((nodeT [(1, 2 ^ 63 + 0x100000000)]).issued (issue (0x44 + 1 <<< 8 + 1 <<< 32))).greg 0 0 (mGa (0x44 + 1 <<< 8 + 1 <<< 32))).testBit 63 = true := ⟨can_of (by decide), by decide⟩

/-- An element program of one row and column that moves row 0 of its register out in FP32, at scratchpad address 0. -/
def epWords : List Byte := leBytes 8 (1 + 1 <<< 6 + 1 <<< 40 + 16 <<< 47) ++ leBytes 8 (1 + 16 <<< 12)
def nodeE : State := { nodeT [(2, 0x1000), (3, 0x2000)] with spad := memWrite [] 0 epWords }
def wEp : Nat := 0x50 + 1 <<< 32 + 2 <<< 37 + 4 <<< 42 + 3 <<< 47
theorem wit_Eprun : nodeE.CanIssue (issue wEp) (.ring 1 0) 0x50 ∧ nodeE.flag fNANWATCH = false
    ∧ nodeE.isOpen 0 0 0 = false ∧ (epCall (nodeE.issued (issue wEp)) 0 0 wEp).pair = false ∧ (epCall (nodeE.issued (issue wEp)) 0 0 wEp).tr2 = none
    ∧ getBits wEp 15 17 = 0 ∧ getBits wEp 52 12 = 0 ∧ (nodeE.issued (issue wEp)).epFault 0 (.ring 1 0) (epCall (nodeE.issued (issue wEp)) 0 0 wEp) = none
    ∧ (epCall (nodeE.issued (issue wEp)) 0 0 wEp).outs = some (0x1000, 0x2000)
    ∧ ((nodeE.issued (issue wEp)).hwEvs ((nodeE.issued (issue wEp)).tagOf (.ring 1 0)) []).2 = true := ⟨can_of (by decide), by decide⟩
def wXfer : Nat := 0x58 + 1 <<< 32 + 2 <<< 37 + 3 <<< 42
def gXfer : SM (BitVec 64) := [(1, 0x40), (2, 0x80), (3, 32)]
theorem wit_Xfer : (nodeT gXfer).CanIssue (issue wXfer) (.ring 1 0) 0x58
    ∧ ((nodeT gXfer).issued (issue wXfer)).xferFault 0 wXfer 0x40 0x80 32 = none
    ∧ (List.range 8).find? (fun k => (SM.getD none ((nodeT gXfer).thr 0 0).xfers k).isNone) = some 0 := ⟨can_of (by decide), by decide⟩
/-- A thread with a transfer in slot 7, and one with all eight taken. -/
def nodeX : State := { nodeT [] with vthr := [(0, { run := some (.ring 1 0), xfers := [(7, some ⟨0x40, 0x80, 32⟩)] })] }
def nodeX8 : State := { nodeT [] with vthr := [(0, { g := gXfer, run := some (.ring 1 0), xfers := (List.range 8).map (fun k => (k, some ⟨0x40, 0x80, 32⟩)) })] }
theorem wit_XferComplete : (nodeX.thr 0 0).run = some (.ring 1 0) ∧ (nodeX.thr 0 0).halted = false ∧ SM.Sorted (nodeX.thr 0 0).xfers
    ∧ SM.getD none (nodeX.thr 0 0).xfers 7 = some ⟨0x40, 0x80, 32⟩ ∧ (nodeX.hwEvs (nodeX.tagOf (.ring 1 0)) []).2 = true
    ∧ (List.range 8).find? (fun k => (SM.getD none (nodeX8.thr 0 0).xfers k).isNone) = none := by decide
theorem wit_Fence : (nodeT []).CanIssue (issue 0x5C) (.ring 1 0) 0x5C ∧ getBits 0x5C 11 53 = 0
    ∧ (nodeX.issued (issue (0x5C + 7 <<< 8))).fenceWaits 0 0 (0x5C + 7 <<< 8) = true := ⟨can_of (by decide), by decide⟩

/-! ## Witnesses: training streams -/

/-- A WREGION of region 5, one block, with masters and state at 4 GiB and above. -/
def rawW : BitVec 512 := rawOf 0x103 2 1 1 5 0x100000000 0x100010000 0x100020000
theorem wit_Wregion : (node1 rawW).EngReady (.ring 1 0) (descOf 1 1 rawW) 0x103 ∧ dArg rawW 0 < 128 ∧ dMask rawW ≠ 0 ∧ dProg rawW = 1
    ∧ (wregionOf rawW).shard = false ∧ (wregionOf rawW).hi % 4096 = 0 ∧ (wregionOf rawW).lo % 4096 = 0 ∧ (wregionOf rawW).st % 4096 = 0
    ∧ (∀ y ∈ (node1 rawW).descs, y.ref ≠ .ring 1 0 → y.st ≠ .finished → ∀ u ∈ usesOf y.raw, useReg u ≠ 5)
    ∧ ((loRanges (wregionOf rawW) ++ hiRanges (wregionOf rawW) ++ stRanges (wregionOf rawW)).Pairwise (fun p q => overlaps p.1 p.2 q.1 q.2 = false))
    ∧ (∀ q ∈ loRanges (wregionOf rawW) ++ hiRanges (wregionOf rawW) ++ stRanges (wregionOf rawW), (node1 rawW).rdCheck q.1 q.2 = none)
    ∧ (((node1 rawW).running (.ring 1 0) 0).hwEvs 1 []).2 = true := by
  unfold State.EngReady State.Startable; decide +kernel
theorem wit_Wregion_none : (node1 (rawOf 0x103 2 1 0 5 0 0 0)).EngReady (.ring 1 0) (descOf 1 1 (rawOf 0x103 2 1 0 5 0 0 0)) 0x103
    ∧ dProg (rawOf 0x103 2 1 0 5 0 0 0) = 0 := by
  unfold State.EngReady State.Startable; decide
/-- Two blocks sharded over tiles 0 and 1. -/
def rawWs : BitVec 512 := rawOf 0x103 2 3 2 (5 + 64) 0x100000000 0x100010000 0x100020000
theorem wit_Wregion_shard : (wregionOf rawWs).shard = true ∧ (wregionOf rawWs).count % (shardTiles (wregionOf rawWs)).length = 0
    ∧ (shardTiles (wregionOf rawWs)).length = 2 := by decide

/-- The node with region 5 defined at version 0, and a descriptor. -/
def nodeW (raw : BitVec 512) : State :=
  { node1 raw with live := { RegState.reset with regions := [(5, wregionOf rawW)] } }
/-- An UPDATE of no gradient: its use word names region 5 at version 0, and block 0 alone. -/
def rawU : BitVec 512 := rawOf 0x102 2 1 0x100030000 (5 + 64 + 128) 0x100040000 (1 <<< 32) (2 + 1 <<< 4)
/-- A WREGION that finds that UPDATE waiting. -/
def nodeWb : State := { node1 rawW with descs := [descOf 1 1 rawW, { descOf 1 1 rawU with ref := .ring 1 1 }] }
theorem wit_Wregion_busy : nodeWb.EngReady (.ring 1 0) (descOf 1 1 rawW) 0x103 ∧ SM.Sorted nodeWb.live.regions
    ∧ ∃ y ∈ nodeWb.descs, y.ref ≠ .ring 1 0 ∧ y.st ≠ .finished ∧ ∃ u ∈ usesOf y.raw, useReg u = 5 := by
  unfold State.EngReady State.Startable; decide +kernel
/-- What an UPDATE of the node's region 5 writes. -/
def accU (s : State) : UpdAcc := s.updBlocks (descOf 1 1 rawU) (s.region 5) (s.optrec (dProg rawU))
def nodeU : State := (nodeW rawU).running (.ring 1 0) 0
def updU (i : Nat) : Nat × UpdRes := nodeU.updAt (nodeU.region 5) 2 false (nodeU.optrec (dProg rawU)) (dArg rawU 1) 4 0 i
def writesU : List (Nat × Nat × List Byte) := (nodeU.updWrites (nodeU.region 5) 2 0 ((List.range 1024).map updU)).map (fun w => (0, w))
theorem wit_Update : (nodeW rawU).EngReady (.ring 1 0) (descOf 1 1 rawU) 0x102
    ∧ ((nodeW rawU).running (.ring 1 0) 0).updFault (descOf 1 1 rawU) ((nodeW rawU).region 5) = none
    ∧ (((nodeW rawU).running (.ring 1 0) 0).hwEvs 1 []).2 = true := by
  unfold State.EngReady State.Startable; decide +kernel
theorem wit_Update_lands : (accU nodeU).stopped = [] ∧ ∃ s', nodeU.unitWrites (.ring 1 0) (accU nodeU).writes = .ok s' := by
  refine ⟨by decide +kernel, ?_⟩
  have e : (accU nodeU).writes = writesU := State.updBlocks_one _ (by decide) (by decide) (by decide)
  have h : (writesU.all (fun w => (pagesOf w.2.1 w.2.2.length).all (fun p => !nodeU.covered p) && (nodeU.wrCheck w.2.1 w.2.2.length).isNone)) = true := by
    decide +kernel
  obtain ⟨_, _, _, _, e'⟩ := State.unitWrites_plain (.ring 1 0) writesU nodeU rfl rfl (fun w hw => by
    have := List.all_eq_true.1 h w hw
    simpa [List.all_eq_true] using this)
  exact ⟨_, e ▸ e'⟩
/-- A WSPLIT waits for version 1, and one of version 0 goes. -/
def rawSplit (v : Nat) : BitVec 512 := rawOf 0x104 2 1 0 (5 + 64 + 128 + v <<< 8) 0x100040000 0 0
theorem wit_Split : (nodeW (rawSplit 0)).EngReady (.ring 1 0) (descOf 1 1 (rawSplit 0)) 0x104
    ∧ (nodeW (rawSplit 0)).moveFault (descOf 1 1 (rawSplit 0)) ((nodeW (rawSplit 0)).region 5) true = none := by
  unfold State.EngReady State.Startable; decide +kernel
def rawJoin : BitVec 512 := rawOf 0x105 2 1 0 (5 + 128) 0x100040000 0 0
theorem wit_Join : (nodeW rawJoin).EngReady (.ring 1 0) (descOf 1 1 rawJoin) 0x105
    ∧ (nodeW rawJoin).moveFault (descOf 1 1 rawJoin) ((nodeW rawJoin).region 5) false = none
    ∧ ((blockTile (wregionOf rawW) (tilesOf rawJoin) 0 0).getD 0) = 0 ∧ regionAt (wregionOf rawW) 0x100040000 4 5 = 0x100040014 := by
  unfold State.EngReady State.Startable; decide +kernel
theorem wit_WaitTimesOut : (nodeW (rawSplit 1)).Startable (.ring 1 0) (descOf 1 1 (rawSplit 1))
    ∧ (nodeW (rawSplit 1)).score (descOf 1 1 (rawSplit 1)) = .wait := by
  unfold State.Startable; decide
/-- An XCONV of one row of 8 elements from FP32 to EQ16, and an XSTAT of the same row. -/
def rawX (op : Nat) : BitVec 512 := rawOf op 4 1 0 0x100000000 0x100001000 (8 + 1 <<< 24) (1 + 2 <<< 3)
theorem wit_Xconv : (node1 (rawX 0x300)).EngReady (.ring 1 0) (descOf 1 1 (rawX 0x300)) 0x300 ∧ xBad (rawX 0x300) = false
    ∧ xPair (xSrc (rawX 0x300)) (xDst (rawX 0x300)) = true ∧ xLen (rawX 0x300) % blockLen (xDst (rawX 0x300)) = 0
    ∧ (node1 (rawX 0x300)).xFault false 0x100000000 32 32 1 (tilesOf (rawX 0x300)) = none
    ∧ (node1 (rawX 0x300)).xFault true 0x100001000 16 16 1 (tilesOf (rawX 0x300)) = none
    ∧ (((node1 (rawX 0x300)).running (.ring 1 0) 0).xRowsDone (rawX 0x300) 32 32).stopped = []
    ∧ (match ((node1 (rawX 0x300)).running (.ring 1 0) 0).unitWrites (.ring 1 0) ((node1 (rawX 0x300)).xRowsDone (rawX 0x300) 32 32).writes with
      | .ok _ => true
      | .error _ => false) = true := by
  unfold State.EngReady State.Startable; decide +kernel
theorem wit_Xstat : (node1 (rawX 0x301)).EngReady (.ring 1 0) (descOf 1 1 (rawX 0x301)) 0x301
    ∧ (node1 (rawX 0x301)).xFault true 0x100001000 32 32 1 (tilesOf (rawX 0x301)) = none
    ∧ (match ((node1 (rawX 0x301)).running (.ring 1 0) 0).write ((node1 (rawX 0x301)).writer (.ring 1 0) 0) 0x100001000 (List.replicate 32 0) with
      | .ok _ => true
      | .error _ => false) = true := by
  unfold State.EngReady State.Startable; decide +kernel

/-- Under NaN watch, a NaN master stops the stream of the UPDATE, and a NaN row that of the XCONV. -/
def nanMem : List Host.Cell := memWrite [] 0x100000000 [0xC0, 0x7F, 0xC0, 0x7F]
theorem wit_Stopped : (accU (({ (nodeW rawU).setFld fNANWATCH 1 with mem := nanMem } : State).running (.ring 1 0) 0)).stopped ≠ []
    ∧ ((({ (node1 (rawX 0x300)).setFld fNANWATCH 1 with mem := nanMem } : State).running (.ring 1 0) 0).xRowsDone (rawX 0x300) 32 32).stopped ≠ [] := by decide +kernel

/-! ## Witnesses: Spar cores -/

/-- Thread 0 of Spar core 0, at an instruction of class `c`. -/
def thc (c : Nat) : SThr := ⟨0, 0, BitVec.ofNat 32 (c <<< 27), false⟩
/-- A running SPAR_RUN with `n` threads left. -/
def runningS (n : Nat) : InDesc := { descOf 1 1 (rawOf 0x280 3 0 0 1 0 0 0) with st := .running, left := n }
/-- The booted node with one bound over all of node memory and a ready thread `x` of a SPAR_RUN. -/
def nodeS (x : SparThr) : State :=
  { node0 with regs := regs0 ++ [(0x40000, 1), (0x40001, 0x7FFFFFF000)], descs := [runningS 2], steps := [{ tag := 1 }], spar := [(0, x)] }
/-- A ready thread with integer registers `i`. -/
def thrI (i : SM (BitVec 64)) : SparThr := { run := some (.ring 1 0), i := i }

theorem wit_SparReady : (nodeS (thrI [(1, 5)])).mapsOk ∧ (∀ c ∈ [1, 2, 3, 4, 6, 8, 9, 12, 14, 15], (nodeS (thrI [(1, 5)])).SparReady (thc c) (.ring 1 0) [c])
    ∧ (nodeS (thrI [(1, 5)])).SparReady (thc 16) (.ring 1 0) vxv ∧ (nodeS (thrI [(1, 5)])).SparReady (thc 23) (.ring 1 0) vxv
    ∧ (nodeS (thrI [(1, 5)])).sparGoes (thc 8) (.ring 1 0) [] = true :=
  ⟨(wf_of _ (by decide) (by decide) rfl (by decide) (by decide) (by decide)).2, by unfold State.SparReady; decide⟩
/-- Both corners of a signed division: by zero, and the least number by −1. -/
theorem wit_Quotients : BitVec.ofNat 64 ((nodeS (thrI [(1, 5)])).ireg 0 2) = 0
    ∧ (BitVec.ofNat 64 ((nodeS (thrI [(1, 2 ^ 63), (2, -1)])).ireg 0 1)).toInt = -2 ^ 63
    ∧ (BitVec.ofNat 64 ((nodeS (thrI [(1, 2 ^ 63), (2, -1)])).ireg 0 2)).toInt = -1 := by decide
/-- intSpec states a result for a shift by 63 and none for a shift by 64. -/
theorem wit_IntSpec : intSpec .sll (1 : BitVec 64) 63 = some (2 ^ 63) ∧ intSpec .sll (1 : BitVec 64) 64 = none ∧ intSpec .sra (-1 : BitVec 64) 63 = some (-1) := by decide
theorem wit_RemoteAccessReturn : ((nodeS { thrI [] with wait := .access }).sth (sthKey (thc 0))).wait = .access := by decide
/-- An equal pair of registers takes the branch that asks for it; an unequal one does not. -/
theorem wit_Branch : (BrOp.eq, true) ∈ [(BrOp.eq, (5 : BitVec 64) == 5), (.ne, (5 : BitVec 64) != 5)] ∧ (BrOp.eq, false) ∈ [(BrOp.eq, (5 : BitVec 64) == 6)]
    ∧ (CReg.fpc, 3) ∈ [(CReg.vspan, 512), (CReg.fpc, (3 : BitVec 64).toNat)] := by decide
theorem wit_Branch_reg : (BitVec.ofNat 64 ((nodeS (thrI [(1, 8)])).ireg 0 1)).toNat % 4 = 0 ∧ (nodeS (thrI [(1, 6)])).ireg 0 1 % 4 ≠ 0 := by decide
/-- A signed load of eight bytes at 4 GiB + 8, the same place in SPACE 1, and a scratchpad; and stores there. -/
def lsOp (store fp hit : Bool) : LsOp := ⟨store, 3, true, 2, 1, 8, fp, hit⟩
def nodeLs (a : BitVec 64) : State := nodeS (thrI [(1, a)])
theorem wit_ScalarMemory_node (a : BitVec 64) (sp : Nat) (h : (a, sp) ∈ [(0x100000000, 0), (0x1000100000000, 1), (0x2000000001000, 2)]) :
    (∀ st fp : Bool, ((lsOp st fp true).fp = true → 2 ≤ (lsOp st fp true).width.val) ∧ (nodeLs a).sparGoes (thc 8) (.ring 1 0) [] = true
      ∧ (nodeLs a).sparAddr (lsOp st fp true).store (BitVec.ofNat 64 ((nodeLs a).ireg 0 1) + (8 : BitVec 14).signExtend 64).toNat 8 = none)
    ∧ getBits (BitVec.ofNat 64 ((nodeLs a).ireg 0 1) + (8 : BitVec 14).signExtend 64).toNat 48 16 = sp
    ∧ ((nodeLs a).sparSeen (thc 8) (.ring 1 0) []).ckpt = none ∧ SM.Sorted ((nodeLs a).sparSeen (thc 8) (.ring 1 0) []).cline
    ∧ (((nodeLs a).sparSeen (thc 8) (.ring 1 0) []).sparWrite ((nodeLs a).sparWriter 0 (.ring 1 0)) 0 (a + 8).toNat (leBytes 8 7)).toOption.isSome = true := by
  simp only [List.mem_cons, Prod.mk.injEq, List.not_mem_nil, or_false] at h
  rcases h with ⟨rfl, rfl⟩ | ⟨rfl, rfl⟩ | ⟨rfl, rfl⟩ <;> decide +kernel
/-- A thread of step 2 whose store must wait for an image slot, since step 1 holds them all. -/
def nodeWait : State :=
  { setFlds (nodeLs 0x100000000) [(fCOWMASK, 0xFFFF)] with descs := [{ runningS 2 with step := 2 }], steps := [{ tag := 1 }, { tag := 2 }] }
theorem wit_ScalarMemory_wait : (match (nodeWait.sparSeen (thc 8) (.ring 1 0) []).sparWrite (nodeWait.sparWriter 0 (.ring 1 0)) 0 0x100000008 (leBytes 8 7) with
      | .error e => decide (e = .wait)
      | .ok _ => false) = true
    ∧ nodeWait.sparGoes (thc 8) (.ring 1 0) [] = true ∧ nodeWait.sparAddr true 0x100000008 8 = none := by decide +kernel
/-- A dirty line that thread 0 wrote. -/
def nodeL : State := { nodeS (thrI [(1, 0x100000000)]) with cline := [(0x2000000, ⟨[(3, 7)], [0]⟩)] }
theorem wit_Lines : nodeL.cline = [(0x2000000, ⟨[(3, 7)], [0]⟩)] ∧ nodeL.SparReady (thc 14) (.ring 1 0) [14] ∧ (BitVec.ofNat 64 (nodeL.ireg 0 1)).toNat / 128 = 0x2000000
    ∧ nodeL.sparAddr true (0x2000000 * 128) 128 = none ∧ (BitVec.ofNat 64 (nodeL.ireg 0 1)).toNat < 2 ^ 48 := by
  unfold State.SparReady; decide
/-- Atomics on the three spaces; a compare-and-swap finds the value it asks for, or does not. -/
theorem wit_NodeAtomics (a : BitVec 64) (sp : Nat) (h : (a, sp) ∈ [(0x100000000, 0), (0x1000100000000, 1), (0x2000000001000, 2)]) :
    (nodeLs a).sparAddr true ((nodeLs a).ireg 0 1) 8 = none ∧ (nodeLs a).sparAddr true ((nodeLs a).ireg 0 1) 4 = none
    ∧ getBits ((nodeLs a).ireg 0 1) 48 16 = sp ∧ (nodeLs a).SparReady (thc 9) (.ring 1 0) [9] ∧ (nodeLs a).sparGoes (thc 9) (.ring 1 0) [] = true
    ∧ ((nodeLs a).sparWrite { (nodeLs a).sparWriter 0 (.ring 1 0) with kind := 1 } 0 a.toNat (leBytes 4 5)).toOption.isSome = true
    ∧ (AtOp.cas, (5 : BitVec 32)) ∈ [(AtOp.xchg, 4), (AtOp.cas, if (3 : BitVec 32) = 3 then 5 else 3)] := by
  simp only [List.mem_cons, Prod.mk.injEq, List.not_mem_nil, or_false] at h
  rcases h with ⟨rfl, rfl⟩ | ⟨rfl, rfl⟩ | ⟨rfl, rfl⟩ <;> (unfold State.SparReady; decide +kernel)
/-- A sum and a NaN of both widths, the pairs of a conversion, and a comparison of a value with itself. -/
theorem wit_ScalarFloatingPoint : fpSpec .fp64 .rne .add (.inf true) (.inf false) (.inf true) = some ⟨.nan false, 1⟩ ∧ cvtFmt 1 = some .fp32 ∧ cvtFmt 2 = some .eq16 ∧ cvtOk .fp32 .eq16 = true
    ∧ (FpOp.ceq, true) ∈ [(FpOp.ceq, Fp.cmp (.inf true) (.inf true) == some 0)]
    ∧ (fpSpec .fp32 .rne .sub (.inf true) (.inf false) (.inf true)).isSome = true := by decide
/-- A thread with a fault handler. -/
def thrH (i : SM (BitVec 64)) : SparThr := { thrI i with fvec := 0x100000400 }
theorem wit_SparFaults : ((nodeS (thrH [(1, 0x100000001), (2, 6)])).sth 0).fvec ≠ 0 ∧ ((nodeS (thrH [(1, 0x100000001), (2, 6)])).sth 0).inh = false
    ∧ (nodeS (thrH [(1, 0x100000001), (2, 6)])).sparAddr false (wrapInt 64 ((nodeS (thrH [(1, 0x100000001), (2, 6)])).ireg 0 1 + (0 : BitVec 14).toInt)) 4 = some 0x0703
    ∧ (nodeS (thrH [(1, 0x100000001), (2, 6)])).sparAddr true ((nodeS (thrH [(1, 0x100000001), (2, 6)])).ireg 0 1) 8 = some 0x0703
    ∧ (nodeS (thrH [(1, 0x100000001), (2, 6)])).ireg 0 2 % 4 ≠ 0
    ∧ (∀ c ∈ [1, 2, 4, 6, 8, 9, 12, 15], (nodeS (thrH [(1, 0x100000001), (2, 6)])).SparReady (thc c) (.ring 1 0) [c])
    ∧ (nodeS (thrH [(1, 0x100000001), (2, 6)])).SparReady (thc 16) (.ring 1 0) vxv := by
  unfold State.SparReady; decide
/-- A core at Reef 4, the all-zero word and a reserved class, and a reserved encoding of a class. -/
theorem wit_SparIllegal : (setFlds (nodeS (thrH [])) [(fCAP, 4)]).capStop = true ∧ (nodeS (thrH [])).capStop = false
    ∧ ((setFlds (nodeS (thrH [])) [(fCAP, 4)]).sth 0).run = some (.ring 1 0) ∧ ((nodeS (thrH [])).sth 0).run = some (.ring 1 0)
    ∧ ((nodeS (thrH [])).sth 0).halted = false ∧ ((nodeS (thrH [])).sth 0).wait = .none_
    ∧ getBits (thc 0).word.toNat 27 5 ∉ [1, 2, 3, 4, 6, 8, 9, 10, 12, 14, 15] ++ vxv
    ∧ getBits (thc 31).word.toNat 27 5 ∉ [1, 2, 3, 4, 6, 8, 9, 10, 12, 14, 15] ++ vxv
    ∧ getBits ({ thc 14 with reserved := true } : SThr).word.toNat 27 5 ∈ [14] ∧ ({ thc 14 with reserved := true } : SThr).reserved = true
    ∧ wideShape .i8 false = some (0, 1, 2) ∧ (0 : Nat) ≠ (3 : Fin 4).val ∧ (WideOp.i8 ≠ .f32) ∧ wideShape .i8 true = some (0, 1, 4) := by decide
/-- Each clause of the address rules: misaligned, a bad space, beyond every bound, and the first byte beyond a scratchpad. -/
theorem wit_SparAddresses : 4 ∈ [1, 2, 4, 8] ∧ 6 % 4 ≠ 0 ∧ (3 <<< 48) % 4 = 0 ∧ 2 < (3 <<< 48) / 2 ^ 48
    ∧ node0.flag (fBoundEn 0) = false ∧ node0.flag (fBoundEn 7) = false ∧ (2 <<< 48 + 0x1800000) / 2 ^ 48 = 2
    ∧ 0x1800000 < (2 <<< 48 + 0x1800000) % 2 ^ 25 + 4 := by decide
theorem wit_ThreadsEnd : (nodeS (thrI [])).desc? (.ring 1 0) = some (runningS 2) ∧ 2 ≤ (runningS 2).left ∧ (runningS 2).status = 0
    ∧ (runningS 2).st = .running ∧ (runningS 2).step ≠ 0 ∧ dOp (runningS 2).raw = 0x280 ∧ (nodeS (thrI [])).coll.hands = [] ∧ (nodeS (thrI [])).remote.ops = [] ∧ (nodeS (thrI [])).remote.dead = []
    ∧ (nodeS (thrI [])).handles = [] ∧ (nodeS (thrI [])).cline = [] := by decide
theorem wit_ThreadsEnd_last : ({ nodeS (thrI []) with descs := [runningS 1] } : State).desc? (.ring 1 0) = some (runningS 1) ∧ (runningS 1).left = 1
    ∧ ((nodeS (thrI [])).sth 0).fvec = 0 ∧ (∀ k, k ≠ sthKey (thc 1) → ((nodeS (thrI [])).sth k).run ≠ some (.ring 1 0)) := by
  refine ⟨by decide, by decide, by decide, fun k hk => ?_⟩
  have h0 : sthKey (thc 1) = 0 := by decide
  have e : (nodeS (thrI [])).sth k = {} := by
    have h : ¬ 0 = k := by omega
    simp only [State.sth, nodeS, SM.getD, h, if_false, ite_self]
  rw [e]; simp
/-- A SPAR_RUN of 8 threads on each of cores 0 and 47. -/
def rawSR : BitVec 512 := rawOf 0x280 3 0 0x100000000 (1 + 1 <<< 47 + 7 <<< 48) 11 12 13
def nodeSR : State := { node1 rawSR with regs := regs0 ++ [(0x40000, 1), (0x40001, 0x7FFFFFF000)] }
theorem wit_SparRunStarts : nodeSR.Startable (.ring 1 0) (descOf 1 1 rawSR) ∧ dOp rawSR = 0x280
    ∧ setBits 48 (getBits (dArg rawSR 0) 0 48) = [0, 47] ∧ getBits (dArg rawSR 0) 48 3 + 1 = 8 ∧ nodeSR.coreOn 0 = true ∧ nodeSR.coreOn 47 = true
    ∧ dMask rawSR = 0 ∧ dArg rawSR 0 < 2 ^ 51 ∧ dProg rawSR % 4 = 0 ∧ dProg rawSR < 2 ^ 48 ∧ nodeSR.sparAddr false (dProg rawSR) 4 = none
    ∧ nodeSR.stopped = [] ∧ 8 ≤ (nodeSR.freeCtx 0).length ∧ 8 ≤ (nodeSR.freeCtx 47).length := by
  unfold State.Startable; decide +kernel
/-- Core 47 has no free context for so many threads; core 3 is absent from the class. -/
theorem wit_SparRunStarts_not : (({ nodeSR with spar := [(sparKey 47 2, thrI [])] } : State).freeCtx 47).length < getBits (dArg rawSR 0) 48 3 + 1
    ∧ ({ nodeSR with spar := [(sparKey 47 2, thrI [])] } : State).coreOn 47 = true
    ∧ (setFlds nodeSR [(⟨0x30078, 0, 64⟩, 0x7FFFF)]).Startable (.ring 1 0) (descOf 1 1 rawSR)
    ∧ (setFlds nodeSR [(⟨0x30078, 0, 64⟩, 0x7FFFF)]).coreOn 47 = false
    ∧ (∀ k ∈ setBits 48 (getBits (dArg rawSR 0) 0 48), ∀ j, j < 8 → nodeSR.isStopped (0x40 + k) 3 j = false) := by
  unfold State.Startable; decide +kernel
/-- A thread with a child's descriptor, an XSTAT, at its address. -/
def nodeD : State := { nodeS (thrI [(1, 0x100000000)]) with mem := memWrite [] 0x100000000 (leBytes 64 (rawX 0x301).toNat) }
def rawD : BitVec 512 := BitVec.ofNat 512 (leNat ((List.range 64).map (fun i => nodeD.cByte (nodeD.ireg 0 1 + i))))
theorem wit_Dpost : nodeD.cline = [] ∧ nodeD.ireg 0 1 < 2 ^ 48 ∧ nodeD.sparAddr false (nodeD.ireg 0 1) 64 = none
    ∧ nodeD.desc? (.ring 1 0) = some (runningS 2) ∧ childOk rawD = true ∧ (dFence rawD 0).testBit 22 = false ∧ (dFence rawD 1).testBit 22 = false
    ∧ (tilesOf rawD).all nodeD.tileOn = true ∧ nodeD.handles.length < 1024
    ∧ (List.range 64).find? (fun i => !nodeD.handles.any (fun h => h.owner = 0 && h.idx = i)) = some 0 := by decide +kernel
/-- A thread with a pending child 0 and a finished child 1. -/
def nodeH : State := { nodeS (thrI [(1, 0), (2, 1), (3, 2)]) with handles := [⟨0, 0, 0, .ring 1 0, none⟩, ⟨1, 1, 0, .ring 1 0, some (0, 5)⟩] }
theorem wit_Dwait : nodeH.handles.find? (fun h => h.owner = 0 && h.idx = nodeH.ireg 0 1) = some ⟨0, 0, 0, .ring 1 0, none⟩
    ∧ nodeH.handles.find? (fun h => h.owner = 0 && h.idx = nodeH.ireg 0 2) = some ⟨1, 1, 0, .ring 1 0, some (0, 5)⟩
    ∧ (∀ h ∈ nodeH.handles, h.owner = 0 → h.idx ≠ nodeH.ireg 0 3) := by decide
/-- With 3 bytes of span, the last half-word is active and the next is not. -/
theorem wit_VectorArithmetic : (nodeS { thrI [] with vspan := 3 }).laneOn (thc 16) 2 0 1 ∧ ¬ (nodeS { thrI [] with vspan := 3 }).laneOn (thc 16) 2 0 2
    ∧ (nodeS { thrI [] with vspan := 3 }).flag fNANWATCH = false := by
  unfold State.laneOn; decide
theorem wit_VectorSums : (nodeS { thrI [] with vspan := 16 }).lanes 0 8 0 = [0, 1] ∧ (nodeS { thrI [] with vspan := 16 }).lanes 0 8 8 = [] := by decide
/-- A contiguous access of two words at 4 GiB; the second faults when it begins above the only bound. -/
def nodeV : State := nodeS { thrH [(1, 0x100000000)] with vspan := 8 }
def nodeVF : State := { nodeS { thrH [(1, 0x100000FFC)] with vspan := 8 } with regs := regs0 ++ [(0x40000, 1), (0x40001, 0x100000000)] }
theorem wit_VectorMemory : nodeV.lanes 0 4 0 = [0, 1]
    ∧ (∀ i ∈ nodeV.lanes 0 4 0, nodeV.sparAddr false (nodeV.vaddr 0 .unit 0 4 (nodeV.ireg 0 1) i) 4 = none
      ∧ nodeV.vaddr 0 .unit 0 4 (nodeV.ireg 0 1) i < 2 ^ 48)
    ∧ 1 ∈ nodeVF.lanes 0 4 0 ∧ nodeVF.sparAddr false (nodeVF.vaddr 0 .unit 0 4 (nodeVF.ireg 0 1) 1) 4 = some 0x0704
    ∧ nodeVF.sparAddr false (nodeVF.vaddr 0 .unit 0 4 (nodeVF.ireg 0 1) 0) 4 = none := by decide +kernel
theorem wit_VectorMemory_spad : ∀ i ∈ (nodeS { thrI [(1, 0x2000000000000)] with vspan := 8 }).lanes 0 4 0,
    (nodeS { thrI [(1, 0x2000000000000)] with vspan := 8 }).sparAddr true
      ((nodeS { thrI [(1, 0x2000000000000)] with vspan := 8 }).vaddr 0 .unit 0 4 ((nodeS { thrI [(1, 0x2000000000000)] with vspan := 8 }).ireg 0 1) i) 4 = none
    ∧ getBits ((nodeS { thrI [(1, 0x2000000000000)] with vspan := 8 }).vaddr 0 .unit 0 4 ((nodeS { thrI [(1, 0x2000000000000)] with vspan := 8 }).ireg 0 1) i) 48 16 = 2 := by
  decide

/-! ## Witnesses: sparse factor engines -/

/-- A pattern of two block rows with both off-diagonal blocks. -/
theorem wit_FilledPattern : patternOk 2 [0, 2, 4] [0, 1, 0, 1] = true := by decide

/-- The node with the pattern of one block of size 2 at 4 GiB, and a workspace for engine 0. -/
def nodeFa (raw : BitVec 512) (eng : SM SolCtx) : State :=
  { node1 raw with
    regs := regs0 ++ [(0x14000, 0x200000000), (0x14001, 0x20000)],
    mem := memWrite [] 0x100000004 [1#8], live := { RegState.reset with sol := eng } }
def rawStruct (a2 : Nat) : BitVec 512 := rawOf 0x200 3 0 0x180000000 0x100000000 0x100001000 a2 0
/-- A fresh structure; its digest check against a record of zeros fails. -/
theorem wit_SfStruct : (nodeFa (rawStruct (1 + 1 <<< 24)) []).SolverStarts (.ring 1 0) (descOf 1 1 (rawStruct (1 + 1 <<< 24))) 0x200 0
    ∧ (nodeFa (rawStruct (1 + 1 <<< 24)) []).structFault (rawStruct (1 + 1 <<< 24)) = none
    ∧ (SM.getD emptySol (nodeFa (rawStruct (1 + 1 <<< 24)) []).live.sol 0).resident = false
    ∧ ((nodeFa (rawStruct (1 + 1 <<< 24)) []).hwEvs ((nodeFa (rawStruct (1 + 1 <<< 24)) []).writer (.ring 1 0) 0).tag []).2 = true
    ∧ (dArg (rawStruct (1 + 1 <<< 24)) 2).testBit 28 = false ∧ (dArg (rawStruct (1 + 1 <<< 24 + 1 <<< 28)) 2).testBit 28 = true
    ∧ leNat ((nodeFa (rawStruct (1 + 1 <<< 24 + 1 <<< 28)) []).rdBytes (dProg (rawStruct (1 + 1 <<< 24 + 1 <<< 28)) + 56) 8)
      ≠ (patternDigest 1 2 [0, 1] [0]).toNat
    ∧ (nodeFa (rawStruct (1 + 1 <<< 24)) []).rdWords 0x100000000 2 = [0, 1] ∧ (nodeFa (rawStruct (1 + 1 <<< 24)) []).rdWords 0x100001000 1 = [0]
    ∧ (nodeFa (rawStruct (1 + 1 <<< 24)) []).RecGoes (.ring 1 0) 0
    ∧ (match (nodeFa (rawStruct (1 + 1 <<< 24)) []).wsWritten (.ring 1 0) 0 (freshSol 1 1 [0, 1] [0] (patternDigest 1 2 [0, 1] [0])) with
      | .ok v => (v.writeRec (.ring 1 0) 0 {}).isSome
      | .error _ => false) = true := by
  unfold State.SolverStarts State.Startable State.RecGoes State.RecApart; decide +kernel
def ctx1 : SolCtx := { emptySol with resident := true, nb := 1, bsc := 1, rowptr := [0, 1], colidx := [0], fill := [(0, 0)] }
/-- The engine holds the same pattern; one it does not match, with and without REBUILD; and, with two block rows, one it contains. -/
theorem wit_SfStruct_same : ctx1.resident = true ∧ ctx1.nb = 1 ∧ ctx1.bsc = 1 ∧ ctx1.rowptr = [0, 1] ∧ ctx1.colidx = [0] := by decide
theorem wit_SfStruct_mismatch : (nodeFa (rawStruct (1 + 1 <<< 24)) [(0, { ctx1 with nb := 2 })]).structFault (rawStruct (1 + 1 <<< 24)) = none
    ∧ ({ ctx1 with nb := 2 } : SolCtx).resident = true ∧ (2 : Nat) ≠ getBits (dArg (rawStruct (1 + 1 <<< 24)) 2) 0 24
    ∧ (dArg (rawStruct (1 + 1 <<< 24)) 2).testBit 27 = false ∧ (dArg (rawStruct (1 + 1 <<< 24 + 1 <<< 27)) 2).testBit 27 = true := by decide +kernel
theorem wit_SfStruct_sub : ¬ (([0, 2, 4] : List Nat) = [0, 1, 2] ∧ ([0, 1, 0, 1] : List Nat) = [0, 1])
    ∧ (∀ i < 2, ∀ j ∈ rowCols [0, 1, 2] [0, 1] i, inPat [0, 2, 4] [0, 1, 0, 1] i j = true) := by decide
def rawFree : BitVec 512 := rawOf 0x203 3 0 0x180000000 0 0 0 0
theorem wit_SfFree : (nodeFa rawFree [(0, ctx1)]).SolverStarts (.ring 1 0) (descOf 1 1 rawFree) 0x203 0 ∧ (nodeFa rawFree [(0, ctx1)]).freeFault rawFree = none
    ∧ (nodeFa rawFree [(0, ctx1)]).RecGoes (.ring 1 0) 0 ∧ (nodeFa rawFree []).freeFault rawFree = some 0x0807 := by
  unfold State.SolverStarts State.Startable State.RecGoes State.RecApart; decide +kernel
def rawRefac : BitVec 512 := rawOf 0x201 3 0 0x180000000 0x100010000 0 0 0
def nodeRf : State := nodeFa rawRefac [(0, ctx1)]
theorem wit_SfRefactor : nodeRf.SolverStarts (.ring 1 0) (descOf 1 1 rawRefac) 0x201 0 ∧ nodeRf.refactorFault rawRefac = none
    ∧ (nodeFa rawRefac []).refactorFault rawRefac = some 0x0807 ∧ (nodeRf.onEngine (.ring 1 0) (descOf 1 1 rawRefac) 0).engGoes (.ring 1 0) [] = true := by
  unfold State.SolverStarts State.Startable State.RecApart; decide +kernel
/-- What the engine sees is its context; an empty feed applies, the workspace is written, and the record goes. -/
theorem wit_SfRefactor_run : (((nodeRf.onEngine (.ring 1 0) (descOf 1 1 rawRefac) 0).engSees (.ring 1 0) 0 []).1 = ctx1)
    ∧ (match applyFeed ctx1 (nodeRf.feed rawRefac 1) ctx1.vals with
      | .ok v => decide (v = [])
      | .error _ => false) = true
    ∧ (match (nodeRf.onEngine (.ring 1 0) (descOf 1 1 rawRefac) 0).wsWritten (.ring 1 0) 0 ctx1 with
      | .ok v => (v.writeRec (.ring 1 0) 0 {}).isSome
      | .error _ => false) = true := by decide +kernel
/-- A block that the pattern does not hold ends the feed. -/
theorem wit_SfRefactor_feed : (match applyFeed ctx1 [⟨0, 1, false, 0, []⟩] ctx1.vals with
      | .ok _ => 0
      | .error e => e.1) ≠ 0 ∧ (nodeRf.onEngine (.ring 1 0) (descOf 1 1 rawRefac) 0).RecGoes (.ring 1 0) 0 := by unfold State.RecGoes; decide +kernel
/-- An SF_REFACTOR and an SF_SOLVE that run. -/
def running2 (raw : BitVec 512) : InDesc := { descOf 1 1 raw with st := .running }
def nodeRun (raw : BitVec 512) (sol : SM SolCtx) : State := { nodeFa raw sol with descs := [running2 raw], eng := [(0, ⟨some (.ring 1 0), 0, 0⟩)] }
theorem wit_SolverRuns : (nodeRun rawRefac [(0, ctx1)]).SolverRuns (.ring 1 0) (running2 rawRefac) 0x201 0 := by
  unfold State.SolverRuns State.RecApart; decide
def rawSolve : BitVec 512 := rawOf 0x202 3 0 0x180000000 0x100010000 0x100020000 0x100030000 0
def nodeSv : State := nodeFa rawSolve [(0, { ctx1 with fvalid := true })]
theorem wit_SfSolve : nodeSv.SolverStarts (.ring 1 0) (descOf 1 1 rawSolve) 0x202 0 ∧ nodeSv.solveFault rawSolve = none
    ∧ nodeSv.flag fNANWATCH = false ∧ (nodeSv.setFld fNANWATCH 1).flag fNANWATCH = true ∧ SolN (SM.getD emptySol nodeSv.live.sol 0) = 2
    ∧ (nodeSv.onEngine (.ring 1 0) (descOf 1 1 rawSolve) 0).engGoes (.ring 1 0) [] = true
    ∧ (nodeRun rawSolve [(0, { ctx1 with fvalid := true })]).solveFault rawSolve = none := by
  unfold State.SolverStarts State.Startable State.RecApart; decide +kernel
theorem wit_SfSolve_mem : nodeSv.memOk := (wf_of _ (by decide +kernel) (by decide) rfl (by decide) (by decide) (by decide)).1
/-- The writes of X and SCRATCH land, and the record goes. -/
theorem wit_SfSolve_writes : (match nodeSv.writes (nodeSv.writer (.ring 1 0) 0x80) [(0x100020000, leBytes 16 0)] with
    | .ok s1 => (match s1.openWrite (nodeSv.writer (.ring 1 0) 0x80) 0x100030000 64 with
      | .ok s2 => (s2.writeRec (.ring 1 0) 0 {}).isSome
      | .error _ => false)
    | .error _ => false) = true := by decide +kernel
/-- Engine 3 runs a descriptor at its deadline; the miss of one whose record has its place, and of one that must wait for an image. -/
def nodeDl (raw : BitVec 512) : State :=
  { node1 raw with descs := [{ running2 raw with step := 2 }], steps := [{ tag := 1 }, { tag := 2 }], eng := [(3, ⟨some (.ring 1 0), 0, 5⟩)], regs := regs0 ++ [(0x10001, 5)] }
theorem wit_DeadlineMiss : ((nodeDl rawRefac).engRec 3).run = some (.ring 1 0) ∧ (nodeDl rawRefac).desc? (.ring 1 0) = some { running2 rawRefac with step := 2 }
    ∧ ((nodeDl rawRefac).engRec 3).deadline ≠ 0 ∧ SM.Sorted (nodeDl rawRefac).live.sol ∧ SM.Sorted (nodeDl rawRefac).eng
    ∧ ((nodeDl rawRefac).engRec 3).start.toNat + ((nodeDl rawRefac).engRec 3).deadline ≤ (nodeDl rawRefac).fld fBEATCNT
    ∧ ((nodeDl rawRefac).missed 3 (.ring 1 0) rawRefac).isSome = true := by decide +kernel
theorem wit_DeadlineMiss_waits : ((setFlds (nodeDl rawRefac) [(fCOWMASK, 0xFFFF)]).missed 3 (.ring 1 0) rawRefac).isSome = false := by decide +kernel

/-! ## Witnesses: node memory, unit health and links -/

/-- The corners of the address map. -/
theorem wit_AddressMap : (31 : Nat) < 32 ∧ (2 ^ 34 - 1 : Nat) < 2 ^ 34 ∧ (2 ^ 39 - 1 : Nat) < 2 ^ 39 := by decide
/-- A word of zeros, its neighbour by one wrong symbol, and one with two. -/
theorem wit_OneSymbol : syndromes (List.replicate 36 0) = [0, 0, 0, 0] ∧ rsDecode (List.replicate 36 0) = .clean
    ∧ rsDecode ((List.replicate 36 0).modify 35 (· ^^^ 0x5A)) = .fix 35 0x5A
    ∧ rsDecode (((List.replicate 36 0).modify 3 (· ^^^ 1)).modify 17 (· ^^^ 2)) = .lost := by decide
/-- Bursts that the decoder passes, corrects and gives up; one whose parity fails on every attempt, and one that passes on the second. -/
theorem wit_PatrolScrub : node0.pw.booting = false ∧ node0.fld fPWRSTATE = 0 ∧ 2 ^ 29 - 1 < 2 ^ 29
    ∧ handedOn [⟨0, 0⟩] = some ⟨0, 0⟩ ∧ burstOk ⟨0, 0⟩ = true ∧ rsDecode (burstWord ⟨0, 0⟩) = .clean
    ∧ handedOn [⟨3, 0⟩] = some ⟨3, 0⟩ ∧ rsDecode (burstWord ⟨3, 0⟩) = .fix 0 3
    ∧ handedOn [⟨0x21, 0⟩] = some ⟨0x21, 0⟩ ∧ rsDecode (burstWord ⟨0x21, 0⟩) = .lost
    ∧ handedOn [⟨1, 0⟩, ⟨1, 0⟩, ⟨1, 0⟩, ⟨1, 0⟩] = some ⟨1, 0⟩ ∧ parityFails [⟨1, 0⟩, ⟨1, 0⟩, ⟨1, 0⟩, ⟨1, 0⟩] = 4
    ∧ handedOn [⟨1, 0⟩, ⟨0, 0⟩] = some ⟨0, 0⟩ ∧ parityFails [⟨1, 0⟩, ⟨0, 0⟩] = 1 := by decide
theorem wit_D2dParityRetry : (23 : Fin 26).val < 24 ∧ (527 : Fin 1056).val < 528 := by decide
theorem wit_ThermalSensorRead : SM.Sorted node0.pw.levels ∧ node0.pw.levels = [] ∧ (∀ j ∈ (⟨[[95], [88, 89]], [99], 0, 0, 0⟩ : Temps).tileJ, j < 100) := by decide
/-- A unit with one event at the present lifetime step. -/
def ent0 : LedEnt := ⟨5, 1, 1, false, false, 1, 0, 0, 0, 0, 0, [(0, 0)]⟩
theorem wit_SecondEvent : ({ node0 with part := { Part.factory with ledger := [ent0] } } : State).part.ledger.find? (fun x => x.unit = ent0.unit) = some ent0
    ∧ (node0.word 0x90008).toNat ≤ (0 : BitVec 64).toNat + 1000000 ∧ node0.stepOpen = false ∧ node0.part.mramMap.length < 1024 ∧ ent0.mapped = false := by decide
/-- A margin test of profile 3 under way; units that failed, of which one failed again. -/
def nodeM : State := { node0 with regs := regs0 ++ [(0x12008, 0x403)] }
theorem wit_MarginTestDone : nodeM.flag fMRUN = true ∧ (3 : BitVec 8).toNat = nodeM.fld fMPROF := by decide
theorem wit_MarginTestDone_again : ∀ u ∈ ([5] : List UnitId), u ∈ ([5, 6] : List UnitId) := by simp
theorem wit_MarginTestDone_maps : nodeM.mapsOk := (wf_of _ (by decide) (by decide) rfl (by decide) (by decide) (by decide)).2
/-- A group of two members compares its digests of step 1, and holds the records `l`. -/
def nodeG (l : List DigRec) : State :=
  { node0 with comm := { RegState.reset with groups := [(0, { applyTr.emptyGroup with members := [0, 1] })] }, rec_ := { digGroups := [(0, 1)], digRecs := l } }
def recD (i : Nat) : DigRec := ⟨i, 0, 1, 1, [(0, 0, 9)]⟩
theorem wit_DigestRecord : (nodeG [recD 1]).rec_.digRecs.any (fun x => x.idx = (recD 1).idx ∧ x.group = (recD 1).group ∧ x.tag = (recD 1).tag) = true
    ∧ ((7, 0) : Nat × BitVec 64) ∉ (nodeG []).rec_.digGroups ∧ (0 : BitVec 64).toNat ≤ (nodeG []).comm.lastTag.toNat
    ∧ (nodeG []).rec_.digRecs.any (fun x => x.idx = (recD 1).idx ∧ x.group = (recD 1).group ∧ x.tag = (recD 1).tag) = false
    ∧ (((recD 1).group, (recD 1).tag) : Nat × BitVec 64) ∈ (nodeG []).rec_.digGroups
    ∧ (∀ k ∈ (nodeG []).rec_.digGroups, (((nodeG []).rec_.digRecs ++ [recD 1]).filter (fun x => (x.group, x.tag) = k)).length
      < (SM.getD applyTr.emptyGroup (nodeG []).comm.groups k.1).members.length) := by decide
theorem wit_DigestRecord_last : (SM.getD applyTr.emptyGroup (nodeG []).comm.groups 0).members.length
      ≤ (((nodeG [recD 1]).rec_.digRecs ++ [recD 0]).filter (fun x => (x.group, x.tag) = ((0, 1) : Nat × BitVec 64))).length
    ∧ (nodeG [recD 1]).rec_.digGroups = [(0, 1)] ∧ (nodeG [recD 1]).ckpt = none ∧ (∀ x ∈ [recD 1, recD 0], x.mask = (recD 0).mask ∧ x.vals = (recD 0).vals)
    ∧ (∀ w ∈ setBits 64 (recD 0).mask.toNat, ((recD 0).vals.find? (fun v => v.1 = w)).isSome = true) := by decide
theorem wit_DigestRecord_maps : (nodeG [recD 1]).mapsOk := (wf_of _ (by decide) (by decide) rfl (by decide) (by decide) (by decide)).2

/-- A flit that passes its CRC. -/
def flit0 (seq ack kind : Nat) (body : List Sent) : Flit := Flit.sealed ⟨seq, ack, false, 0, 0, kind, 0, 0, body⟩
theorem flit0_ok (seq ack kind : Nat) (body : List Sent) : (flit0 seq ack kind body).crcOk = true := by
  simp [flit0, Flit.crcOk, Flit.sealed, Flit.crcOf, Flit.covered]
/-- Port 3 is up, keeps flits 4094 and 4095, the first of which it has replayed `n` times, and lost the codewords of the times `u`. -/
def nodeP (n : Nat) (u : List Nat) : State :=
  { node0 with ports := [(3, { st := .up, retry := [(flit0 4094 0 0 [], n), (flit0 4095 0 0 [], 0)], txSeq := 0, rxSeq := 7, uncor := u, coefs := [1] })] }
def bodyG : List Sent := [⟨⟨4, 0, 0xFFFF, 32, .fleet .go⟩, 0⟩]
theorem wit_FlitReceive : SM.Sorted (nodeP 0 []).ports ∧ ((nodeP 0 []).port 3).st = .up ∧ 15 < (List.replicate 16 (0 : Fin 544)).length
    ∧ ((List.replicate 15 (0 : Fin 544)).length ≤ 15)
    ∧ ¬ (16 < ((((nodeP 0 []).port 3).uncor.filter (fun u => decide (5000 < u + 1000000000))) ++ [5000]).length)
    ∧ 16 < ((((nodeP 0 (List.replicate 16 0)).port 3).uncor.filter (fun u => decide (5000 < u + 1000000000))) ++ [5000]).length
    ∧ (flit0 8 0 0 []).seq ≠ ((nodeP 0 []).port 3).rxSeq ∧ ((nodeP 0 []).port 3).retry.length < 512
    ∧ (flit0 7 4094 1 []).seq = ((nodeP 0 []).port 3).rxSeq ∧ (flit0 7 4094 1 []).nak = false
    ∧ firstIdx (fun g => g.1.seq == (flit0 7 4094 1 []).ack) ((nodeP 0 []).port 3).retry = some 0
    ∧ ((nodeP 0 []).port 3).due = [] ∧ ((nodeP 0 []).port 3).ackDue = false ∧ ((nodeP 0 []).port 3).nakDue = false
    ∧ (∀ k ∈ (flit0 7 4094 0 bodyG).body, k.job.toNat = (nodeP 0 []).fld fJOBSTAMP ∧ k.pkt.ports = 0xFFFF ∧ k.pkt.dst.toNat = (nodeP 0 []).fld fNODEID) := by decide
theorem wit_FlitReceive_full : 512 ≤ (({ node0 with ports := [(3, { st := .up, retry := List.replicate 512 (flit0 9 0 0 [], 0) })] } : State).port 3).retry.length := by
  simp [State.port, SM.getD]
theorem wit_FlitAckTimeout : ((nodeP 7 []).port 3).retry ≠ [] ∧ (∃ f ∈ ((nodeP 7 []).port 3).retry, 7 ≤ f.2) ∧ (∀ f ∈ ((nodeP 6 []).port 3).retry, f.2 < 7) := by
  refine ⟨by simp [nodeP, State.port, SM.getD], ?_, ?_⟩ <;> simp [nodeP, State.port, SM.getD]
/-- A request to the node itself waits; and packets for port 3, which is up or is not. -/
def pk (vc : Nat) (ports : BitVec 16) (len : Nat) : Packet := ⟨vc, 9, ports, len, .fleet .go⟩
def nodePk (l : List Packet) (x : Port) : State := { node0 with portQ := l, ports := [(3, x)] }
theorem wit_PacketSend_self : (nodePk [⟨0, 0, 0xFFFF, 64, .req ⟨0, 0, false, false, 0, 0, 0, 0, 0, 0, 0, 0, 1, 0, 0, [], 0, 0⟩⟩] {}).ownPacket 0
      = some ⟨0, 0, 0xFFFF, 64, .req ⟨0, 0, false, false, 0, 0, 0, 0, 0, 0, 0, 0, 1, 0, 0, [], 0, 0⟩⟩ := by decide
theorem wit_PacketSend : (nodePk [pk 0 8 32] { st := .up }).ownPacket 0 = none ∧ (nodePk [pk 0 8 32] { st := .up }).upFor (pk 0 8 32) = [3]
    ∧ ((nodePk [pk 0 8 32] { st := .up }).port 3).takes (pk 0 8 32) = true ∧ (nodePk [pk 0 8 32] { st := .up }).firstGo 0 [pk 0 8 32] [] = some (pk 0 8 32, 3)
    ∧ (nodePk [pk 0 8 32] { st := .up }).outranked 3 0 = false ∧ (nodePk [pk 0 8 32] { st := .up }).fld ⟨0x20010, 0, 12⟩ = 0
    ∧ (setFlds (nodePk [pk 0 8 32] { st := .up }) [(⟨0x20010, 0, 12⟩, 4)]).fld ⟨0x20010, 0, 12⟩ ≠ 0
    ∧ (nodePk [pk 7 8 32, pk 4 8 32] { st := .up }).outranked 3 7 = true ∧ (nodePk [pk 0 8 32] {}).firstGo 0 [pk 0 8 32] [] = none
    ∧ (nodePk [pk 0 8 32] {}).starved 0 = []
    ∧ (nodePk [pk 0 8 32] { st := .up, credits := [(0, 128), (1, 3328)] }).starved 0 = [3] ∧ 0 < (pk 0 8 32).len ∧ (pk 0 8 32).len ≤ 628 := by decide
/-- Lanes of one half and of both; ports that retrain fast, that train, that are down and stand by. -/
def nodeSt (x : Port) : State := { node0 with ports := [(3, x)] }
def op0 : ROp := ⟨⟨0, 0, false, false, 0, 9, 0, 0, 0x40, 0, 0, 0, 1, 0, 1, [], 0, 0⟩, .spar 0 0, .ring 1 0, false, none, 2, 0x9000000000040, false, true, false, 0, 0⟩
theorem wit_PortFaults : bothHalves (((nodeP 0 []).port 3).fail ||| 0x0F) = false ∧ bothHalves (((nodeP 0 []).port 3).fail ||| 0x11) = true
    ∧ ((nodeSt { st := .down, fast := some [1] }).port 3).st = .down ∧ ((nodeSt { st := .down, fast := some [1] }).port 3).fast.isSome = true
    ∧ (0 : BitVec 16).toNat = node0.fld fJOBSTAMP ∧ (1 : BitVec 16).toNat ≠ node0.fld fJOBSTAMP
    ∧ ({ node0 with remote := { ops := [{ op0 with suspended := true }] } } : State).remote.ops.any (fun o => o.req.dst = 9 && o.suspended) = true
    ∧ ((nodeSt { st := .training, gen := 2, eqFails := 2 }).port 3).st = .training ∧ ((nodeSt { st := .training, gen := 0, eqFails := 2 }).port 3).gen = 0
    ∧ (nodeSt { st := .training }).pw.d0Wait = false := by decide
def nodePT (x : Port) : State := { nodeI (rawS 0x20010 1 1) with ports := [(15, x)] }
theorem wit_PortTrainRequest : (nodePT { st := .down }).Startable (.ring 0 0) (descOf 0 0 (rawS 0x20010 1 1)) ∧ dOp (rawS 0x20010 1 1) = 2
    ∧ (nodePT { st := .down }).wakeSelf.portOn 15 = true ∧ ((nodePT { st := .down }).wakeSelf.port 15).st = .down
    ∧ ((nodePT { st := .up }).wakeSelf.port 15).st = .up ∧ (nodePT { st := .up }).wakeSelf.flag fJOBLOCK = false ∧ (nodePT { st := .up }).wakeSelf.stepOpen = false
    ∧ (setFlds (nodePT { st := .up }) [(fJOBLOCK, 1)]).wakeSelf.flag fJOBLOCK = true
    ∧ ((nodePT {}).wakeSelf.port 15).st = .disabled := by
  unfold State.Startable; decide

/-! ## Witnesses: remote memory -/

/-- The word of remote operation `rop` with register `d`, its address in `a` and its second operands in `b` and `b + 1`, on thread 0. -/
def thR (rop d a b : Nat) : SThr := ⟨0, 0, BitVec.ofNat 32 (d <<< 2 + a <<< 7 + b <<< 12 + rop <<< 17 + (if rop < 3 then 0 else 2) <<< 21 + 0x0A <<< 27), false⟩
def nodeRm : State := nodeS (thrH [(1, 0x9000000000040), (4, 0x9000000000080)])
/-- An RLD into i2, a store, a store with a flag and a compare-and-swap; and the same with the target marked dead. -/
theorem wit_RemoteIssue (n : Nat) (h : n ∈ [0, 1, 2, 3, 4, 5, 6, 7, 8, 9, 10]) : nodeRm.SparReady (thR n 2 1 4) (.ring 1 0) [10]
    ∧ getBits (thR n 2 1 4).word.toNat 17 4 = n ∧ (thR n 2 1 4).word.getLsbD 26 = false ∧ getBits (thR n 2 1 4).word.toNat 0 2 = 0
    ∧ (n ≠ 10 → nodeRm.callFault (nodeRm.sparCall 0 0 (thR n 2 1 4).word.toNat (.ring 1 0)) = none)
    ∧ nodeRm.raNode (nodeRm.sparCall 0 0 (thR n 2 1 4).word.toNat (.ring 1 0)).rem = some 9 ∧ nodeRm.flag (fDead 9) = false
    ∧ (setFlds nodeRm [(fDead 9, 1)]).flag (fDead 9) = true
    ∧ nodeRm.callFull (nodeRm.sparCall 0 0 (thR n 2 1 4).word.toNat (.ring 1 0)) 9 = false := by
  simp only [List.mem_cons, List.not_mem_nil, or_false] at h
  rcases h with rfl | rfl | rfl | rfl | rfl | rfl | rfl | rfl | rfl | rfl | rfl <;> (unfold State.SparReady; decide)
def thRf : SThr := ⟨0, 0, BitVec.ofNat 32 ((0x0A : Nat) <<< 27 + 10 <<< 17), false⟩
/-- With 64 operations of the thread in flight no entry is free; an RFENCE that has nothing to wait for, or an operation. -/
theorem wit_RemoteIssue_full : ({ nodeRm with remote := { ops := List.replicate 64 op0 } } : State).callFull (nodeRm.sparCall 0 0 (thR 0 2 1 0).word.toNat (.ring 1 0)) 9 = true
    ∧ nodeRm.SparReady thRf (.ring 1 0) [10] ∧ nodeRm.callFault (nodeRm.sparCall 0 0 thRf.word.toNat (.ring 1 0)) = none ∧ nodeRm.opsOf (.spar 0 0) = []
    ∧ nodeRm.remote.dead.find? (fun o => o.by_ = .spar 0 0 ∧ o.desc = .ring 1 0) = none
    ∧ ({ nodeRm with remote := { ops := [op0] } } : State).opsOf (.spar 0 0) ≠ [] := by
  unfold State.SparReady; decide
theorem wit_RemoteIssue_fault : (nodeS (thrH [(1, 0x9000000000041)])).callFault ((nodeS (thrH [(1, 0x9000000000041)])).sparCall 0 0 (thR 0 2 1 0).word.toNat (.ring 1 0)) = some 0x0B06
    ∧ ((nodeS (thrH [(1, 0x9000000000041)])).sth 0).fvec ≠ 0 ∧ ((nodeS (thrH [(1, 0x9000000000041)])).sth 0).inh = false := by decide
/-- A tile-core RLD into g2, an RFENCE, and an RLD of a misaligned address. -/
def wTile (rop a : Nat) : Nat := 0x60 + rop <<< 8 + a <<< 32 + 2 <<< 42
def nodeRt : State := nodeT [(1, 0x9000000000040), (3, 0x9000000000041)]
theorem wit_RemoteIssue_tile : nodeRt.CanIssue (issue (wTile 0 1)) (.ring 1 0) 0x60 ∧ getBits (issue (wTile 0 1)).word.toNat 8 4 = 0
    ∧ ((nodeRt.issued (issue (wTile 0 1))).tileCall (issue (wTile 0 1)) (.ring 1 0)).2 = none
    ∧ (nodeRt.issued (issue (wTile 0 1))).callFault ((nodeRt.issued (issue (wTile 0 1))).tileCall (issue (wTile 0 1)) (.ring 1 0)).1 = none
    ∧ (nodeRt.issued (issue (wTile 0 1))).callFull ((nodeRt.issued (issue (wTile 0 1))).tileCall (issue (wTile 0 1)) (.ring 1 0)).1 9 = false
    ∧ (nodeRt.issued (issue (wTile 0 1))).flag (fDead 9) = false
    ∧ ((nodeRt.issued (issue (wTile 0 3))).tileCall (issue (wTile 0 3)) (.ring 1 0)).2 = none
    ∧ (nodeRt.issued (issue (wTile 0 3))).callFault ((nodeRt.issued (issue (wTile 0 3))).tileCall (issue (wTile 0 3)) (.ring 1 0)).1 = some 0x0B06 :=
  ⟨can_of (by decide), by decide⟩
theorem wit_RemoteIssue_tileFence : nodeRt.CanIssue (issue (wTile 10 1)) (.ring 1 0) 0x60 ∧ getBits (issue (wTile 10 1)).word.toNat 8 4 = 10
    ∧ ((nodeRt.issued (issue (wTile 10 1))).tileCall (issue (wTile 10 1)) (.ring 1 0)).2 = none
    ∧ (nodeRt.issued (issue (wTile 10 1))).callFault ((nodeRt.issued (issue (wTile 10 1))).tileCall (issue (wTile 10 1)) (.ring 1 0)).1 = none
    ∧ (nodeRt.issued (issue (wTile 10 1))).opsOf ((nodeRt.issued (issue (wTile 10 1))).tileCall (issue (wTile 10 1)) (.ring 1 0)).1.by_ = []
    ∧ (nodeRt.issued (issue (wTile 10 1))).remote.dead = [] := ⟨can_of (by decide), by decide⟩
/-- A request of node 9 through window 0. -/
def req0 (rop size : Nat) : Request := ⟨rop, size, false, false, 9, 0, 0, 0, 0x40, 0, 0, 0, 1, 0, 1, [], 0, 0⟩
/-- Window 0 over 1 MiB at 4 GiB, with every right; combining is on. -/
def nodeTg : State := setFlds { node0 with regs := regs0.take 6 ++ [(0x4400, 0x10000000F), (0x4401, 256)] ++ regs0.drop 6 } [(fCOMB, 1)]
theorem wit_RemoteTarget_stranger : (1 : BitVec 16).toNat ≠ node0.fld fJOBSTAMP ∧ (req0 0 0).job.toNat = node0.fld fJOBSTAMP
    ∧ (req0 0 0).dst.toNat = node0.fld fNODEID ∧ (req0 0 0).epoch.toNat = node0.fld fEPOCH % 65536 ∧ (1 : BitVec 16).toNat ≠ node0.fld fEPOCH % 65536
    ∧ node0.duplicate (req0 0 0) = false ∧ ({ node0 with remote := { src := [(9, { c := 1 })] } } : State).duplicate (req0 0 0) = true
    ∧ ropOk 0 0 = true ∧ (match node0.translated (req0 0 0) with
      | .error st => decide (st = 1)
      | .ok _ => false) = true := by decide
theorem wit_RemoteTarget_allowed : (match nodeTg.translated (req0 0 0) with
      | .ok p => decide (p = (0x100000040, 0))
      | .error _ => false) = true
    ∧ nodeTg.combines (req0 0 0) 0x100000040 = false ∧ nodeTg.combines (req0 3 0) 0x100000040 = true ∧ nodeTg.remote.comb = []
    ∧ nodeTg.remote.wait = [] ∧ nodeTg.remote.defers = [] ∧ nodeTg.pw.blks = [] := by decide +kernel
/-- One operation waits, with its sectors; a 64-byte load stands before its second sector, and an RFST before its flag word. -/
def nodeAt (r : Request) (f : Nat) (left : List Nat) : State :=
  { node0 with remote := { wait := [⟨node0.stackOf 0x100000040, 0x100000040, f, r, [], false, left, []⟩] } }
theorem wit_AtomicUnit : (nodeAt (req0 0 3) 0 [0x8000002, 0x8000003]).pw.blks = [] ∧ (nodeAt (req0 0 3) 0 [0x8000002]).remote.comb = []
    ∧ ((nodeAt (req0 0 3) 0 [0x8000002]).srcRec 9).c + 1 = (req0 0 0).seq ∧ ((nodeAt (req0 0 3) 0 [0x8000002]).srcRec 9).above = []
    ∧ SM.Sorted (nodeAt (req0 0 3) 0 [0x8000002]).remote.src
    ∧ (nodeAt (req0 0 3) 0 [0x8000002, 0x8000003]).rdCheck (inSector 0x100000040 64 0x8000002).1 (inSector 0x100000040 64 0x8000002).2 = none
    ∧ (nodeAt (req0 3 0) 0 [0x8000002]).rdCheck 0x100000040 4 = none ∧ node0.stackOf 0x100000040 < 32
    ∧ (∃ t ∈ (nodeAt (req0 0 3) 0 [0x8000002]).remote.wait, 0x8000002 ∈ t.sectors)
    ∧ (nodeAt (req0 0 3) 0 [0x8000002]).pick 31 0x8000002 = none ∧ node0.stackOf 0x100000040 ≠ 31 := by decide +kernel
/-- A store of eight bytes, its flag word, and the new word of an atomic land. -/
theorem wit_AtomicUnit_store (kind a : Nat) (bs : List Byte) (h : (kind, a, bs) ∈ [(0, 0x100000040, leBytes 8 7), (0, 0x100000080, leBytes 8 5), (1, 0x100000040, leBytes 4 9)]) :
    (match ((nodeAt (req0 1 0) 0 []).joinStep 1).write ⟨1, 0, 0, (nodeAt (req0 1 0) 0 []).stackOf a, kind⟩ a bs with
      | .ok _ => true
      | .error _ => false) = true := by
  simp only [List.mem_cons, Prod.mk.injEq, List.not_mem_nil, or_false] at h
  rcases h with ⟨rfl, rfl, rfl⟩ | ⟨rfl, rfl, rfl⟩ | ⟨rfl, rfl, rfl⟩ <;> decide +kernel
theorem wit_SectorBuffer : ({ node0 with remote := { bufs := [(31, 5)] } } : State).remote.bufs.contains ((31 : Fin 32).val, 5) = true := by decide
theorem wit_CombinerWindowClose : ({ node0 with remote := { comb := [⟨1, 64, req0 3 0, []⟩] } } : State).remote.comb.find?
    (fun x => x.fd = (1 : Fin 2).val && x.addr = 64) = some ⟨1, 64, req0 3 0, []⟩ := by decide
theorem wit_Ack : (({ node0 with remote := { src := [(9, { c := 1 })] } } : State).srcRec (9 : BitVec 12).toNat).c
    ≠ (({ node0 with remote := { src := [(9, { c := 1 })] } } : State).srcRec (9 : BitVec 12).toNat).acked
    ∧ SM.Sorted ({ node0 with remote := { src := [(9, { c := 1 })] } } : State).remote.src := by decide
/-- A Spar load of 8 bytes from node 9 into i2, and one of tile 0 into its scratchpad. -/
def nodeAn : State := { nodeS { thrH [] with wait := .remote } with remote := { ops := [op0] } }
def opL : ROp := { op0 with by_ := .tile 0 0, local_ := some 0x40, waits := false }
def respOf (st : BitVec 8) (data : List Byte) : Response := ⟨false, 0, 0, false, false, 0, 0, 0, 9, 0, 0, 1, 0, 0, st, 0, data, []⟩
theorem wit_RemoteAnswers : nodeAn.opFor 9 1 = some op0 ∧ op0.by_ = .spar (thc 10).core.val (thc 10).thr.val ∧ (nodeAn.sth 0).run = some (.ring 1 0)
    ∧ (nodeAn.sth 0).wait = .remote ∧ (nodeAn.sth 0).halted = false ∧ nodeAn.desc? (.ring 1 0) = some (runningS 2) ∧ (runningS 2).left ≠ 0 ∧ op0.suspended = false
    ∧ (nodeAn.sth 0).fvec ≠ 0 ∧ (nodeAn.sth 0).inh = false ∧ nodeAn.opFor 9 2 = none ∧ (respOf 0 (leBytes 8 5)).data.length = 8
    ∧ (respOf 0 []).job.toNat = nodeAn.fld fJOBSTAMP ∧ (respOf 0 []).dst.toNat = nodeAn.fld fNODEID ∧ (respOf 0 []).epoch.toNat = nodeAn.fld fEPOCH % 65536
    ∧ (respOf 7 []).status = 7 ∧ (∀ x ∈ nodeAn.descs, x.left ≠ 0 ∨ x.st ≠ .running) ∧ nodeAn.isCrew = false
    ∧ (setFlds nodeAn [(fROLE, 2)]).isCrew = true ∧ (setFlds nodeAn [(fDead 9, 1)]).flag (fDead 9) = true ∧ op0.waits = true ∧ op0.vec = false ∧ op0.local_ = none
    ∧ op0.req.rop = 0 ∧ op0.req.size = 0 ∧ op0.reg < 31 := by decide
theorem wit_RemoteAnswers_local : ({ nodeRt with remote := { ops := [opL] } } : State).opFor 9 1 = some opL ∧ locOf (0x40 : BitVec 64).toNat = some (false, 0x40)
    ∧ ({ nodeRt with remote := { ops := [opL] } } : State).locFault 0 true false 0x40 8 0x0408 = none
    ∧ (match (({ nodeRt with remote := { ops := [opL] } } : State).dropOp opL).locWrite 0 false
        ((({ nodeRt with remote := { ops := [opL] } } : State).dropOp opL).callWriter opL.by_ opL.desc 0) 0x40 (leBytes 8 5) 0x0408 with
      | .ok _ => true
      | .error _ => false) = true := by decide
theorem wit_DeferResend : ({ nodeAn with remote := { ops := [{ op0 with deferred := true }] } } : State).opFor 9 1 = some { op0 with deferred := true }
    ∧ seqLt op0.req.seq 1 = false := by decide
theorem wit_RemoteAnswers_maps : nodeAn.mapsOk := (wf_of _ (by decide) (by decide) rfl (by decide) (by decide) (by decide)).2

/-! ## Witnesses: beats and schedules -/

/-- A node of a beat role whose beat period is 400. -/
def nodeB (role : Nat) : State := setFlds node0 [(fBEATROLE, role), (fBEATPER, 400), (fDBEAT, 1)]
theorem wit_Beats : node0.comm.sched = [] ∧ node0.flag fBEATLOST = false ∧ (nodeB 1).fld fBEATROLE = 1 ∧ (nodeB 2).fld fBEATROLE = 2
    ∧ (nodeB 0).fld fBEATROLE = 0 ∧ (nodeB 0).flywheel = 0 ∧ 4 * 299 < 4 * (nodeB 0).beatLast + 3 * (nodeB 0).fld fBEATPER
    ∧ ¬ 4 * 300 < 4 * (nodeB 0).beatLast + 3 * (nodeB 0).fld fBEATPER
    ∧ 1 ≤ max ((nodeB 2).fld fBEATCNT) ({ nodeB 2 with beatTaken := 1 } : State).beatTaken ∧ max ((nodeB 2).fld fBEATCNT) (nodeB 2).beatTaken < 1
    ∧ (1 : BitVec 16).toNat ≠ (nodeB 2).fld fJOBSTAMP ∧ (nodeB 2).mapsOk :=
  ⟨by decide, by decide, by decide, by decide, by decide, by decide, by decide, by decide, by decide, by decide, by decide,
    (wf_of _ (by decide) (by decide) rfl (by decide) (by decide) (by decide)).2⟩
theorem wit_BeatApply : ({ nodeB 2 with beatWait := [⟨1, 500, 0, 0⟩] } : State).beatWait = ⟨1, 500, 0, 0⟩ :: [] ∧ (⟨1, 500, 0, 0⟩ : BeatPkt).delay ≤ 600
    ∧ (nodeB 2).fld fBEATCNT < (⟨1, 500, 0, 0⟩ : BeatPkt).num ∧ ¬ (nodeB 2).fld fBEATCNT < (⟨0, 500, 0, 0⟩ : BeatPkt).num
    ∧ ¬ 4 * (⟨1, 500, 0, 0⟩ : BeatPkt).delay < 4 * (nodeB 2).beatLast + 3 * (nodeB 2).fld fBEATPER := by decide
/-- The flywheel at its first beat, and one beat before BEAT_HOLD runs out. -/
theorem wit_FlywheelBeat : (nodeB 0).beatLast + (nodeB 0).fld fBEATPER * 3 / 2 ≤ 600 ∧ ({ nodeB 0 with flywheel := 2 } : State).flywheel ≠ 0
    ∧ (setFlds { nodeB 0 with flywheel := 2 } [(fHOLD, 3)]).flywheel + 1 = (setFlds { nodeB 0 with flywheel := 2 } [(fHOLD, 3)]).fld fHOLD := by decide
/-- A due beat-basis entry of the fleet (action 2), and one of the node that fires a manual trigger. -/
def entB (action : Nat) : BitVec 128 := BitVec.ofNat 128 (3 + action <<< 2 + 1 <<< 64)
def nodeBs (e : BitVec 128) : State := { nodeB 0 with comm := { RegState.reset with sched := [(0, e)] } }
/-- Its due point lies between 0 and 1. -/
theorem wit_BeatsDue (e : BitVec 128) (h : e = entB 2 ∨ e = entB 4) : (nodeBs e).comm.sched = [(0, e)] ∧ eValid e = true ∧ eBeat e = true
    ∧ dueIn e ((nodeBs e).fld fBEATCNT) 1 ≠ 0 ∧ 0 ∉ (nodeBs e).due := by
  rcases h with rfl | rfl <;> decide
/-- A table of one entry, a checkpoint of class 0, at 4 GiB; index 255 is the last. -/
def rawSc (a0 : Nat) : BitVec 512 := rawOf 0x020 5 0 0x100000000 a0 0 0 0
def nodeSc (a0 e : Nat) : State := { node1 (rawSc a0) with mem := memWrite [] 0x100000000 (leBytes 16 e) }
theorem wit_ScheduleLoads : (nodeSc (255 + 1 <<< 8) 4).Startable (.ring 1 0) (descOf 1 1 (rawSc (255 + 1 <<< 8))) ∧ dOp (rawSc (255 + 1 <<< 8)) = 0x020
    ∧ getBits (dArg (rawSc (255 + 1 <<< 8)) 0) 0 8 = 255 ∧ getBits (dArg (rawSc (255 + 1 <<< 8)) 0) 8 9 = 1 ∧ dMask (rawSc (255 + 1 <<< 8)) = 0
    ∧ dArg (rawSc (255 + 1 <<< 8)) 0 < 2 ^ 17 ∧ (∀ k, 0 < k → k < 4 → dArg (rawSc (255 + 1 <<< 8)) k = 0) ∧ dProg (rawSc (255 + 1 <<< 8)) % 16 = 0
    ∧ (nodeSc (255 + 1 <<< 8) 4).touchesLow 0x100000000 16 = false ∧ (nodeSc (255 + 1 <<< 8) 4).rdCheck 0x100000000 16 = none
    ∧ (nodeSc (255 + 1 <<< 8) 4).badEntry (BitVec.ofNat 128 (leNat ((nodeSc (255 + 1 <<< 8) 4).rdBytes 0x100000000 16))) = false
    ∧ (nodeSc (255 + 1 <<< 8) (2 ^ 7)).badEntry (BitVec.ofNat 128 (leNat ((nodeSc (255 + 1 <<< 8) (2 ^ 7)).rdBytes 0x100000000 16))) = true
    ∧ ((nodeSc (255 + 1 <<< 8) 4).hwEvs 1 []).2 = true := by
  refine ⟨by unfold State.Startable; decide +kernel, by decide +kernel, by decide, by decide, by decide, by decide, ?_, by decide, by decide +kernel, by decide +kernel,
    by decide +kernel, by decide +kernel, by decide +kernel⟩
  intro k h0 h4
  obtain rfl | rfl | rfl : k = 1 ∨ k = 2 ∨ k = 3 := by omega
  all_goals decide
/-- A table beyond the end; one in the low range of a large region; one outside node memory. -/
theorem wit_ScheduleLoads_bad : ¬ (255 + getBits (dArg (rawSc (255 + 2 <<< 8)) 0) 8 9 ≤ 256) ∧ (node0.rdCheck (2 ^ 39) 16).isSome = true
    ∧ ({ nodeSc (255 + 1 <<< 8) 4 with live := { RegState.reset with regions := [(5, { wregionOf rawW with lo := 0x100000000 })] } } : State).touchesLow 0x100000000 16 = true := by
  decide +kernel
theorem wit_DuePoint : dueIn (BitVec.ofNat 128 (7 <<< 64)) 6 7 ≠ 0 ∨ eStart (BitVec.ofNat 128 (7 <<< 64)) ≠ 7 := by decide


/-! ## Witnesses: collectives -/

/-- A CDEF of group 1 on tile 0: one member, the node itself (an entry of zeros), the default chunk and slots. -/
def rawG : BitVec 512 := rawOf 0x010 5 1 0x100000000 (1 + 1 <<< 10) 0 0 0
def nodeCd (raw : BitVec 512) : State := setFlds (node1 raw) [(fSRES 0, 2)]
/-- Group 1 of the node alone. -/
def grpOne : Group := ⟨[0], 1, 16, 2, 7, 0⟩
/-- An open sum of one FP32 chunk of group 1 over SRC, by the homes. -/
def rawSum : BitVec 512 := rawOf 0x011 5 1 0x100000000 (1 + 1 <<< 15 + 1 <<< 18) 0x100010000 1 0
def opOne (raw : BitVec 512) (rank : Nat) (cs : SM Chunk) : CollOp :=
  ⟨.ring 1 0, raw, 1, 0, 1, rank, [0, 1], [0, 1], 1, 12, 2, 7, 8, false, 0, false, cs, 0, []⟩
def nodeOp (raw : BitVec 512) (o : CollOp) : State := { node1 raw with coll := { ops := [o] } }
/-- The same CDEF with NMEM 0, with a chunk of 2^11 bytes, with a misaligned list, with one past the memory, with two members; and broken. -/
def rawG0 : BitVec 512 := rawOf 0x010 5 1 0x100000000 1 0 0 0
def rawG11 : BitVec 512 := rawOf 0x010 5 1 0x100000000 (1 + 1 <<< 10 + 11 <<< 22) 0 0 0
def rawGal : BitVec 512 := rawOf 0x010 5 1 0x100000002 (1 + 1 <<< 10) 0 0 0
def rawGfar : BitVec 512 := rawOf 0x010 5 1 (2 ^ 39) (1 + 1 <<< 10) 0 0 0
def rawG2 : BitVec 512 := rawOf 0x010 5 1 0x100000000 (1 + 2 <<< 10) 0 0 0
def rawGbad : BitVec 512 := rawG + 1 <<< 256
theorem wit_GroupsDefine : (nodeCd rawG).EngReady (.ring 1 0) (descOf 1 1 rawG) 0x010 ∧ dMask rawG ≠ 0 ∧ dArg rawG 0 < 2 ^ 36 ∧ dArg rawG 1 = 0 ∧ dArg rawG 2 = 0
    ∧ dArg rawG 3 = 0 ∧ (nodeCd rawG).coll.ops.any (fun o => o.group = 1) = false ∧ getBits (dArg rawG 0) 10 12 = 1 ∧ dProg rawG % 4 = 0
    ∧ (nodeCd rawG).touchesLow (dProg rawG) 4 = false ∧ (nodeCd rawG).rdCheck (dProg rawG) 4 = none ∧ (nodeCd rawG).rdBytes (dProg rawG) 4 = [0, 0, 0, 0]
    ∧ (((nodeCd rawG).running (.ring 1 0) 0).hwEvs 1 []).2 = true ∧ (((nodeCd rawG).running (.ring 1 0) 0).hwEvs 1 []).1.trans = (nodeCd rawG).trans := by
  unfold State.EngReady State.Startable; decide +kernel
theorem wit_GroupsDefine_fields : (nodeCd rawGbad).EngReady (.ring 1 0) (descOf 1 1 rawGbad) 0x010 ∧ dArg rawGbad 1 ≠ 0 := by
  unfold State.EngReady State.Startable; decide +kernel
theorem wit_GroupsDefine_open : (nodeOp rawG (opOne rawSum 0 [])).EngReady (.ring 1 0) (descOf 1 1 rawG) 0x010
    ∧ (nodeOp rawG (opOne rawSum 0 [])).coll.ops.any (fun o => o.group = getBits (dArg rawG 0) 0 10) = true := by
  unfold State.EngReady State.Startable; decide +kernel
theorem wit_GroupsDefine_delete : (nodeCd rawG0).EngReady (.ring 1 0) (descOf 1 1 rawG0) 0x010 ∧ getBits (dArg rawG0 0) 10 12 = 0 := by
  unfold State.EngReady State.Startable; decide +kernel
theorem wit_GroupsDefine_sizes : (nodeCd rawG11).EngReady (.ring 1 0) (descOf 1 1 rawG11) 0x010 ∧ getBits (dArg rawG11 0) 22 5 = 11 := by
  unfold State.EngReady State.Startable; decide +kernel
theorem wit_GroupsDefine_align : (nodeCd rawGal).EngReady (.ring 1 0) (descOf 1 1 rawGal) 0x010 ∧ dProg rawGal % 4 ≠ 0 := by
  unfold State.EngReady State.Startable; decide +kernel
/-- The list lies in the low half of a region, or past the memory. -/
def rawGlow : BitVec 512 := rawOf 0x010 5 1 0x100010000 (1 + 1 <<< 10) 0 0 0
def nodeLow (raw : BitVec 512) : State := { nodeCd raw with live := { RegState.reset with regions := [(5, wregionOf rawW0)], groups := [(1, grpOne)] } }
theorem wit_GroupsDefine_low : (nodeLow rawGlow).EngReady (.ring 1 0) (descOf 1 1 rawGlow) 0x010 ∧ (nodeLow rawGlow).touchesLow (dProg rawGlow) 4 = true := by
  unfold State.EngReady State.Startable; decide +kernel
theorem wit_GroupsDefine_range : (nodeCd rawGfar).EngReady (.ring 1 0) (descOf 1 1 rawGfar) 0x010 ∧ (nodeCd rawGfar).rdCheck (dProg rawGfar) 4 = some .range
    ∧ (nodeCd rawGfar).touchesLow (dProg rawGfar) 4 = false := by
  unfold State.EngReady State.Startable; decide +kernel
theorem wit_GroupsDefine_twice : (nodeCd rawG2).EngReady (.ring 1 0) (descOf 1 1 rawG2) 0x010 := by
  unfold State.EngReady State.Startable; decide +kernel
theorem wit_GroupsDefine_members : membersBad [0] [(nodeCd rawG).memberNode 0] = false ∧ ((nodeCd rawG).memberNode 0).toNat = (nodeCd rawG).fld fNODEID
    ∧ (nodeCd rawG).noStaging 1 grpOne = false ∧ (setFlds (node1 rawG) [(fSRES 0, 1)]).noStaging 1 grpOne = true ∧ membersBad [0, 0] [0, 0] = true
    ∧ ((nodeCd rawG).memberNode 9).toNat ≠ (nodeCd rawG).fld fNODEID := by decide

/-- A BARRIER in group 1; broken; and a sum whose ranges are misaligned, in a low half, or past the memory. -/
def rawBar : BitVec 512 := rawOf 0x011 5 1 0 (1 + 5 <<< 10) 0 0 0
def rawBarBad : BitVec 512 := rawBar + 1 <<< 384
def nodeCo (raw : BitVec 512) (m : List (BitVec 32)) : State := { node1 raw with live := { RegState.reset with groups := [(1, { grpOne with members := m })] } }
theorem wit_OperationsOpen : (nodeCo rawBar [0, 9]).EngReady (.ring 1 0) (descOf 1 1 rawBar) 0x011 ∧ collBad rawBar 2 grpOne.mask.toNat = false
    ∧ (nodeCo rawBar [0, 9]).collRange ((nodeCo rawBar [0, 9]).collOf (.ring 1 0) (descOf 1 1 rawBar)) = none ∧ (nodeCo rawBar [0, 9]).collRoom (cGroup rawBar) = true
    ∧ ((nodeCo rawBar [0, 9]).collOf (.ring 1 0) (descOf 1 1 rawBar)).rank < 2 ∧ SM.Sorted (nodeCo rawBar [0, 9]).live.groups
    ∧ ((nodeCo rawBar [9]).collOf (.ring 1 0) (descOf 1 1 rawBar)).rank = 1 ∧ (nodeCo rawBar [9]).EngReady (.ring 1 0) (descOf 1 1 rawBar) 0x011 := by
  unfold State.EngReady State.Startable; decide
theorem wit_OperationsOpen_undefined : (node1 rawBar).EngReady (.ring 1 0) (descOf 1 1 rawBar) 0x011
    ∧ (SM.getD applyTr.emptyGroup (node1 rawBar).live.groups (cGroup rawBar)).members = [] := by
  unfold State.EngReady State.Startable; decide
theorem wit_OperationsOpen_bad : (nodeCo rawBarBad [0]).EngReady (.ring 1 0) (descOf 1 1 rawBarBad) 0x011 ∧ collBad rawBarBad 1 grpOne.mask.toNat = true
    ∧ collBad rawBar 1 3 = true := by
  unfold State.EngReady State.Startable; decide
def rawCs (src dst : Nat) : BitVec 512 := rawOf 0x011 5 1 src (1 + 1 <<< 15 + 1 <<< 18) dst 1 0
theorem wit_OperationsOpen_ranges : ∀ q ∈ [(0x100000004, 0x100100000, 0x0504), (0x100010000, 0x100100000, 0x0609), (0x100100000, 0x100010000, 0x0609), (2 ^ 39, 0x100100000, 0x0505)],
    (nodeLow (rawCs q.1 q.2.1)).EngReady (.ring 1 0) (descOf 1 1 (rawCs q.1 q.2.1)) 0x011 ∧ collBad (rawCs q.1 q.2.1) 1 grpOne.mask.toNat = false
      ∧ (nodeLow (rawCs q.1 q.2.1)).collRange ((nodeLow (rawCs q.1 q.2.1)).collOf (.ring 1 0) (descOf 1 1 (rawCs q.1 q.2.1))) = some q.2.2 := by
  unfold State.EngReady State.Startable; decide +kernel
theorem wit_OperationsOpen_full : ({ nodeCo rawBar [0] with coll := { ops := List.replicate 4 (opOne rawBar 0 []) } } : State).collRoom (cGroup rawBar) = false := by decide
theorem wit_CollTimeout : (nodeOp rawSum (opOne rawSum 0 [])).desc? (.ring 1 0) = some (descOf 1 1 rawSum) ∧ (descOf 1 1 rawSum).step ≠ 0
    ∧ (nodeOp rawSum (opOne rawSum 0 [])).coll.ops = [opOne rawSum 0 []] ∧ (opOne rawSum 0 []).desc = .ring 1 0
    ∧ ({ node1 rawBar with coll := { queue := [.ring 1 0] } } : State).coll.queue = [.ring 1 0] := by decide
theorem wit_NotOpen : (({ nodeT [] with coll := { hands := [handB] } } : State).thr 0 0).run = some handB.desc ∧ handB.op = none
    ∧ ((nodeT []).thr 0 0).xfers = [] ∧ ((nodeT []).thr 0 0).halted = false ∧ (nodeT []).desc? handB.desc = some runningT ∧ runningT.status = 0
    ∧ runningT.left &&& (2 ^ 32 - 1 - 2 ^ 0) ≠ 0 := by decide

/-- An MMAF of the operands of `gMma` on core 0, its program at scratchpad address 0x20000, for group 1. -/
def wFused : Nat := wMma + 7
def fusedI : VxtIssue := ⟨0, 0, 0, BitVec.ofNat 64 wFused, BitVec.ofNat 64 (4 + 5 <<< 5 + 1 <<< 10), [], false⟩
def nodeFu (hs : List Handoff) (os : List CollOp) : State :=
  { nodeT (gMma ++ [(4, 0x20000), (5, 0x20100)]) with
    spad := memWrite [] 0x20000 epWords, live := { RegState.reset with groups := [(1, grpOne)] }, coll := { hands := hs, ops := os } }
def rawHand : BitVec 512 := rawOf 0x011 5 1 0 (1 + 1 <<< 15 + 1 <<< 18 + 1 <<< 21 + 1 <<< 34) 0x100010000 1 0
def hdr0 : CollHdr := ⟨1, 1, 1, 0, 0, 0, 0, 0, 0, false, 0, 0, 1, 7, 8⟩
def opGiven (r : Nat) (cs : SM Chunk) : CollOp := { opOne rawSum r cs with given := [(1, 0, 1, 0)] }
def mism0 : Mism := ⟨1, 0, 1, 70, 8, [5]⟩
theorem wit_FusedHandsOff : (nodeFu [] []).CanIssue fusedI (.ring 1 0) 0x48 ∧ ((nodeFu [] []).issued fusedI).fusedFault 0 0 fusedI.word.toNat fusedI.ext.toNat (.ring 1 0) = none
    ∧ ((nodeFu [] []).issued fusedI).trBusy 0 (mCores wFused) (mTr wFused) (((nodeFu [] []).issued fusedI).fusedPair wFused) = false ∧ (nodeFu [] []).flag fNANWATCH = false
    ∧ (((nodeFu [] []).issued fusedI).hwEvs 1 []).2 = true := by
  refine ⟨can_of ?_, ?_⟩ <;> decide
theorem wit_FusedHandsOff_mapsOk : (nodeFu [] []).mapsOk := (wf_of _ (by decide) (by decide) rfl (by decide) (by decide) (by decide)).2
theorem wit_FusedHandsOff_busy : ((nodeFu [{ handB with tr := mTr wFused }] []).issued fusedI).trBusy 0 (mCores wFused) (mTr wFused)
    (((nodeFu [{ handB with tr := mTr wFused }] []).issued fusedI).fusedPair wFused) = true := by decide
/-- The operation takes an FP32 chunk of 1,024 elements, the program makes 16. -/
def handF : Handoff :=
  let z := nodeFu [] []
  let p := z.epLoad 0 (z.fusedCall 0 0 wFused fusedI.ext.toNat 0).prog
  ⟨0, 0, 0, mTr wFused, (z.fusedCall 0 0 wFused fusedI.ext.toNat 0).pair, .ring 1 0, 1, 0, 1, p.1, p.2, 0x20100, [], false, [], none⟩
theorem wit_FusedHandsOff_fault : mmaTargets wFused = [0] ∧ ((nodeFu [] [opOne rawHand 0 []]).matchOp handF).map (·.seq) = some 0 ∧ handFault handF (opOne rawHand 0 []) = some 0x0601
    ∧ (nodeFu [] []).desc? (.ring 1 0) = some runningT ∧ runningT.left &&& (2 ^ 32 - 1 - 2 ^ 0) ≠ 0 := by decide

theorem wit_CollectivePackets : hdr0.job.toNat = node0.fld fJOBSTAMP ∧ hdr0.dst.toNat = node0.fld fNODEID ∧ hdr0.epoch.toNat = node0.fld fEPOCH % 65536
    ∧ (node0.collOp? hdr0.group.toNat hdr0.seq) = none ∧ node0.coll.grants = [] ∧ (hdr0.tag, hdr0.src) ∉ node0.coll.markers ∧ (node0.arrived (.coll 0 hdr0 [])).grantPast hdr0 = false
    ∧ ({ hdr0 with job := 1 } : CollHdr).job.toNat ≠ node0.fld fJOBSTAMP ∧ ({ hdr0 with epoch := 1 } : CollHdr).epoch.toNat ≠ node0.fld fEPOCH % 65536 := by decide
/-- The operation has closed with a mismatch, of which node 5 knows alone; or has closed. -/
theorem wit_CollectivePackets_past :
    ((({ node0 with coll := { mism := [mism0] } } : State).arrived (.coll 0 hdr0 [])).grantPast hdr0 = true)
    ∧ ([mism0].find? (fun m => m.group = hdr0.group.toNat ∧ m.seq = hdr0.seq) = some mism0) ∧ mism0.gdig ≠ hdr0.gdig ∧ mism0.told.contains hdr0.src = false
    ∧ (({ node0 with live := { RegState.reset with groups := [(1, { grpOne with seq := 1 })] } } : State).arrived (.coll 0 hdr0 [])).grantPast hdr0 = true := by decide
theorem wit_CollectivePackets_data : (nodeOp rawSum (opGiven 0 [])).collOp? hdr0.group.toNat hdr0.seq = some (opGiven 0 []) ∧ hdr0.gdig = (opGiven 0 []).gdig
    ∧ hdr0.pdig = (opGiven 0 []).pdig ∧ (opGiven 0 []).rankOf hdr0.src = some 1 ∧ (opGiven 0 []).given.contains (1, hdr0.chunk, hdr0.stage.toNat, hdr0.slot.toNat) = true
    ∧ (opOne rawSum 0 []).given.contains (1, hdr0.chunk, hdr0.stage.toNat, hdr0.slot.toNat) = false ∧ ({ opGiven 0 [] with nodes := [0, 5] } : CollOp).rankOf hdr0.src = none
    ∧ (nodeOp rawSum (opGiven 0 [])).coll.rx = [] ∧ SM.Sorted (opGiven 0 []).chunks ∧ hdr0.chunk < cNchunk (opGiven 0 []).raw ∧ (opGiven 0 []).base = 0 := by decide
theorem wit_CollectivePackets_term : ((opGiven 0 []).chunk 0).fin = false ∧ (1, hdr0.stage.toNat) ∈ (opGiven 0 []).ups (opGiven 0 []).rank hdr0.chunk
    ∧ (1, hdr0.stage.toNat) ∉ ((opGiven 0 []).chunk hdr0.chunk).got ∧ (opGiven 0 []).joins (opGiven 0 []).rank hdr0.chunk = true ∧ ((opGiven 0 []).chunk hdr0.chunk).up = false
    ∧ ({ hdr0 with gdig := 9 } : CollHdr).gdig ≠ (opGiven 0 []).gdig := by decide
/-- Rank 1, to whom rank 0 sends the final value. -/
theorem wit_CollectivePackets_final : (1, 1) ∉ (opOne rawSum 1 []).ups 1 0 ∧ (opOne rawSum 1 []).finFrom 1 0 = some (0, 1) ∧ (opOne rawSum 1 []).takes 1 0 = true
    ∧ (opOne rawSum 1 []).upTo 1 0 ≠ none := by decide
def stepS : Step := { tag := 1, sealCnt := some 0, sentTo := [1] }
theorem wit_MarkerSend : ({ node0 with steps := [stepS] } : State).step? 1 = some stepS
    ∧ ({ node0 with steps := [stepS] } : State).localDone { stepS with recvFrom := [] } = true ∧ stepS.marksSent = false
    ∧ ({ node0 with steps := [{ stepS with sealCnt := none }] } : State).localDone { stepS with recvFrom := [], sealCnt := none } = false := by decide +kernel

/-! The steward of chunk 0. -/

/-- A broadcast from rank 0, and a sum by the fold or by the tree (EXACT, and its plan). -/
def rawCopy : BitVec 512 := rawOf 0x011 5 1 0x100000000 (1 + 3 <<< 10 + 1 <<< 15 + 1 <<< 18) 0x100010000 1 0
def opPlan (p rank : Nat) (cs : SM Chunk) : CollOp := { opOne rawSum rank cs with exact := true, plan := p }
def one32 : List Byte := [0, 0, 128, 63]
def nodeC (o : CollOp) : State := nodeOp o.raw o
theorem wit_StewardWork : ∀ o ∈ [opOne rawSum 0 [], opOne rawSum 1 [], opOne rawCopy 0 [], opPlan 2 0 [], opPlan 2 1 [], opPlan 1 0 [], opPlan 1 1 [], opOne rawBar 0 []],
    (nodeC o).collOp? 1 0 = some o ∧ (nodeC o).blkClosed 0 = false ∧ (nodeC o).reefStop 0 = false ∧ (nodeC o).flag fNANWATCH = false ∧ 0 < cNchunk o.raw ∧ o.steward 0 = 0
      ∧ (o.chunk 0).fin = false ∧ o.contributes o.rank 0 = true ∧ o.ownDone 0 = false ∧ ((nodeC o).slotFor o 0).isSome = true ∧ o.takes o.rank 0 = true
      ∧ cSrch o.raw = false ∧ (cKind o.raw = 5 ∨ (nodeC o).rdCheck (o.srcAt 0).1 (o.srcAt 0).2 = none) := by decide
theorem wit_StewardWork_schemes : (opOne rawSum 0 []).scheme = .homes ∧ (opOne rawCopy 0 []).scheme = .copy ∧ (opPlan 2 0 []).scheme = .pair ∧ (opPlan 1 0 []).scheme = .fold := by
  decide
theorem wit_StewardWork_noSlot : (nodeC { opOne rawSum 0 [] with given := [(1, 0, 1, 0), (1, 0, 1, 1)] }).slotFor { opOne rawSum 0 [] with given := [(1, 0, 1, 0), (1, 0, 1, 1)] } 0 = none := by
  decide
theorem wit_StewardWork_closed : ({ nodeC (opOne rawSum 0 []) with pw := { node0.pw with blks := [⟨0, true⟩] } } : State).blkClosed 0 = true := by decide
/-- A handoff whose output lies in the slot of its chunk, and whose program is gone. -/
def handR : Handoff := { handB with desc := .ring 1 9, ran := true, data := one32, op := some 0 }
theorem wit_StewardWork_handoff : cSrch rawHand = true ∧ (opOne rawHand 0 []).scheme = .homes ∧ cRed rawHand = true ∧ handR.group = 1 ∧ handR.chunk = 0
    ∧ (nodeC (opOne rawHand 0 [])).desc? handR.desc = none ∧ (opOne rawHand 0 [(0, { slot := some 0 })]).ownDone 0 = false := by decide
/-- A home of three members with one term to come and one beyond it; the tree; the fold at rank 1. -/
theorem wit_StewardWork_reduce :
    ({ opOne rawSum 0 [(0, { terms := [(1, 1, 0, one32)] })] with ents := [0, 1, 2], nodes := [0, 1, 2] } : CollOp).ready 0 (1, 1) = true
    ∧ kidsAt [0, 1, 2] 1 0 0 = [1, 2]
    ∧ (opPlan 2 0 [(0, { owns := 1, slot := some 1, acc := some one32, terms := [(1, 0, 0, one32)] })]).ready 0 (1, 0) = true
    ∧ (opPlan 1 1 [(0, { owns := 1, own := [(0, one32)], slot := some 1, terms := [(0, 0, 0, one32)] })]).ready 0 (0, 0) = true := by decide
/-- Rank 1 of the two sends its partial of chunk 0 to rank 0, which sends the final value back and writes it. -/
theorem wit_StewardWork_forward : (opOne rawSum 1 [(0, { owns := 1, acc := some one32, slot := some 0 })]).upTo 1 0 = some (0, 1)
    ∧ (opOne rawSum 1 [(0, { owns := 1, acc := some one32, slot := some 0 })]).upDone 0 = true
    ∧ ([⟨1, 0, 0, 1, 0, 0, 7, 8⟩] : List Grant).find? (fun g => g.group = 1 ∧ g.seq = 0 ∧ g.chunk = 0 ∧ g.src = 0 ∧ g.stage = 1) = some ⟨1, 0, 0, 1, 0, 0, 7, 8⟩
    ∧ ((opOne rawSum 0 []).downs 0 0).find? (fun e => (opOne rawSum 0 []).node e.1 = 1 ∧ ¬ ([] : List Nat).contains e.1) = some (1, 1) := by decide
def opFin : CollOp := opOne rawSum 0 [(0, { owns := 1, got := [(1, 1)], up := true, final := some one32, slot := some 0 })]
theorem wit_StewardWork_write : ∃ s', (nodeC opFin).write ((nodeC opFin).writer opFin.desc 0) (opFin.dstAt 0).1 ((finish16 opFin.raw one32).bytes.take (opFin.dstAt 0).2) = .ok s' := ⟨_, rfl⟩

/-! ## Witnesses: the fleet and the relay -/

/-- A node of a large fleet class that is no masthead, and a masthead with a committed step. -/
def node8 : State := setFlds node0 [(⟨0x40040, 8, 4⟩, 8)]
def mastDone : State := { mast with comm := { RegState.reset with lastTag := 1 } }
theorem wf_fleetMore : node8.wf ∧ mastDone.wf := ⟨wf_of _ (by decide) (by decide) rfl (by decide) (by decide) (by decide),
  wf_of _ (by decide) (by decide) rfl (by decide) (by decide) (by decide)⟩
theorem wit_FleetForms : node8.isMast = false ∧ node8.largeClass = true ∧ node8.rankOf 5 = none ∧ node8.pw.booting = false ∧ node8.pw.blks = []
    ∧ mast.isMast = true ∧ mast.pw.booting = false ∧ mast.pw.blks = [] ∧ mast.largeClass = true ∧ 10 ≠ mast.fld (fFleet 2) ∧ mast.fld (fFleet 1) ≠ 0
    ∧ (mast.rankOf 1).isSome = true ∧ mast.comm.lastTag = 0 ∧ mast.stepOpen = false ∧ mastDone.comm.lastTag ≠ 0
    ∧ crew.isCrew = true ∧ mast.isCrew = false := by decide
/-- Window 1 selects page 2, window 2 selects no page, window 3's node is not listed. -/
def mastW : State := setFlds mast [(⟨0x10808, 0, 16⟩, 2), (⟨0x10810, 0, 16⟩, 0x100)]
theorem wit_CrewWindows : (mastW.crewPlace 0x1040010) = (1, some 0x20010) ∧ mastW.fld (fFleet 1) ≠ 0 ∧ mastW.isMast = true
    ∧ (mastW.crewPlace 0x1080000).2 = none ∧ (mastW.crewPlace 0x1000000).1 = 0 ∧ (mastW.crewPlace 0x1000000).2.isSome = true
    ∧ (mastW.crewPlace 0x1FFFFF8).1 = 63 ∧ (mastW.crewPlace 0x1FFFFF8).2.isSome = true ∧ mastW.fld (fFleet 63) = 0 := by decide
theorem wit_CrewWindows_wf : mastW.wf := wf_of _ (by decide) (by decide) rfl (by decide) (by decide) (by decide)
def toNode1 : Packet := ⟨7, 9, 0xFFFF, 32, .fleet (.relay (.regWrite 1 0x10 true 5))⟩
theorem wit_CrewReadTimeout : ({ mast with rec_ := { cwReads := [(1, 0x20010)] } } : State).rec_.cwReads.find? (fun r => r.1 = (1 : Fin 64).val) = some (1, 0x20010)
    ∧ mast.held = false ∧ mast.rec_.cwReads.find? (fun r => r.1 = (1 : Fin 64).val) = none ∧ ({ mast with portQ := [toNode1] } : State).heldWrite 1 = some toNode1 := by decide
theorem wit_RelayPasses : mast.held = false ∧ mast.fld (fFleet 1) ≠ 0 ∧ mast.winOk true 0x1000 16 = true ∧ mast.winOk true 0x20000000000 16 = false
    ∧ mast.winOk false 0x1000 16 = true ∧ mast.winOk false 0x20000000000 16 = false ∧ mast.masked 35 = true
    ∧ ({ mast with msix := [(71, 0)] } : State).masked 35 = false ∧ ({ mast with rec_ := { cwReads := [(1, 0x10)] } } : State).rec_.cwReads.contains (1, 0x10) = true
    ∧ mast.fld (fFleet 2) = 0 ∧ crew.held = false ∧ crew.rec_.relayLost = false ∧ crew.isCrew = true
    ∧ ({ crew with rec_ := { relayLost := true } } : State).rec_.relayLost = true ∧ ({ crew with pw := { crew.pw with relayHold := true } } : State).pw.relayHold = true := by decide
theorem wit_RelayPasses_wf : ({ mast with msix := [(71, 0)] } : State).wf := wf_of _ (by decide) (by decide) rfl (by decide) (by decide) (by decide)

/-! ## Witnesses: commit, checkpoint and recovery -/

def rawK (op prog a0 a1 a2 : Nat) : BitVec 512 := rawOf op 7 0 prog a0 a1 a2 0
/-- Slot 0 holds generation 3. -/
def nodeLk (raw : BitVec 512) : State := setFlds (node1 raw) [(fLKVALID 0, 1), (fLKGEN 0, 3)]
def crewK (raw : BitVec 512) : State := { crew with descs := [descOf 1 1 raw], steps := [{ tag := 1 }] }
theorem wit_CheckpointDescriptors : (node1 (rawK 0x500 0 1 0 0)).Startable (.ring 1 0) (descOf 1 1 (rawK 0x500 0 1 0 0)) ∧ dOp (rawK 0x500 0 1 0 0) = 0x500
    ∧ (node1 (rawK 0x500 0 1 0 0)).isCrew = false ∧ plainCkp (rawK 0x500 0 1 0 0) 2 false = true ∧ plainCkp (rawK 0x500 0 2 0 0) 2 false = false
    ∧ (crewK (rawK 0x500 0 1 0 0)).Startable (.ring 1 0) (descOf 1 1 (rawK 0x500 0 1 0 0)) ∧ (crewK (rawK 0x500 0 1 0 0)).isCrew = true := by
  unfold State.Startable; decide
theorem wit_CheckpointDescriptors_drain : (node1 (rawK 0x502 0 0 0 0)).Startable (.ring 1 0) (descOf 1 1 (rawK 0x502 0 0 0 0))
    ∧ plainCkp (rawK 0x502 0 0 0 0) 64 false = true ∧ (node1 (rawK 0x502 0 0 0 0)).myIdx = 0 ∧ (node1 (rawK 0x502 0 0 0 0)).holdsRank = true
    ∧ (mast.rankOf 1).isSome = true ∧ plainCkp (rawK 0x502 0 64 0 0) 64 false = false ∧ plainCkp (rawK 0x502 0 63 0 0) 64 false = true ∧ node0.fld (fFleet 63) = 0
    ∧ (crewK (rawK 0x502 0 0 0 0)).Startable (.ring 1 0) (descOf 1 1 (rawK 0x502 0 0 0 0)) := by
  unfold State.Startable; decide
/-- A record of generation 3 and step 1 over an empty segment table, whose digest is that of no bytes. -/
def img3 : LkImage :=
  ⟨0x5bb99848f1d21ad5fb656fe7bfde4e27dae1f663bfc70c4c4307be1411b7fd216ae3b1b17e32d94c3896ac51a760b03800000000000000000000000001000000000000000000000000000000000000010000000000000003000000004c4b5243#1024, [], [], RegState.reset⟩
theorem wit_CheckpointDescriptors_resume : (nodeLk (rawK 0x501 0 3 0 0)).Startable (.ring 1 0) (descOf 1 1 (rawK 0x501 0 3 0 0))
    ∧ plainCkp (rawK 0x501 0 3 0 0) (2 ^ 64) false = true ∧ (nodeLk (rawK 0x501 0 3 0 0)).comm.stepCnt = 0
    ∧ (nodeLk (rawK 0x501 0 3 0 0)).steps.head?.map (·.tag) = some 1 ∧ (nodeLk (rawK 0x501 0 3 0 0)).flag fNOLOCKER = false
    ∧ (nodeLk (rawK 0x501 0 3 0 0)).slotOfGen 3 ≠ none ∧ (nodeLk (rawK 0x501 0 4 0 0)).slotOfGen 4 = none
    ∧ (setFlds (nodeLk (rawK 0x501 0 3 0 0)) [(fNOLOCKER, 1)]).flag fNOLOCKER = true ∧ plainCkp (rawK 0x501 1 3 0 0) (2 ^ 64) false = false := by
  unfold State.Startable; decide
theorem wit_CheckpointDescriptors_record : validRecord img3 = true ∧ crF img3.record 64 64 = 3 ∧ crF img3.record 128 64 = 1
    ∧ crF img3.record 256 12 = (nodeLk 0).fld fRANK ∧ crF img3.record 280 7 = (nodeLk 0).fleetSize ∧ crF img3.record 368 16 = (nodeLk 0).protCount
    ∧ validRecord { img3 with record := 0 } = false ∧ crF img3.record 256 12 ≠ (setFlds (nodeLk 0) [(fRANK, 1)]).fld fRANK := by decide +kernel
theorem wit_CheckpointDescriptors_lkread : (nodeLk (rawK 0x503 0x100000000 3 0 4096)).Startable (.ring 1 0) (descOf 1 1 (rawK 0x503 0x100000000 3 0 4096))
    ∧ plainCkp (rawK 0x503 0x100000000 3 0 4096) (2 ^ 64) true = true ∧ 0 + 4096 ≤ (nodeLk 0).slotBlocks * 4096
    ∧ (∀ p ∈ pagesOf 0x100000000 4096, (nodeLk 0).groupKind (groupOf (p * 4096)) = 0) ∧ (nodeLk 0).ckpt = none := by
  unfold State.Startable; decide +kernel
theorem wit_CheckpointDescriptors_write : ∃ s', (nodeLk 0).writes ((nodeLk 0).writer (.ring 1 0) 0xF0) [(0x100000000, [5])] = .ok s' := ⟨_, rfl⟩
/-- An oldest step that is locally done, of no descriptors. -/
def stepD : Step := { tag := 1, sealCnt := some 0 }
/-- The masthead holds the step-done of rank 0, and rank 1's comes. -/
def mastD : State := { mast with mh := { dones := [(0, 0, 1, false)] } }
theorem wit_StepDones : crew.holdsRank = true ∧ ({ crew with steps := [stepD] } : State).localDone stepD = true ∧ crew.sendsDone = true ∧ crew.rec_.waitGo = false
    ∧ crew.fld fRMODE ≠ 2 ∧ crew.trailsSecured = true ∧ crew.role = 2 ∧ node0.role = 0 ∧ node0.holdsRank = true ∧ mast.role = 1 ∧ mast.holdsRank = true
    ∧ ({ crew with trails := [⟨0, 0, 0, false⟩] } : State).trailsSecured = false ∧ ({ mast with mh := { committing := some 1 } } : State).mh.committing.isSome = true := by decide
theorem wit_StepDones_mapsOk : mast.mapsOk ∧ ({ crew with steps := [stepD] } : State).mapsOk :=
  ⟨wf_fleet.1.2, (wf_of _ (by decide) (by decide) rfl (by decide) (by decide) (by decide)).2⟩
theorem wit_StepDoneReceive : mastD.isMast = true ∧ mastD.mh.committing = none ∧ mastD.flag fBRACE = false ∧ mastD.mh.unsecured = false ∧ mastD.rec_.waitGo = false
    ∧ (∀ r, r < mastD.fleetSize → ([(0, 0, 1, false), (1, 1, 1, false)] : List (Nat × Nat × BitVec 64 × Bool)).any (fun d => d.2.1 == r && d.2.2.1 == 1) = true)
    ∧ 1 < mast.fleetSize := by decide
theorem wit_BidHashReport : mast.isMast = true ∧ mast.mh.noSpare = false ∧ 1 < mast.fleetSize ∧ mast.fleetSize ≤ 0xFFF := by decide
theorem wit_CommitsApply : ({ node0 with steps := [{ stepD with doneSent := true }] } : State).steps = [{ stepD with doneSent := true }]
    ∧ node0.comm.sched = [] ∧ node0.due = [] ∧ node0.rec_.deferCkpt = [] ∧ node0.rec_.digGroups = [] ∧ node0.ckpt = none ∧ node0.mh.aftertake = false
    ∧ node0.flag fFLAGGED = false ∧ node0.flag fBRACE = false ∧ node0.mh.unsecured = false ∧ node0.pw.d3 = false ∧ node0.role = 0 ∧ crew.role = 2 ∧ crew.holdsRank = true
    ∧ mast.role = 1 ∧ (setFlds node0 [(fBRACE, 1)]).flag fBRACE = true := by decide
theorem wit_CommitsApply_checkpoint : node0.mh.ckptOpen = false ∧ node0.holdsRank = true ∧ node0.flag fNOLOCKER = false
    ∧ 2 * (setFlds node0 [(fLKCOUNT, 2 ^ 40)]).slotBlocks ≤ (setFlds node0 [(fLKCOUNT, 2 ^ 40)]).fld fLKCOUNT := by decide +kernel
theorem wit_CommitsApply_spare : spare.role = 2 ∧ spare.holdsRank = false ∧ spare.steps = [] ∧ spare.comm.lastTag.toNat < (1 : BitVec 64).toNat ∧ spare.comm.sched = [] := by decide
/-- Step 1 has written page 2^20, whose image holds 5 in its first byte. -/
def img0 : Image := { tag := .step 1, page := 0x100000, stack := 0, bytes := [(0, 5)] }
def nodeRb (s : State) : State := { s with steps := [{ tag := 1 }], images := [img0], mem := memWrite [] 0x100000000 [9] }
theorem wit_RollbackRestores : (nodeRb node0).wf ∧ (nodeRb crew).wf ∧ (nodeRb mast).wf := ⟨wf_of _ (by decide) (by decide) rfl (by decide) (by decide) (by decide),
  wf_of _ (by decide) (by decide) rfl (by decide) (by decide) (by decide), wf_of _ (by decide) (by decide) rfl (by decide) (by decide) (by decide)⟩
theorem wit_RollbackRestores_cases : (nodeRb crew).role = 2 ∧ (nodeRb node0).role ≠ 2 ∧ (1 : BitVec 32).toNat = ((nodeRb node0).fld fEPOCH + 1) % 2 ^ 32
    ∧ (nodeRb mast).mh.lostRanks = [] ∧ img0.tag = .step ((nodeRb node0).steps.headD { tag := 0 }).tag ∧ img0.page = 0x100000 ∧ (nodeRb mast).rankOf 1 = some 1
    ∧ (nodeRb mast).held = false := by decide
/-- Three nodes, of which the masthead and node 1 hold the ranks 0 and 1. -/
def mast3 : State := setFlds mast [(fFleet 2, 10)]
theorem wit_LossesAndGo : mast3.role ≠ 2 ∧ mast3.rankOf 1 = some 1 ∧ SM.getD 0 mast3.mh.rankBid 1 = 0 ∧ 1 ≠ mast3.myIdx ∧ 0 < buddyCount mast3.fleetSize
    ∧ mast3.rankOf 0 = some 0 ∧ mast3.myIdx = 0 ∧ buddyRank mast3.fleetSize 1 0 ≠ 1 ∧ mast3.crew.filter (fun n => ([2] : List Nat).contains n && (mast3.rankOf n).isNone) = [2]
    ∧ mast3.crew.filter (fun n => ([] : List Nat).contains n && (mast3.rankOf n).isNone) = [] ∧ mast3.flag fFLAGGED = false
    ∧ ({ crew with rec_ := { waitGo := true } } : State).rec_.waitGo = true ∧ crew.role = 2 ∧ ({ mast3 with mh := { bound := [(1, 2)] } } : State).mh.bound ≠ [] := by decide +kernel
theorem wit_LossesAndGo_mapsOk : mast3.mapsOk := (wf_of _ (by decide) (by decide) rfl (by decide) (by decide) (by decide)).2
/-- A trail packet of page 2^18 of rank 1 to rank 0, which holds groups of rank 1's mirror. -/
def thdr (kind : BitVec 4) : TrailHdr := ⟨kind, 1, 9, 0, 0, 0, 3, 0x40000, 1, 7⟩
def mastT : State := setFlds mast [(fPART 0, 1), (fPART 1, 3)]
theorem wit_Trails : (thdr 0).job.toNat = mast.fld fJOBSTAMP ∧ (thdr 0).dst.toNat = mast.fld fNODEID ∧ (mast.rxOf (thdr 0)).regs = false ∧ (mast.rxOf (thdr 0)).parts = []
    ∧ mast.trailPage 0 0x40000 = some 0x40000 ∧ mastT.trailPage 1 5 = some 0x40005 ∧ mast.trailRx = [] ∧ mast.rec_.stale = [] ∧ (thdr 1).crc ≠ 0 ∧ mast.rec_.rebuild = []
    ∧ mast.rec_.drained = false ∧ ({ crew with rec_ := { drained := true } } : State).rec_.drained = true ∧ crew.holdsRank = true
    ∧ (thdr 3).part ≠ 1 ∧ ({ thdr 3 with rank := 0 } : TrailHdr).rank.toNat = mast.fld fRANK ∧ (thdr 3).rank.toNat ≠ mast.fld fRANK := by decide
theorem wit_Trails_parts : (({ mast with trailRx := [⟨0, 1, [(0x40000, 0, []), (0x40000, 1, []), (0x40000, 2, [])], [], false, false⟩] } : State).rxOf
    { thdr 0 with rank := 0 }).parts = [(0x40000, 0, []), (0x40000, 1, []), (0x40000, 2, [])] := by decide
theorem wit_Takeover : spare.role = 2 ∧ spare.holdsRank = false ∧ 1 < spare.fleetSize ∧ spare.fleetSize ≤ 64 ∧ spare.flag fMRUN = false
    ∧ (setFlds spare [(fMRUN, 1)]).flag fMRUN = true
    ∧ ({ mast3 with mh := { bound := [(1, 2)] } } : State).idxOfRank 1 < 64 ∧ ({ mast3 with mh := { bound := [(1, 2)] } } : State).idxOfRank 1 ≠ 2
    ∧ ({ spare with rec_ := { takenOver := true } } : State).myIdx = (2 : Fin 64).val
    ∧ ({ mast3 with mh := { bound := [(1, 2)] } } : State).mh.bound.find? (fun b => ({ mast3 with mh := { bound := [(1, 2)] } } : State).idxOfRank b.1 = (1 : Fin 64).val) = some (1, 2) := by
  decide
/-- Rank 1 of two is the first buddy of rank 0, whose last trail it holds secured. -/
def crewS : State := { crew with trailRx := [⟨0, 0, [], [], true, true⟩] }
theorem wit_Takeover_source : crewS.role = 2 ∧ crewS.holdsRank = true ∧ (0 : Fin 2).val < buddyCount crewS.fleetSize ∧ buddyRank crewS.fleetSize 0 (0 : Fin 2).val = crewS.fld fRANK
    ∧ crewS.trailRx.any (fun t => t.rank = 0 ∧ t.secured ∧ t.tag = crewS.comm.lastTag) = true := by decide
def ckR (phase retries : Nat) : CkptRun :=
  { gen := 1, cls := 0, slot := 0, tag := 1, stepCnt := 1, sdig := 0, phase := phase, seq := 0, data := [], written := [], cur := some 5, retries := retries,
    needDig := false, paused := false, held := false, regs := RegState.reset }
def nodeCk (phase retries : Nat) : State := { setFlds node0 [(fPART 0, 1), (fPART 1, 2)] with ckpt := some (ckR phase retries), steps := [{ tag := 1 }] }
theorem wit_CheckpointWriter : (nodeCk 2 1).ckpt = some (ckR 2 1) ∧ (ckR 2 1).held = false ∧ (ckR 2 1).retries < 2 ∧ 2 ≤ (ckR 1 2).retries ∧ (ckR 2 1).cur = some 5
    ∧ (ckR 6 0).slot < 2 ∧ (ckR 6 0).gen < 2 ^ 64 ∧ (nodeCk 6 0).role = 0 ∧ (nodeCk 6 0).fleetSize ≤ 1 ∧ (nodeCk 6 0).idxOfRank 0 = (nodeCk 6 0).myIdx
    ∧ ¬ ((ckR 1 0).paused = true ∨ ((ckR 1 0).phase = 5 ∧ (ckR 1 0).needDig = true)) := by decide
theorem wit_CheckpointWriter_mapsOk : (nodeCk 2 1).mapsOk := (wf_of _ (by decide) (by decide) rfl (by decide) (by decide) (by decide)).2
theorem wit_CheckpointWriter_range : node0.slotLba 0 + 1 ≤ (setFlds node0 [(fLKCOUNT, 1)]).fld fLKBASE + (setFlds node0 [(fLKCOUNT, 1)]).fld fLKCOUNT
    ∧ ¬ node0.slotLba 0 + 1 ≤ node0.fld fLKBASE + node0.fld fLKCOUNT := by decide
theorem wit_CheckpointWriter_dma : ({ node0 with ckpt := some { ckR 2 0 with prps := [5] } } : State).ckpt.any
      (fun c => !c.held && (pagesOf (6 * 4096 - 2) (max [1#8, 2#8].length 1)).all c.prps.contains) = true
    ∧ ({ node0 with ckpt := some { ckR 2 0 with prps := [5] } } : State).ckpt.any (fun c => !c.held && (pagesOf (6 * 4096 - 1) (max [1#8, 2#8].length 1)).all c.prps.contains) = false := by
  decide
theorem wit_CowImageCopy : (nodeCk 2 1).steps.any (fun x => x.tag = 1) = true ∧ (nodeCk 2 1).covered 5 = true ∧ (nodeCk 2 1).slotFree ((nodeCk 2 1).stackOf (5 * 4096)) = true
    ∧ (nodeCk 2 1).groupKind (groupOf (5 * 4096)) = 1 ∧ (nodeCk 2 1).ckpt.any (fun c => !c.written.contains 5) = true
    ∧ (setFlds (nodeCk 2 1) [(fPART 1, 0)]).slotFree 0 = false ∧ (nodeCk 2 1).images.any (fun i => i.tag = .step 1 ∧ i.page = 5) = false
    ∧ ([{ tag := 1 }, { tag := 2 }] : List Step).any (fun x => x.tag < 2) = true ∧ ([{ tag := 1 }, { tag := 2 }] : List Step).any (fun x => x.tag < 1) = false := by decide
theorem wit_CheckpointDone : ({ mast with mh := { ckptOpen := true, ckptDone := [0] } } : State).mh.ckptOpen = true ∧ 1 = mast.fld fGEN + 1
    ∧ (List.range (max mast.fleetSize 1)).all (fun r => ([0, 1] : List Nat).contains (mast.idxOfRank r)) = true
    ∧ (List.range (max mast.fleetSize 1)).all (fun r => ([1] : List Nat).contains (mast.idxOfRank r)) = false
    ∧ ({ crew with ckpt := some (ckR 2 0) } : State).ckpt.any (fun c => c.gen = 1) = true := by decide

/-! ## Witnesses: resets, boot and power -/

/-- A node with something in every kind of state that a reset wipes. -/
def dirty (s : State) : State :=
  { setFlds s [(fJOBLOCK, 1), (fEPOCH, 9)] with
    mem := [(5, 1)], spad := [(3, 1)], steps := [{ tag := 1 }], descs := [descOf 1 1 0], spar := [(0, thrI [])], sq := [(1, { tail := 2 })],
    msix := [(71, 0)], pba := [3], images := [img0], coll := { queue := [.ring 1 0] }, pending := [.freeze] }
def withPw (s : State) (f : Power → Power) : State := { s with pw := f s.pw }
def crewM : State := withPw crew (fun p => { p with mast := 5 })
/-- A boot with good copies and no failure, at strap count `n`. -/
def boot0 (strap : Option (Fin 64)) (up : List PortUp) : BootIn := ⟨strap, [], true, none, none, true, true, true, true, up⟩
def booting (warm : Bool) (s : State) : State := withPw s (fun p => { p with booting := true, warm := warm })
/-- A part with a good image in slot A or B: the check of an image is that of its manifest and signatures. -/
def nodeBk (l : List Blk) : State := withPw node0 (fun p => { p with blks := l })
def bigBk (l : List Blk) : State := withPw (setFlds node0 [(⟨0x40040, 8, 4⟩, 8)]) (fun p => { p with blks := l })
theorem wit_ResetsWipe : (dirty node0).wf ∧ (dirty mast).wf ∧ (dirty crewM).wf := ⟨wf_of _ (by decide) (by decide) rfl (by decide) (by decide) (by decide),
  wf_of _ (by decide) (by decide) rfl (by decide) (by decide) (by decide), wf_of _ (by decide) (by decide) rfl (by decide) (by decide) (by decide)⟩
theorem wit_ResetsWipe_supply : (dirty node0).pw.thermtrip = false ∧ (withPw node0 (fun p => { p with thermtrip := true })).pw.thermtrip = true
    ∧ (dirty node0).pw.supplyLow = false ∧ (withPw node0 (fun p => { p with supplyLow := true })).pw.supplyLow = true ∧ (dirty mast).isCrew = false
    ∧ PerstCause.hotReset ≠ .pin ∧ PerstCause.linkDown ≠ .pin ∧ (dirty node0).pw.resetLow = false
    ∧ (withPw node0 (fun p => { p with resetLow := true })).pw.resetLow = true := by decide
theorem wit_ResetsWipe_warm : (dirty node0).pw.booting = false ∧ (dirty node0).pw.blks = [] ∧ (0xA5 : BitVec 64).toNat % 256 = 0xA5
    ∧ (0x1A4 : BitVec 64).toNat % 256 ≠ 0xA5 ∧ (dirty node0).flag fREADY = true ∧ State.reset.flag fREADY = false := by decide
theorem wit_ResetsWipe_job : getBits (0xA50007 : BitVec 64).toNat 16 8 = 0xA5 ∧ getBits (7 : BitVec 64).toNat 16 8 ≠ 0xA5 ∧ (dirty mast).pw.jobBusy = false
    ∧ (dirty mast).pw.mapDamaged = false ∧ (withPw mast (fun p => { p with jobBusy := true })).pw.jobBusy = true
    ∧ (withPw mast (fun p => { p with mapDamaged := true })).pw.mapDamaged = true ∧ crewM.isCrew = true := by decide
theorem wit_JobCommandReceive : (5 : BitVec 12) = ((dirty crewM).arrived (.fleet (.job 3))).nodeAt 0 ∧ (5 : BitVec 12) ≠ 0
    ∧ (6 : BitVec 12) ≠ ((dirty crewM).arrived (.fleet (.job 3))).nodeAt 0 ∧ (dirty crewM).inReset = false
    ∧ (withPw crewM (fun p => { p with jobBusy := true })).inReset = true ∧ (withPw crewM (fun p => { p with mapDamaged := true })).pw.mapDamaged = true := by decide
def busyM (l : List Nat) : State := { withPw mast (fun p => { p with jobBusy := true, jobRequested := true }) with mh := { jobDone := l } }
theorem wit_JobResetDone : (0 : Fin 64).val = (busyM []).myIdx ∧ (busyM []).pw.jobBusy = true ∧ (busyM []).isCrew = false ∧ (1 : Fin 64).val = crew.myIdx
    ∧ (withPw crew (fun p => { p with jobBusy := true })).isCrew = true ∧ (∀ n ∈ (busyM [1]).crew, n ∈ (busyM [1]).mh.jobDone) ∧ (busyM [1]).pw.jobRequested = true
    ∧ (1 : Fin 64).val ≠ mast.myIdx ∧ (1 : Fin 64).val ∈ mast.crew ∧ mast.pw.jobBusy = false ∧ (∀ n ∈ mast.crew, n = (1 : Fin 64).val ∨ n ∈ mast.mh.jobDone) := by decide +kernel

def upP (p : Fin 16) (peer downs : Fin 3) : PortUp := ⟨p, peer, downs, 2, 65535, List.replicate 8 1⟩
/-- The state after power is applied, in which a boot runs, and a WARM reset of a node that has booted. -/
theorem wit_BootReadies : State.reset.wf ∧ (booting true node0).wf := ⟨wf_of _ (by decide) (by decide) rfl (by decide) (by decide) (by decide),
  wf_of _ (by decide) (by decide) rfl (by decide) (by decide) (by decide)⟩
theorem wit_BootReadies_any : State.reset.pw.booting = true ∧ State.reset.pw.readyDue = false ∧ State.reset.pw.supplyLow = false ∧ State.reset.pw.perstLow = false
    ∧ State.reset.pw.resetLow = false ∧ State.reset.pw.thermtrip = false ∧ State.reset.pw.warm = false ∧ (booting true node0).pw.warm = true
    ∧ (booting true node0).pw.readyDue = false ∧ State.reset.flag fBRACE = false ∧ (booting true (setFlds node0 [(fBRACE, 1)])).flag fBRACE = true
    ∧ (boot0 none []).mapCopyA = true ∧ State.reset.lc ≠ 1 ∧ ({ node0 with part := { Part.factory with lcRow0 := 1, lcRow1 := 1 } } : State).lc = 1 ∧ (boot0 (some 60) []).strap.map (fun n => n.val / 4) = some 15
    ∧ (boot0 (some 56) []).strap.map (fun n => n.val / 4) = some 14 ∧ (boot0 none []).strap = none := by decide
def badMap : State := { State.reset with part := { State.reset.part with mramMap := [0x7F] } }
theorem wit_BootReadies_map : (∃ e ∈ badMap.part.map, kindOk (meKind e) = false) ∧ ¬ ∃ e ∈ State.reset.part.map, kindOk (meKind e) = false :=
  ⟨⟨0x7F, List.mem_singleton.mpr rfl, by decide⟩, fun ⟨_, h, _⟩ => nomatch h⟩
theorem wit_BootReadies_ports : (boot0 none [upP 0 2 0, upP 3 0 1]).upPorts.find? (fun u => u.port.val = 1) = none
    ∧ (boot0 none [upP 0 2 0, upP 3 0 1]).upPorts.find? (fun u => u.port.val = 0) = some (upP 0 2 0)
    ∧ (upP 0 2 0).downs.val ≤ min (upP 0 2 0).peer.val (State.reset.fld (fMAXGEN 0))
    ∧ min (upP 3 0 1).peer.val (State.reset.fld (fMAXGEN 3)) < (upP 3 0 1).downs.val := by decide
/-- The image of slot A passes every check; an empty slot passes none. -/
theorem wit_BootReadies_imageA : State.reset.slotCheck 0 = 0 := by decide +kernel
theorem wit_BootReadies_imageB : ({ State.reset with part := { Part.factory with imgA := none, imgB := Part.factory.imgA } } : State).slotCheck 0 ≠ 0
    ∧ ({ State.reset with part := { Part.factory with imgA := none, imgB := Part.factory.imgA } } : State).slotCheck 1 = 0 := by decide +kernel
theorem wit_BootReadies_noImage : ({ State.reset with part := { Part.factory with imgA := none } } : State).slotCheck 0 ≠ 0
    ∧ ({ State.reset with part := { Part.factory with imgA := none } } : State).slotCheck 1 ≠ 0 := by decide +kernel

theorem wit_BlockResets : (nodeBk [⟨5, false⟩]).wf ∧ (bigBk [⟨5, false⟩]).wf := ⟨wf_of _ (by decide) (by decide) rfl (by decide) (by decide) (by decide),
  wf_of _ (by decide) (by decide) rfl (by decide) (by decide) (by decide)⟩
theorem wit_BlockResets_request : blkOk (0 : BitVec 8).toNat = true ∧ blkOk (0x23 : BitVec 8).toNat = true ∧ blkOk (0x30 : BitVec 8).toNat = true ∧ blkOk (0x41 : BitVec 8).toNat = true
    ∧ blkOk (0x24 : BitVec 8).toNat = false ∧ blkOk (0x2F : BitVec 8).toNat = false ∧ blkOk (0x42 : BitVec 8).toNat = false ∧ mast.pw.blks = [] ∧ mast.pw.booting = false
    ∧ mast.pw.jobBusy = false ∧ (busyM []).pw.jobBusy = true := by decide
theorem wit_BlockResets_isolate : ⟨(5 : BitVec 8).toNat, false⟩ ∈ (nodeBk [⟨5, false⟩]).pw.blks ∧ (nodeBk [⟨5, false⟩]).largeClass = false ∧ (bigBk []).largeClass = true
    ∧ (nodeBk [⟨5, false⟩]).blkWork 5 = [] ∧ (nodeBk [⟨5, false⟩]).blkOps 5 = [] ∧ (nodeBk [⟨5, false⟩]).remote.ops = []
    ∧ ((nodeT []).blkWork 0 ≠ [] ∨ (nodeT []).blkOps 0 ≠ []) := by decide
theorem wit_BlockResets_done : ⟨(5 : BitVec 8).toNat, true⟩ ∈ (nodeBk [⟨5, true⟩]).pw.blks ∧ (5 : BitVec 8).toNat < 0x20 ∧ 0x30 ≤ (0x30 : BitVec 8).toNat ∧ (0x3F : BitVec 8).toNat < 0x40
    ∧ node0.portOn ((0x30 : BitVec 8).toNat - 0x30) = true ∧ ⟨(0x40 : BitVec 8).toNat, true⟩ ∈ (nodeBk [⟨0x40, true⟩]).pw.blks := by decide

/-- Port 3 is up, and the node is Furled or Struck. -/
def portUp3 (s : State) : State := { s with ports := [(3, { st := .up, coefs := [1], credits := [5] })] }
def d3M (b : Bool) : State := withPw mast (fun p => { p with d3 := b })
theorem wit_PowerStates : (portUp3 node0).wf ∧ (portUp3 mast).wf ∧ (portUp3 crew).wf := ⟨wf_of _ (by decide) (by decide) rfl (by decide) (by decide) (by decide),
  wf_of _ (by decide) (by decide) rfl (by decide) (by decide) (by decide), wf_of _ (by decide) (by decide) rfl (by decide) (by decide) (by decide)⟩
theorem wit_PowerStates_brace : node0.flag fBRACE = false ∧ (node0.setFld fBRACE 1).flag fBRACE = true
    ∧ (withPw (node0.setFld fBRACE 1) (fun p => { p with readyDue := true, booting := true })).pw.readyDue = true ∧ node0.ckpt = none ∧ node0.isMast = false
    ∧ ({ node0 with ckpt := some (ckR 2 0) } : State).ckpt = some (ckR 2 0) := by decide
theorem wit_PowerStates_limiter : node0.fld fPLIMIT < 2048 ∧ node0.pw.limiter < 4 ∧ ¬ (node0.fld fPLIMIT < 0 ∨ 140 < 140) ∧ 140 < 141 ∧ 10 * 0 < 9 * node0.fld fPLIMIT
    ∧ (withPw node0 (fun p => { p with limiter := 4 })).pw.limiter = 4 ∧ node0.pw.frefLost = false ∧ (withPw node0 (fun p => { p with frefLost := true })).pw.frefLost = true := by decide
theorem wit_PowerStates_furl : crew.isCrew = true ∧ crew.pw.booting = false ∧ crew.fld fPWRSTATE = 0 ∧ (((portUp3 crew).arrived (.fleet .furl)).port 3).st = .up
    ∧ (portUp3 crew).furlSelf.fld fPWRSTATE = 1 ∧ ((portUp3 crew).furlSelf.port 3).furled = true ∧ ((portUp3 crew).furlSelf.port 4).furled = false
    ∧ (portUp3 crew).furlSelf.portOn 3 = true ∧ WakeBy.doorbell ≠ .vc7 := by decide
theorem wit_PowerStates_d3 : mast.isCrew = false ∧ (withPw mast (fun p => { p with booting := true })).pw.booting = true ∧ mast.pw.booting = false ∧ (d3M true).pw.d3 = true
    ∧ mast.pw.d3 = false ∧ mast.fld fPWRSTATE ≠ 2 ∧ (mast.setFld fPWRSTATE 2).fld fPWRSTATE = 2 ∧ (d3M true).stepOpen = false
    ∧ (∀ n ∈ (d3M true).crew, ∃ f ∈ ([1] : List (Fin 64)), f.val = n) ∧ (d3M true).cline = [] ∧ mast.portOn 0 = true ∧ mast.fld fSTRCODE ≠ 12 := by decide +kernel

/-! ## Witnesses: security and lifecycle -/

/-- The booted node with mailbox arguments 0 to 2. -/
def nodeMb (a b c : Nat) : State := setFlds node0 [(⟨0x60008, 0, 64⟩, a), (⟨0x60010, 0, 64⟩, b), (⟨0x60018, 0, 64⟩, c)]
/-- An image of an empty manifest, which fails the first check. -/
def imgBad : FwImage := ⟨0, []⟩
def nodeLc (lc : BitVec 8) (arg : Nat) (sec : Sec) : State :=
  { nodeMb arg 0 0 with part := { Part.factory with lcRow0 := lc, lcRow1 := lc }, regs := ((nodeMb arg 0 0).setFld fRANK 0xFFF).regs, sec := sec }
/-- A challenge of a scope. -/
def chal (scope : Nat) : BitVec 1024 := BitVec.ofNat 1024 (scope <<< 456)
/-- The words of SEC_MBDATA for a response to the challenge of a scope: the record, the key of the private number 7 on P-384, and its signature `sig`. -/
def mbWords (scope sig : Nat) : SM (BitVec 64) :=
  let n := scope <<< 456
    + 0x8cef12c5da4c66649e8fa732de4ed8305622bd1dd02cc9d9299779ed67d8611a4790168cdbef52ba881be46190c97594e1d0b68fb4050f04b2ebb9556f52058b501c7bfa9dcc582dfa5feafb97e96fadfedf4e23bf8e9ff28847ce65731d3c28 <<< 1024
    + sig <<< 1792
  (List.range 40).map (fun k => (0xC200 + k, BitVec.ofNat 64 (n >>> (64 * k))))
def nodeRs (lc : BitVec 8) (scope sig : Nat) : State :=
  let s := nodeLc lc 0 { challenge := some (chal scope) }
  { s with
    regs := s.regs.filter (fun p => p.1 < 0xC200) ++ mbWords scope sig ++ s.regs.filter (fun p => 0xC300 < p.1)
    part := { s.part with
      dbgHash := BitVec.ofNat 384 0xea67cbb8c0aa9c0219a83d3f65a5a9ebe04284823e7b0f1182c17a60ceb893ddac1bf2322aa85a738f9d140c0883f423 } }
def sig1 : Nat := 0xe0a6e4fba440c11d250f85d07d19034e707df140ffec7c232dc4ed4dfd219d699f821a0885510eb67437a8cf288e00acd8ddb4553b6f3526d681fb3a6eb649478c3f2d8914fdc95674c33758ed35e97fc5164890c2ee1eda98b9a77de2569009
def sig2 : Nat := 0x897d6715cce81b2242a05192ce24a5d32a1f02541aaddbda8eb3ca8c6cbea276ef9f92b3cedd40a51864d22e5d8e8b40d8ddb4553b6f3526d681fb3a6eb649478c3f2d8914fdc95674c33758ed35e97fc5164890c2ee1eda98b9a77de2569009
/-- What the response that SEC_MBDATA holds must show. -/
def respOk (s : State) (c : BitVec 1024) : Prop :=
  leNat (s.mbBytes 0 128) = c.toNat ∧ BitVec.ofNat 384 (leNat (Sha.sha384 (s.mbBytes 128 96))) = s.part.dbgHash
    ∧ Sha.ecdsaOk (beNat ((s.mbBytes 128 96).take 48)) (beNat ((s.mbBytes 128 96).drop 48)) (beNat (Sha.sha384 (s.mbBytes 0 128)))
      (beNat (s.mbBytes 224 48)) (beNat (s.mbBytes 272 48)) = true
theorem wit_FirmwareCommands : (nodeMb 0 8192 0).wf ∧ (nodeMb 0 8192 0).pw.booting = false ∧ (nodeMb 0 8192 0).sec.pending = 0
    ∧ (booting false (nodeMb 0 8192 0)).pw.booting = true ∧ ¬ (({ node0 with sec := { pending := 3 } } : State).sec.pending = 0 ∨ ({ node0 with sec := { pending := 3 } } : State).sec.pending = 2) :=
  ⟨wf_of _ (by decide) (by decide) rfl (by decide) (by decide) (by decide), by decide, by decide, by decide, by decide⟩
theorem wit_FirmwareCommands_image : 8192 ≤ (nodeMb 0 8192 0).mbArg 1 ∧ (nodeMb 0 8192 0).mbArg 1 ≤ 56 * 2 ^ 20 ∧ 8192 + FwImage.factory.body.length = (nodeMb 0 8192 0).mbArg 1
    ∧ (nodeMb 0 (56 * 2 ^ 20) 0).mbArg 1 ≤ 56 * 2 ^ 20 ∧ ¬ 8192 ≤ (nodeMb 0 8191 0).mbArg 1 ∧ ¬ (nodeMb 0 (56 * 2 ^ 20 + 1) 0).mbArg 1 ≤ 56 * 2 ^ 20
    ∧ (nodeMb 0 8192 1).mbArg 2 = 1 ∧ 1 < (nodeMb 0 8192 2).mbArg 2 ∧ (setFlds (nodeMb 0 8192 1) [(fIMAGE, 1)]).fld fIMAGE = 1 ∧ (nodeMb 0 8192 1).fld fIMAGE ≠ 1
    ∧ (nodeMb 0 8192 0).winOk false 0 8192 = true ∧ (nodeMb (2 ^ 50) 8192 0).winOk false (2 ^ 50) 8192 = false
    ∧ (nodeMb 0 8192 0).flag fRECOVERY = false ∧ (setFlds (nodeMb 0 8192 0) [(fRECOVERY, 1)]).flag fRECOVERY = true
    ∧ (nodeMb 0 8192 0).imageCheck (some imgBad) ≠ 0 := by decide +kernel
theorem wit_FirmwareCommands_good : (nodeMb 0 8192 0).imageCheck (some FwImage.factory) = 0 := by decide +kernel
theorem wit_FirmwareCommands_both : ({ node0 with part := { Part.factory with imgB := some FwImage.factory } } : State).part.imgB = some FwImage.factory
    ∧ ({ node0 with part := { Part.factory with imgB := some FwImage.factory } } : State).slotCheck 1 = 0 ∧ node0.slotCheck 1 ≠ 0 := by decide +kernel
theorem wit_FirmwareCommands_others : (nodeMb 4 0 0).mbArg 0 = 4 ∧ (nodeMb 3 0 0).mbArg 0 ≤ 3 ∧ (nodeMb 0 0 0).part.imgA.bind (nodeMb 0 0 0).part.slotOf = some ((nodeMb 0 0 0).mbArg 0)
    ∧ (nodeMb 3 0 0).part.imgA.bind (nodeMb 3 0 0).part.slotOf ≠ some ((nodeMb 3 0 0).mbArg 0) ∧ (nodeMb 3 0 0).part.imgB.bind (nodeMb 3 0 0).part.slotOf ≠ some ((nodeMb 3 0 0).mbArg 0)
    ∧ (nodeMb 0 0 0).mbArg 0 = 0 ∧ 0xFFF < (nodeMb 0x1000 0 0).mbArg 0 ∧ 1 ≤ (nodeMb 1 0 0).mbArg 0 ∧ (nodeMb 0xFFF 0 0).mbArg 0 ≤ 0xFFF ∧ (nodeMb 1 0 0).lc ≠ 0x1F
    ∧ ({ nodeMb 1 0 0 with part := { Part.factory with lcRow0 := 0x1F, lcRow1 := 0x1F } } : State).lc = 0x1F := by decide +kernel

def spdm (lc : BitVec 8) : State := { node0 with sec := { spdmVer := true, spdmCaps := true, spdmAlg := true }, part := { Part.factory with lcRow0 := lc, lcRow1 := lc } }
theorem wit_AttestationAndSpdm : (spdm 7).wf ∧ (booting true node0).pw.booting = true ∧ (booting true node0).isCrew = false ∧ (spdm 7).pw.booting = false ∧ (spdm 7).sec.pending = 0
    ∧ (spdm 7).isCrew = false ∧ (spdm 7).sec.spdmAlg = true ∧ (spdm 7).lc ≠ 0x1F ∧ (spdm 0x1F).lc = 0x1F ∧ node0.sec.spdmVer = false ∧ node0.sec.spdmAlg = false :=
  ⟨wf_of _ (by decide) (by decide) rfl (by decide) (by decide) (by decide), by decide, by decide, by decide, by decide, by decide, by decide, by decide, by decide, by decide, by decide⟩
theorem wit_AttestationAndSpdm_lengths : (spdm 7).report.length ≤ 4096 ∧ 13 ≤ 13 ∧ 13 ≠ 0xFF ∧ 1 ≤ 12 := by decide +kernel
theorem wit_AttestationAndSpdm_certs : 0 ≤ (spdm 7).certs.length ∧ (spdm 7).certs.length < (spdm 7).certs.length + 1 := ⟨Nat.zero_le _, Nat.lt_succ_self _⟩

theorem wit_DebugAndLifecycle : (nodeLc 7 1 {}).wf ∧ (nodeLc 7 1 {}).pw.booting = false ∧ (nodeLc 7 1 {}).sec.pending = 0 ∧ (nodeMb 0 0 0).mbArg 0 = 0 ∧ 3 < (nodeMb 4 0 0).mbArg 0
    ∧ (nodeLc 7 1 {}).lcOpens = true ∧ (nodeLc 7 3 {}).mbArg 0 ≤ 3 ∧ (nodeLc 7 1 {}).flag fDBGLOCK = false ∧ (nodeLc 1 1 {}).lcOpens = false
    ∧ (setFlds (nodeLc 7 1 {}) [(fDBGLOCK, 1)]).flag fDBGLOCK = true ∧ (nodeLc 7 0 {}).sec.challenge = none :=
  ⟨wf_of _ (by decide) (by decide) rfl (by decide) (by decide) (by decide), by decide, by decide, by decide, by decide, by decide, by decide, by decide, by decide, by decide, by decide⟩
/-- A response that fails: SEC_MBDATA of zeros. -/
theorem wit_DbgResponse : (nodeLc 7 0 { challenge := some (chal 2) }).sec.challenge = some (chal 2) ∧ getBits (chal 2).toNat 456 8 ≠ 1 ∧ getBits (chal 1).toNat 456 8 = 1
    ∧ ¬ leNat ((nodeLc 7 0 {}).mbBytes 0 128) = (chal 2).toNat ∧ 2 ≤ (setFlds (nodeLc 7 0 {}) [(fFAILS, 2)]).fld fFAILS
    ∧ (setFlds (nodeLc 7 0 {}) [(fRANK, 0)]).lc = 7 ∧ (setFlds (nodeLc 7 0 {}) [(fRANK, 0)]).lcRefused = true ∧ (nodeLc 7 0 {}).lcRefused = false
    ∧ (setFlds (nodeLc 7 0 {}) [(fDBGLOCK, 1)]).flag fDBGLOCK = true := by decide +kernel
/-- The right responses to a challenge of scope 2 and of scope 1. -/
theorem wit_DbgResponse_right : respOk (nodeRs 7 2 sig2) (chal 2) := by unfold respOk; decide +kernel
theorem wit_DbgResponse_debug : respOk (nodeRs 7 1 sig1) (chal 1) ∧ (nodeRs 7 1 sig1).lc = 7 ∧ (nodeRs 3 1 sig1).lc ≠ 7 := by unfold respOk; decide +kernel
theorem wit_DbgClose : (nodeLc 3 0 { debug := true }).lc ≠ 7 ∧ (nodeLc 7 0 {}).sec.debug = false ∧ (nodeLc 7 0 { debug := true }).lc = 7
    ∧ (nodeLc 7 0 { debug := true }).sec.debug = true ∧ (nodeLc 7 0 { debug := true }).lcRefused = false ∧ (nodeLc 7 0 { debug := true }).sec.sealPend = false := by decide
theorem wit_LcAdvance : node0.lcRefused = true ∧ (nodeLc 7 3 {}).lcRefused = false
    ∧ ((nodeLc 7 3 {}).lc, (nodeLc 7 3 {}).mbArg 0) ∉ [(1, 3), (3, 7), (7, 0x0F), (0x0F, 0x1F), (3, 0x1F), (7, 0x1F)] ∧ (nodeLc 1 3 {}).lc = 1 ∧ (nodeLc 1 3 {}).mbArg 0 = 3
    ∧ ({ nodeLc 1 3 {} with part := { (nodeLc 1 3 {}).part with certA := none, certB := none } } : State).part.certB = none
    ∧ (nodeLc 7 0x0F { auth := 3 }).sec.auth ≠ 2 ∧ (nodeLc 7 0x0F { auth := 3 }).mbArg 0 = 0x0F ∧ (nodeLc 3 0x1F { auth := 2 }).sec.auth ≠ 3 ∧ (nodeLc 3 0x1F { auth := 2 }).mbArg 0 = 0x1F := by
  decide
theorem wit_LcAdvance_moves : (nodeLc 1 3 {}).part.certA.isSome = true ∧ (nodeLc 3 7 {}).lc = 3 ∧ (nodeLc 3 7 {}).mbArg 0 = 7 ∧ (nodeLc 7 0x0F { auth := 2 }).sec.auth = 2
    ∧ (nodeLc 0x0F 0x1F {}).lc = 0x0F ∧ (nodeLc 0x0F 0x1F {}).mbArg 0 = 0x1F ∧ (nodeLc 3 0x1F { auth := 3 }).sec.auth = 3 ∧ (nodeLc 7 0x1F { auth := 3 }).lc = 7 := by decide
/-- The password 5, where the fuses hold the hash of it and where they do not. -/
def nodePw (lc : BitVec 8) : State := { nodeLc lc 0 {} with part := { (nodeLc lc 0 {}).part with pwHash := BitVec.ofNat 384 (leNat (Sha.sha384 (leBytes 32 (5 : BitVec 256).toNat))) } }
theorem wit_Pwunlock : (nodePw 1).lcOpens = false ∧ (nodePw 3).lcOpens = true ∧ (setFlds (nodePw 3) [(fDBGLOCK, 1)]).flag fDBGLOCK = true ∧ (nodePw 3).flag fDBGLOCK = false
    ∧ (setFlds (nodePw 7) [(fRANK, 0)]).lcRefused = true ∧ (nodePw 7).lc = 7 ∧ (nodePw 7).lcRefused = false ∧ (nodePw 3).lc ≠ 7 := by decide +kernel
theorem wit_Pwunlock_hash : BitVec.ofNat 384 (leNat (Sha.sha384 (leBytes 32 (5 : BitVec 256).toNat))) = (nodePw 3).part.pwHash
    ∧ BitVec.ofNat 384 (leNat (Sha.sha384 (leBytes 32 (0 : BitVec 256).toNat))) ≠ (nodeLc 3 0 {}).part.pwHash := by decide +kernel
theorem wit_DbgNonceExpiry : (nodeLc 7 0 { challenge := some (chal 2) }).sec.challenge.isSome = true := by decide
/-- A step that answers a next state: the one that revokes a key. -/
theorem wit_FusesOnlyGrow : ∃ t, step { nodeMb 3 0 0 with pending := [.revoke] } = .next t := ⟨_, rfl⟩

/-! ## Witnesses: the telltale recorder and the SMBus target -/

def recT (seq : Nat) : TRec := ⟨1, 2, false, 0xF0, 0, 0, BitVec.ofNat 64 seq, 0, 0, 0, 0, 0, 0, []⟩
/-- A node whose ring holds records 0 to `n`, of which `store` are in the store, with `queue` waiting and a flush to `fl`. -/
def nodeTt (ring queue store : Nat) (pend : Nat) (fl : Option (BitVec 32)) : State :=
  { setFlds node0 [(fWRCNT, ring), (fFLCNT, store)] with
    tt := { ring := (List.range ring).map recT, queue := (List.range queue).map (fun k => recT (ring + k)), store := (List.range store).map recT,
            pendMerge := pend, flush := fl, seq := BitVec.ofNat 64 (ring + queue) } }
def frozenTt (queue pend : Nat) : State := (nodeTt 3 queue 0 pend none).setFld fFROZEN 1
theorem wit_TelltaleCommands : (nodeTt 3 0 1 0 none).wf ∧ (nodeTt 3 0 1 0 none).pw.booting = false ∧ (nodeTt 3 0 1 0 none).pw.blks = [] ∧ (frozenTt 5 2).wf :=
  ⟨wf_of _ (by decide) (by decide) rfl (by decide) (by decide) (by decide), rfl, rfl, wf_of _ (by decide) (by decide) rfl (by decide) (by decide) (by decide)⟩
theorem wit_Fire : node0.flag fFROZEN = false ∧ getBits (0x5000000FF : BitVec 64).toNat 0 10 < 0x100 ∧ ¬ getBits (0x500000100 : BitVec 64).toNat 0 10 < 0x100
    ∧ node0.flag (fTrigEn (getBits (0x500000100 : BitVec 64).toNat 0 10)) = true
    ∧ ¬ (getBits (0x500000123 : BitVec 64).toNat 0 10 < 0x100 ∨ (setFlds node0 [(fTrigEn 0x123, 0)]).flag (fTrigEn (getBits (0x500000123 : BitVec 64).toNat 0 10)) = true)
    ∧ (frozenTt 31 2).flag fFROZEN = true ∧ (frozenTt 31 2).tt.queue.length < 32 ∧ 32 ≤ (frozenTt 32 2).tt.queue.length := by decide +kernel
theorem wit_Thaw : (frozenTt 5 0).tt.pendMerge = 0 ∧ (frozenTt 5 2).tt.queue ≠ [] ∧ (frozenTt 5 0).tt.ring.length + (frozenTt 5 0).tt.queue.length ≤ 2048
    ∧ (frozenTt 0 7).tt.pendMerge ≠ 0 ∧ (frozenTt 0 7).tt.queue = [] ∧ (frozenTt 0 7).tt.ring.getLast? = some (recT 2) ∧ node0.flag fFROZEN = false := by decide
theorem wit_TelltaleFlush : (nodeTt 3 0 1 0 (some 3)).tt.flush = some 3 ∧ (nodeTt 3 0 1 0 (some 3)).flag fFROZEN = false ∧ (nodeTt 3 0 1 0 (some 3)).tt.marked = []
    ∧ (3 : BitVec 32).toNat = (nodeTt 3 0 1 0 (some 3)).fld fWRCNT ∧ ((3 : BitVec 32).toNat + 2 ^ 32 - (nodeTt 3 0 1 0 (some 3)).fld fFLCNT) % 2 ^ 32 ≤ (nodeTt 3 0 1 0 (some 3)).tt.ring.length
    ∧ ((3 : BitVec 32).toNat + 2 ^ 32 - (nodeTt 3 0 1 0 (some 3)).fld fFLCNT) % 2 ^ 32 < 2 ^ 31
    ∧ (nodeTt 3 0 1 0 (some 3)).tt.store.length + ((3 : BitVec 32).toNat + 2 ^ 32 - (nodeTt 3 0 1 0 (some 3)).fld fFLCNT) % 2 ^ 32 ≤ 32768
    ∧ (nodeTt 3 0 1 0 (some 3)).tt.flush.isSome = true ∧ node0.tt.flush.isSome = false := by decide
/-- A ring of one record, not yet in the store: every SEQ is its own. -/
theorem wit_TelltaleFlush_seqs : ((nodeTt 1 0 0 0 (some 1)).tt.store ++ (nodeTt 1 0 0 0 (some 1)).tt.ring).Pairwise (fun a b => a.seq ≠ b.seq)
    ∧ (nodeTt 1 0 0 0 (some 1)).tt.flush = some 1 ∧ (1 : BitVec 32).toNat = (nodeTt 1 0 0 0 (some 1)).fld fWRCNT := by decide
theorem wit_TelltaleReads : ((3 : BitVec 32).toNat + 2 ^ 32 - (nodeTt 3 0 1 0 none).fld fRDCNT) % 2 ^ 32 ≤ ((nodeTt 3 0 1 0 none).fld fWRCNT + 2 ^ 32 - (nodeTt 3 0 1 0 none).fld fRDCNT) % 2 ^ 32
    ∧ ((nodeTt 3 0 1 0 none).fld fWRCNT + 2 ^ 32 - (nodeTt 3 0 1 0 none).fld fRDCNT) % 2 ^ 32 < ((4 : BitVec 32).toNat + 2 ^ 32 - (nodeTt 3 0 1 0 none).fld fRDCNT) % 2 ^ 32
    ∧ getBits (0xA50000 : BitVec 64).toNat 16 8 = 0xA5 ∧ getBits (0xA40000 : BitVec 64).toNat 16 8 ≠ 0xA5 := by decide
theorem wit_SmbusTarget : node0.pw.vauxOff = false ∧ node0.isOff = false ∧ (withPw node0 (fun p => { p with supplyLow := true })).isOff = true
    ∧ (withPw node0 (fun p => { p with avgW := some 77 })).pw.avgW = some 77 ∧ ({ node0 with temps := { node0.temps with tileJ := [5, 9] } } : State).temps.tileJ ≠ []
    ∧ ({ node0 with alertCause := 2 } : State).alertCause &&& node0.alertMask ≠ 0 ∧ node0.alertCause &&& node0.alertMask = 0 := by decide

/-! ## The spec's worked examples -/

/-- Table: scalar conversion examples (03): 0.3, 500, 496, 0.001, −0, −∞ and NaN to EQ8a, with the flags it names. -/
theorem test_convert_eq8a : ([0x3E99999A, 0x43FA0000, 0x43F80000, 0x3A83126F, 0x80000000, 0xFF800000].map (Fp.convert .fp32 .eq8a .rne))
      = [(0x2A, 0x10), (0x7F, 0x30), (0x7F, 0x30), (0x01, 0x18), (0, 0), (0xFF, 0x20)]
    ∧ (Fp.convert .fp32 .eq8a .rne 0x7FC00000).1 = 0x80 := by decide
/-- The same to EQ8b. -/
theorem test_convert_eq8b : ([0x3E99999A, 0x43FA0000, 0x43F80000, 0x3A83126F, 0x80000000, 0xFF800000].map (Fp.convert .fp32 .eq8b .rne))
      = [(0x35, 0x10), (0x60, 0x10), (0x60, 0x10), (0x14, 0x10), (0, 0), (0xFF, 0x20)]
    ∧ (Fp.convert .fp32 .eq8b .rne 0x7FC00000).1 = 0x80 := by decide
/-- The values of those patterns: 0x2A and 0x35 are 0.3125, 0x7F is 480 and 0x60 is 512. -/
theorem test_decode_eq8 : Fp.convert .eq8a .fp32 .rne 0x2A = (0x3EA00000, 0) ∧ Fp.convert .eq8b .fp32 .rne 0x35 = (0x3EA00000, 0)
    ∧ Fp.convert .eq8a .fp32 .rne 0x7F = (0x43F00000, 0) ∧ Fp.convert .eq8b .fp32 .rne 0x60 = (0x44000000, 0)
    ∧ Fp.convert .eq8b .fp32 .rne 0xFF = (0xC7E00000, 0) := by decide
/-- The dominant-element block (03) in FP32. -/
def domBlock : List Fp.Val :=
  ([0x42C80000, 0x40400000, 0xC1400000, 0x41C00000, 0, 0, 0, 0, 0x40A00000, 0xC0600000, 0x40100000, 0x3F800000, 0xBF19999A, 0x40800000, 0, 0xC0000000,
    0x3CA3D70A, 0xBC23D70A, 0x3BA3D70A, 0x3C75C28F, 0, 0, 0, 0, 0, 0, 0, 0, 0, 0, 0, 0] : List Nat).map (Fp.decode .fp32)
theorem test_encode_eb4_class3 : (Fp.encodeBlock .eb4 3 domBlock).bytes
      = [0x06, 0x29, 0, 0, 0xA2, 0x01, 0x20, 0x90, 0, 0, 0, 0, 0, 0, 0, 0, 0x23, 0x3C] ∧ (Fp.encodeBlock .eb4 3 domBlock).uf = 7
    ∧ (Fp.encodeBlock .eb4 3 domBlock).fl = 0x18 := by decide
theorem test_encode_eb4_class2 : (Fp.encodeBlock .eb4 2 domBlock).bytes.take 8 = [0x06, 0x29, 0, 0, 0xA3, 0x11, 0x20, 0x90]
    ∧ (Fp.encodeBlock .eb4 2 domBlock).uf = 6 := by decide
/-- A block of zeros of both signs (03) is the canonical zero block. -/
theorem test_encode_zero_block : (Fp.encodeBlock .eb4 3 (List.replicate 32 (Fp.decode .fp32 0x80000000))).bytes = List.replicate 16 0 ++ [0x40, 0] := by decide
/-- Three wide partials whose sum is N = 2^54 close to 2^−18 (04). -/
theorem test_wide_close : Fp.encode .fp32 (Mx.wideClose .fp32 (Mx.wideDot {} [Fp.decode .eq8a 0x7F, Fp.decode .eq8a 0x01, Fp.decode .eq8a 0x7F]
      [Fp.decode .eq8a 0x7F, Fp.decode .eq8a 0x01, Fp.decode .eq8a 0xFF])).v = 0x36800000
    ∧ (Mx.wideDot {} [Fp.decode .eq8a 0x01] [Fp.decode .eq8a 0x01]).n = 2 ^ 54 := by decide
/-- Four ranks' terms of 2^24 and three ones, added as plan 0x0001 and as plan 0x0002 do (12). -/
theorem test_collective_plans :
    let term := fun (w : Nat) => leBytes 4 w
    let one := term 0x3F800000
    (chunkAcc rawSum (some (chunkAcc rawSum (some (chunkAcc rawSum (some ⟨term 0x4B800000, 0, []⟩) one)) one)) one).bytes = term 0x4B800000
      ∧ (chunkAcc rawSum (some (chunkAcc rawSum (some ⟨term 0x4B800000, 0, []⟩) one)) (chunkAcc rawSum (some ⟨one, 0, []⟩) one).bytes).bytes = term 0x4B800001 := by
  decide
/-- 0x12_3456_7A40 lies in stack 4 when its group 8 is LOCAL and in stack 29 when it is SPREAD (09). -/
theorem test_stack_of : node0.stackOf 0x1234567A40 = 4 ∧ (node0.setFld fSPREAD 0x100).stackOf 0x1234567A40 = 29
    ∧ (node0.setFld fSPREAD 0x100).stackOf 0x1234569A40 = 26 ∧ groupOf 0x1234567A40 = 8 := by decide
/-- MODE_BID0 and MODE_BID1 of the C0 node in exact mode under plan 2, firmware level 0x12, fleet size 16 (21), under imposition (14). -/
def nodeBid : State :=
  { setFlds node0 [(fEXACT, 1), (fPLAN, 2), (fFLEETSZ, 16)] with sec := { running := some ⟨BitVec.ofNat 65536 (0x12 <<< 48), []⟩ } }
theorem test_bid : nodeBid.bid.extractLsb' 0 64 = 0x0010000200123301 := by decide +kernel
/-- Rank 9 of 24 has the buddies 10 and 21 (15). -/
theorem test_buddies : buddyCount 24 = 2 ∧ buddyRank 24 9 0 = 10 ∧ buddyRank 24 9 1 = 21 := by decide
/-- The gather's element 37 (07) lies outside SPAR_BOUND0 as chapter 21 writes it, and the last bytes of the bound inside. -/
def nodeGb : State := (node0.setWord 0x200000 0x0000001000000001).setWord 0x200008 0x00000017FFFFF000
theorem test_bounds : nodeGb.inBounds 0x1800000100 8 = false ∧ nodeGb.inBounds 0x17FFFFFFF8 8 = true ∧ nodeGb.inBounds 0x1000000000 8 = true
    ∧ nodeGb.inBounds 0xFFFFFFFFC 8 = false := by decide
/-- The derived counter's fields, and next_ctr's carry from bit 25 into bit 64 (R214). -/
theorem test_derived_counter : Rng.derive 5 3 2 1 31 511 = 5 <<< 64 + 3 <<< 58 + 2 <<< 44 + 1 <<< 40 + 31 <<< 35 + 511 <<< 26
    ∧ Rng.nextCtr (5 <<< 64 + 2 ^ 26 - 1) = 6 <<< 64 ∧ Rng.nextCtr (5 <<< 64 + 7 <<< 26 + 4) = 5 <<< 64 + 7 <<< 26 + 5 := by decide
/-- The codes 14 and 15 and an open strap outside MANUFACTURE (R543, R544). -/
theorem test_straps : strapOf 7 none = (15, 0, true, false) ∧ strapOf 7 (some 57) = (14, 12, false, true) ∧ strapOf 7 (some 60) = (15, 0, false, false)
    ∧ strapOf 7 (some 35) = (8, 8, false, false) ∧ roleOf 8 = 1 := by decide

/-- Bits written out from the request header's table (11): ROP 2 of 8 bytes from node 9 to node 0x123, offset 0x40, SEQ 7, tag 1. -/
theorem test_request_header : ({ req0 2 3 with dst := 0x123, seq := 7 } : Request).header
      = 2 + 3 <<< 4 + 9 <<< 16 + 0x123 <<< 28 + 0x40 <<< 64 + 7 <<< 128 + 1 <<< 192 := by decide

/-! ## Steps -/

/-- A set of MODE_ARITH.EXACT while a step is uncommitted ends with MODE_REFUSED, RESULT 0x1401 (21). -/
theorem test_setup_refused : (match exec (.setup (.ring 0 0) []) { nodeI (rawS 0x30000 1 1) with steps := [{ tag := 1 }] } with
    | .next t => (t.out.head?, t.fld fEXACT)
    | _ => (none, 7)) = (some ((nodeI (rawS 0x30000 1 1)).recWrite 0 0 (descOf 0 0 (rawS 0x30000 1 1)) 0x0107 0x1401), 0) := by decide
/-- The same with no step uncommitted sets it. -/
theorem test_setup_done : (match exec (.setup (.ring 0 0) [1 <<< 128 + 0x30000 + 1 <<< 64, 2 <<< 64 + 0xFFFF <<< 128 + 0x30008]) (nodeI (rawOf 2 5 0 0 0 0 0x1000 2)) with
    | .next t => (t.fld fEXACT, t.fld fPLAN)
    | _ => (7, 7)) = (1, 2) := by decide
/-- An empty queue idles, and no word of the table spells a command. -/
theorem test_idle : step State.reset = .next State.reset ∧ decodeTableWord 32 0 = none ∧ (node0.withFetchWord 32 0) = node0 := ⟨rfl, rfl, rfl⟩
/-- A NOP of a step finishes with OK; the queue's rest stays. -/
theorem test_nop : (match step { node1 (rawOf 0 0 0 0 0 0 0 0) with pending := [.nop (.ring 1 0), .freeze] } with
    | .next t => ((t.desc? (.ring 1 0)).map (fun d => (d.st, d.status)), t.pending)
    | _ => (none, [])) = (some (.finished, 0), [.freeze]) := by decide

/-! ## WellFormed refuses an ill-formed command of each kind of check -/

theorem test_wf_mmio : WellFormed (.doorbellTail 0 0x1000 true 0) = false ∧ WellFormed (.doorbellHead 0 0x404 true 0) = false
    ∧ WellFormed (.registerWrite .host 2 false 0) = false ∧ WellFormed (.registerWrite .host 0x10608 true 0) = true := by decide
theorem test_wf_windows : WellFormed (.crewWindowRead 0xFFFFF8 true) = false ∧ WellFormed (.crewWindowWrite 0x2000000 true 0) = false
    ∧ WellFormed (.crewWindowRead 0x1000000 true) = true := by decide
theorem test_wf_lists : WellFormed (.descriptorFetch 0 []) = false ∧ WellFormed (.setup (.ring 0 0) (List.replicate 257 0)) = false
    ∧ WellFormed (.unitReport (.ring 0 0) (List.replicate 257 0)) = false ∧ WellFormed (.fleetMap [8192] 0 0) = false
    ∧ WellFormed (.fleetMap (List.replicate 65 0) 0 0) = false := by decide
theorem test_wf_tags : WellFormed (.stepDone 0) = false ∧ WellFormed (.stepDoneReceive 0 4096 1 false 0 0) = false ∧ WellFormed (.commitApply 0 []) = false
    ∧ WellFormed (.bidHashReport 0 4096 0) = false ∧ WellFormed (.spareBind 4096 0 0 0 [] [] []) = false := by decide
theorem test_wf_headers : WellFormed (.collGrant 0 { hdr0 with seq := 2 ^ 32 }) = false ∧ WellFormed (.collMarker 0 { hdr0 with chunk := 2 ^ 24 }) = false
    ∧ WellFormed (.collData 0 hdr0 (List.replicate 1025 0)) = false ∧ WellFormed (.secured 0 { thdr 2 with part := 4 }) = false
    ∧ WellFormed (.resend 0 { thdr 3 with page := 2 ^ 27 }) = false ∧ WellFormed (.trailPacketReceive 0 (thdr 0) (List.replicate 1025 0)) = false := by decide
theorem test_wf_remote : WellFormed (.remoteRequestReceive 0 { req0 0 0 with rop := 16 }) = false ∧ WellFormed (.remoteRequestReceive 0 (req0 0 8)) = false
    ∧ WellFormed (.deferResend 9 (2 ^ 32)) = false ∧ WellFormed (.tdeadExpiry 9 (2 ^ 32)) = false ∧ WellFormed (.atomicUnitApply 0 (2 ^ 34) []) = false
    ∧ WellFormed (.sectorBufferWriteback 0 (2 ^ 34)) = false ∧ WellFormed (.combinerWindowClose 0 (2 ^ 39)) = false := by decide
theorem test_wf_training : WellFormed (.portTrainingDone 0 (.up 2 2 65536 (List.replicate 8 1))) = false ∧ WellFormed (.portTrainingDone 0 (.up 2 2 65535 [1])) = false
    ∧ WellFormed (.boot (boot0 none [⟨0, 2, 0, 2, 65536, List.replicate 8 1⟩])) = false ∧ WellFormed (.boot (boot0 none [upP 0 2 0])) = true := by decide
theorem test_wf_others : WellFormed (.xferComplete 0 0 8 []) = false ∧ WellFormed (.flitReceive 0 0 [] 0 (flit0 4096 0 0 [])) = false
    ∧ WellFormed (.flitReceive 0 0 [8, 8] 0 (flit0 0 0 0 [])) = false ∧ WellFormed (.fabricBeat 0 ⟨0, 0, 0, 9⟩ 0 0) = false
    ∧ WellFormed (.collWorkUnit 0 11 0 0 0 .write []) = false ∧ WellFormed (.notOpen 0 1024 0) = false
    ∧ WellFormed (.thermalSensorRead ⟨[], [], 0, 0, 0⟩) = false ∧ WellFormed (.patrolScrubRead 0 (2 ^ 29) [⟨0, 0⟩] none none) = false
    ∧ WellFormed (.patrolScrubRead 0 0 [] none none) = false
    ∧ WellFormed (.cowImageCopy (.step 1) (2 ^ 27) []) = false ∧ WellFormed (.getMeasurements 256) = false ∧ WellFormed (.getCertificate 8 0 0) = false
    ∧ WellFormed (.challenge 8 0) = false := by decide

end Sys2Proof.Tests
end

section
/-! Scalar formats: patterns by their fields, and the conversions of infinities, NaNs and zeros (R80 to R82, R92). -/

namespace Sys2Proof.Fp

/-- The pattern of a sign, an exponent field and a fraction field. -/
def packed (f : Fmt) (s : Bool) (e m : Nat) : Nat := s.toNat * 2 ^ (f.width - 1) + e * 2 ^ f.frac + m

theorem exists_packed {f : Fmt} {p : Nat} (hp : p < 2 ^ f.width) :
    ∃ s e m, e < 2 ^ f.ebits ∧ m < 2 ^ f.frac ∧ p = packed f s e m := by
  refine ⟨p.testBit (f.width - 1), p % 2 ^ (f.width - 1) / 2 ^ f.frac, p % 2 ^ f.frac, ?_⟩
  rw [packed, Nat.toNat_testBit]
  cases f <;> simp only [Fmt.width, Fmt.ebits, Fmt.frac] at hp ⊢ <;> omega

section Fields
variable {f : Fmt} {e m : Nat} (s : Bool) (he : e < 2 ^ f.ebits) (hm : m < 2 ^ f.frac)
include he hm

theorem packed_lt : packed f s e m < 2 ^ f.width := by
  have hs := s.toNat_le
  cases f <;> simp only [packed, Fmt.width, Fmt.ebits, Fmt.frac] at he hm ⊢ <;> omega

theorem testBit_packed_sign : (packed f s e m).testBit (f.width - 1) = s := by
  have hs := s.toNat_le
  have hbit : packed f s e m / 2 ^ (f.width - 1) % 2 = s.toNat := by
    cases f <;> simp only [packed, Fmt.width, Fmt.ebits, Fmt.frac] at he hm ⊢ <;> omega
  rw [Nat.testBit_eq_decide_div_mod_eq, hbit]
  cases s <;> rfl

theorem getBits_packed_exp : getBits (packed f s e m) f.frac f.ebits = e := by
  rw [getBits, Nat.shiftRight_eq_div_pow]
  cases f <;> simp only [packed, Fmt.width, Fmt.ebits, Fmt.frac] at he hm ⊢ <;> omega

theorem getBits_packed_frac : getBits (packed f s e m) 0 f.frac = m := by
  rw [getBits, Nat.shiftRight_zero]
  cases f <;> simp only [packed, Fmt.width, Fmt.ebits, Fmt.frac] at he hm ⊢ <;> omega

theorem packed_eq_minusZero_iff : packed f s e m = 2 ^ (f.width - 1) ↔ s = true ∧ e = 0 ∧ m = 0 := by
  have hs := s.toNat_le
  rw [← Bool.toNat_eq_one]
  cases f <;> simp only [packed, Fmt.width, Fmt.ebits, Fmt.frac] at he hm ⊢ <;> omega

/-- R79, R88: what a pattern decodes to, by its fields. -/
theorem decode_packed : decode f (packed f s e m) =
    if f.ieee ∧ e = 2 ^ f.ebits - 1 then (if m = 0 then .inf s else .nan (!m.testBit (f.frac - 1)))
    else if ¬ f.ieee ∧ s = true ∧ e = 0 ∧ m = 0 then .qnan
    else if e = 0 then .fin s m f.qmin
    else .fin s (2 ^ f.frac + m) ((e : Int) - f.bias - f.frac) := by
  simp only [decode, Nat.mod_eq_of_lt (packed_lt s he hm), testBit_packed_sign s he hm, getBits_packed_exp s he hm,
    getBits_packed_frac s he hm, packed_eq_minusZero_iff s he hm]

end Fields

theorem decode_packed_subnormal {f : Fmt} {m : Nat} (s : Bool) (hm : m < 2 ^ f.frac) (hm0 : m ≠ 0) :
    decode f (packed f s 0 m) = .fin s m f.qmin := by
  have htop : 0 ≠ 2 ^ f.ebits - 1 := by cases f <;> decide
  simp [decode_packed s (Nat.two_pow_pos f.ebits) hm, htop, hm0]

theorem decode_packed_normal {f : Fmt} {e m : Nat} (s : Bool) (he : e < 2 ^ f.ebits) (hm : m < 2 ^ f.frac) (h0 : e ≠ 0)
    (htop : f.ieee = true → e ≠ 2 ^ f.ebits - 1) :
    decode f (packed f s e m) = .fin s (2 ^ f.frac + m) ((e : Int) - f.bias - f.frac) := by
  rw [decode_packed s he hm, if_neg (fun ⟨hi, h⟩ => htop hi h), if_neg (fun ⟨_, _, h, _⟩ => h0 h), if_neg h0]

/-! R80 -/

/-- R80: setting the sign bit of an EQ8 pattern that is not 0 negates its value. -/
theorem decode_packed_negate {f : Fmt} {e m : Nat} (hf : f.ieee = false) (he : e < 2 ^ f.ebits) (hm : m < 2 ^ f.frac)
    (h0 : ¬ (e = 0 ∧ m = 0)) : decode f (packed f true e m) = (decode f (packed f false e m)).negate := by
  rw [decode_packed _ he hm, decode_packed _ he hm]
  by_cases hz : e = 0
  · have hm0 : m ≠ 0 := fun h => h0 ⟨hz, h⟩
    simp [hf, hz, hm0, Val.negate, Val.withSign, Val.neg]
  · simp [hf, hz, Val.negate, Val.withSign, Val.neg]

theorem ieee_of_eq8 {f : Fmt} (hf : f = .eq8a ∨ f = .eq8b) : f.ieee = false := by
  rcases hf with rfl | rfl <;> rfl
theorem width_of_eq8 {f : Fmt} (hf : f = .eq8a ∨ f = .eq8b) : f.width = 8 := by
  rcases hf with rfl | rfl <;> rfl

theorem decode_eq8_negative {f : Fmt} {p : Nat} (hf : f = .eq8a ∨ f = .eq8b) (hlo : 0x80 < p) (hhi : p < 0x100) :
    decode f p = (decode f (p - 0x80)).negate := by
  have hw := width_of_eq8 hf
  obtain ⟨s, e, m, he, hm, hp⟩ := exists_packed (f := f) (p := p - 0x80) (by rw [hw]; omega)
  simp only [packed, hw] at hp
  obtain rfl : s = false := by
    cases s
    · rfl
    · simp only [Bool.toNat_true] at hp
      omega
  have hneg : p = packed f true e m := by
    simp only [packed, hw, Bool.toNat_true, Bool.toNat_false] at hp ⊢
    omega
  have hpos : p - 0x80 = packed f false e m := by rw [hp, packed, hw]
  have h0 : ¬ (e = 0 ∧ m = 0) := by
    rintro ⟨rfl, rfl⟩
    simp at hp
    omega
  rw [hpos, hneg, decode_packed_negate (ieee_of_eq8 hf) he hm h0]

/-! R81 -/

/-- The same number with `k` more bits in its significand. -/
def Val.refine (k : Nat) : Val → Val
  | .fin n m e => .fin n (m * 2 ^ k) (e - k)
  | v => v

@[simp] theorem Val.refine_eq_nan_iff (k : Nat) (v : Val) (g : Bool) : v.refine k = .nan g ↔ v = .nan g := by
  cases v <;> simp [Val.refine]
@[simp] theorem Val.isInf_refine (k : Nat) (v : Val) : (v.refine k).isInf = v.isInf := by
  cases v <;> rfl
theorem Val.isZero_fin (n : Bool) (m : Nat) (e : Int) : (Val.fin n m e).isZero = decide (m = 0) := by
  cases m <;> rfl
@[simp] theorem Val.isZero_refine (k : Nat) (v : Val) : (v.refine k).isZero = v.isZero := by
  cases v with
  | nan | inf => rfl
  | fin n m e => simp [Val.refine, Val.isZero_fin]
@[simp] theorem Val.neg_refine (k : Nat) (v : Val) : (v.refine k).neg = v.neg := by
  cases v <;> rfl

theorem cmp_refine (k : Nat) {v : Val} (hv : v.isNan = false) : cmp v (v.refine k) = some 0 := by
  cases v with
  | nan g => cases hv
  | inf n => simp [Val.refine, cmp]
  | fin n m e =>
    cases n <;> simp [Val.refine, cmp, exactAdd, mant, Nat.shiftLeft_eq]

theorem packed_fp32_shift16 (s : Bool) (e m : Nat) : packed .fp32 s e (m * 2 ^ 16) = packed .eq16 s e m * 2 ^ 16 := by
  simp only [packed, Fmt.width, Fmt.ebits, Fmt.frac]
  omega

/-- R81: 16 zero bits more below an EQ16 pattern spell the same number in FP32, class and NaN kind included. -/
theorem decode_fp32_shift16 {p : Nat} (hp : p < 2 ^ 16) :
    decode .fp32 (p * 2 ^ 16) = (decode .eq16 p).refine 16 := by
  obtain ⟨s, e, m, he, hm, rfl⟩ := exists_packed (f := .eq16) hp
  have hm' : m * 2 ^ 16 < 2 ^ Fmt.fp32.frac := by simp only [Fmt.frac] at hm ⊢; omega
  have hquiet : (m * 65536).testBit 22 = m.testBit 6 := by simpa using Nat.testBit_mul_two_pow m 22 16
  rw [← packed_fp32_shift16, decode_packed s he hm, decode_packed s (f := .fp32) he hm']
  by_cases htop : e = 255
  · by_cases hm0 : m = 0 <;> simp [Fmt.ieee, Fmt.ebits, Fmt.frac, htop, hm0, hquiet, Val.refine]
  by_cases h0 : e = 0
  · simp [Fmt.ieee, Fmt.ebits, Fmt.frac, h0, Val.refine, Fmt.qmin, Fmt.emin, Fmt.bias]
  · simp [Fmt.ieee, Fmt.ebits, Fmt.frac, htop, h0, Val.refine, Fmt.bias, Nat.add_mul]
    omega

theorem encode_fin_subnormal {f : Fmt} (s : Bool) {m : Nat} {e : Int} (h0 : m ≠ 0) (hl : (m.log2 : Int) + e < f.emin)
    (hq : f.qmin ≤ e) : encode f (.fin s m e) = packed f s 0 (m * 2 ^ (e - f.qmin).toNat) := by
  cases s <;> simp [encode, packed, h0, hl, hq, Nat.shiftLeft_eq]

theorem encode_fin_normal {f : Fmt} (s : Bool) {m : Nat} {e : Int} (h0 : m ≠ 0) (hl : f.emin ≤ (m.log2 : Int) + e)
    (hw : m.log2 < f.frac) : encode f (.fin s m e)
      = packed f s ((m.log2 : Int) + e + f.bias).toNat (m * 2 ^ (f.frac - m.log2) - 2 ^ f.frac) := by
  cases s <;> simp [encode, packed, h0, hl.not_gt, hw.not_ge, Nat.shiftLeft_eq]

/-- R81: an EQ16 number written in FP32 is its pattern above 16 zero bits. -/
theorem encode_fp32_decode_eq16 {p : Nat} (hp : p < 2 ^ 16) (hn : (decode .eq16 p).isNan = false) :
    encode .fp32 (decode .eq16 p) = p * 2 ^ 16 := by
  obtain ⟨s, e, m, he, hm, rfl⟩ := exists_packed (f := .eq16) hp
  simp only [Fmt.ebits, Fmt.frac] at he hm
  by_cases htop : e = 2 ^ 8 - 1
  · have hm0 : m = 0 := by
      by_contra h
      rw [decode_packed (f := .eq16) s he hm, if_pos ⟨rfl, htop⟩, if_neg h] at hn
      cases hn
    subst htop hm0
    cases s <;> decide
  by_cases h0 : e = 0
  · subst h0
    by_cases hm0 : m = 0
    · subst hm0
      cases s <;> decide
    have hlog : m.log2 < 7 := (Nat.log2_lt hm0).mpr hm
    rw [decode_packed_subnormal s hm hm0, ← packed_fp32_shift16]
    exact encode_fin_subnormal s hm0 (by simp only [Fmt.qmin, Fmt.emin, Fmt.bias, Fmt.frac]; omega) (by decide)
  · have hlog : (2 ^ 7 + m).log2 = 7 := (Nat.log2_eq_iff (by omega)).mpr ⟨by omega, by omega⟩
    rw [decode_packed_normal (f := .eq16) s he hm h0 (fun _ => htop), ← packed_fp32_shift16]
    have hexp : (((7 : Nat) : Int) + ((e : Int) - (127 : Nat) - (7 : Nat)) + (127 : Nat)).toNat = e := by omega
    have hsig : (2 ^ 7 + m) * 2 ^ (23 - 7) - 2 ^ 23 = m * 2 ^ 16 := by omega
    have henc := encode_fin_normal (f := .fp32) s (m := 2 ^ 7 + m) (e := (e : Int) - (127 : Nat) - (7 : Nat)) (by omega)
      (by simp only [hlog, Fmt.emin, Fmt.bias]; omega) (by rw [hlog]; decide)
    simpa only [hlog, Fmt.bias, Fmt.frac, hexp, hsig] using henc

/-! R92 -/

/-- A number with no greater significand and exponent is not greater. -/
theorem cmp_fin_ne_one {m M : Nat} {e E : Int} (s : Bool) (hm : m ≤ M) (he : e ≤ E) :
    cmp (.fin s m e) (.fin false M E) ≠ some 1 := by
  have hmin : min e E = e := min_eq_left he
  have hle : (m : Int) ≤ (M : Int) * 2 ^ (E - e).toNat := by
    exact_mod_cast hm.trans (Nat.le_mul_of_pos_right _ (by positivity))
  have hsum : (if s then -(m : Int) else m) + -((M : Int) * 2 ^ (E - e).toNat) ≤ 0 := by
    split <;> omega
  have hcmp : cmp (.fin s m e) (.fin false M E) = some ((if s then -(m : Int) else m) + -((M : Int) * 2 ^ (E - e).toNat)).sign := by
    simp [cmp, exactAdd, mant, hmin, Nat.shiftLeft_eq]
  rw [hcmp, ne_eq, Option.some_inj, Int.sign_eq_one_iff_pos]
  exact hsum.not_gt

theorem decode_le_maxFin {f : Fmt} {p : Nat} (hf : f.ieee = false) (hp : p < 2 ^ f.width)
    (hn : (decode f p).isNan = false) : cmp (decode f p) (maxFin f false) ≠ some 1 := by
  obtain ⟨s, e, m, he, hm, rfl⟩ := exists_packed hp
  have hpow : 2 ^ (f.frac + 1) = 2 * 2 ^ f.frac := Nat.pow_succ'
  have hemax : f.emax = ((2 ^ f.ebits : Nat) : Int) - 1 - f.bias := by simp [Fmt.emax, hf]
  have hexp : (e : Int) + 1 ≤ (2 ^ f.ebits : Nat) := by exact_mod_cast he
  rw [decode_packed s he hm] at hn ⊢
  simp only [hf, Bool.false_eq_true, false_and, if_false, not_false_iff, true_and] at hn ⊢
  by_cases hz : s = true ∧ e = 0 ∧ m = 0
  · simp [hz, Val.qnan, Val.isNan] at hn
  rw [if_neg hz]
  split
  · have htwo : (2 : Int) ≤ (2 ^ f.ebits : Nat) := by cases f <;> simp [Fmt.ebits]
    refine cmp_fin_ne_one s (by omega) ?_
    simp only [Fmt.qmin, Fmt.emin]
    omega
  · exact cmp_fin_ne_one s (by omega) (by omega)

theorem decode_eq8_max {f : Fmt} (hf : f = .eq8a ∨ f = .eq8b) : decode f 0x7F = maxFin f false := by
  rcases hf with rfl | rfl <;> decide

theorem encode_maxFin_eq8 {f : Fmt} (hf : f = .eq8a ∨ f = .eq8b) (n : Bool) :
    encode f (maxFin f n) = if n then 0xFF else 0x7F := by
  rcases hf with rfl | rfl <;> cases n <;> decide

theorem nanPat_eq8 {f : Fmt} (hf : f = .eq8a ∨ f = .eq8b) : nanPat f = 0x80 := by
  rcases hf with rfl | rfl <;> rfl

/-! R92: `roundSr` draws for finite numbers other than zero only. -/

theorem roundVal_inf_saturates {f : Fmt} (hf : f.ieee = false) (rm : Rm) (n : Bool) :
    roundVal f rm (.inf n) = ⟨maxFin f n, fSATURATE⟩ := by simp [roundVal, hf]
@[simp] theorem roundVal_nan (f : Fmt) (rm : Rm) (g : Bool) : (roundVal f rm (.nan g)).v = .qnan := rfl
@[simp] theorem roundVal_zero (f : Fmt) (rm : Rm) (n : Bool) (e : Int) :
    roundVal f rm (.fin n 0 e) = ⟨.fin (n && f.ieee) 0 0, 0⟩ := by simp [roundVal, roundTo]
@[simp] theorem roundSr_inf (f : Fmt) (r : Nat) (n : Bool) : roundSr f r (.inf n) = roundVal f .rne (.inf n) := rfl
@[simp] theorem roundSr_nan (f : Fmt) (r : Nat) (g : Bool) : roundSr f r (.nan g) = roundVal f .rne (.nan g) := rfl
@[simp] theorem roundSr_zero (f : Fmt) (r : Nat) (n : Bool) (e : Int) :
    roundSr f r (.fin n 0 e) = roundVal f .rne (.fin n 0 e) := by simp [roundSr, roundVal]
@[simp] theorem encode_nan (f : Fmt) (g : Bool) : encode f (.nan g) = nanPat f := rfl
@[simp] theorem encode_plusZero (f : Fmt) (e : Int) : encode f (.fin false 0 e) = 0 := by simp [encode]

end Sys2Proof.Fp

namespace Sys2Proof.Machine
open Fp

/-- Settles O13: by the fields of a pattern, EQ8 negatives and the EQ16 patterns as FP32 ones with 16 bits more. -/
theorem scalarPatterns : Obligations.ScalarPatterns := by
  unfold Obligations.ScalarPatterns
  refine ⟨fun f hf => ⟨?_, fun p hlo hhi => decode_eq8_negative hf hlo hhi⟩, fun p hp => ?_, fun g => ⟨rfl, rfl, rfl⟩⟩
  · rcases hf with rfl | rfl <;> rfl
  · rw [decode_fp32_shift16 hp]
    exact ⟨fun g => (Val.refine_eq_nan_iff 16 _ g).symm, (Val.isInf_refine 16 _).symm, (Val.isZero_refine 16 _).symm,
      (Val.neg_refine 16 _).symm, fun hn => ⟨cmp_refine 16 hn, encode_fp32_decode_eq16 hp hn⟩⟩

/-- Settles O14: what `roundVal` and `roundSr` give for infinities, NaNs and zeros, and no EQ8 number above 0x7F's. -/
theorem eq8Conversions : Obligations.Eq8Conversions := by
  unfold Obligations.Eq8Conversions
  refine ⟨fun f rm r hf => ?_, fun g rm r => ⟨rfl, rfl⟩⟩
  have hi := ieee_of_eq8 hf
  refine ⟨fun n => ?_, fun g => ?_, fun e => ?_, fun p hp hn x y hx hy => ?_⟩
  · simp [roundVal_inf_saturates hi, encode_maxFin_eq8 hf]
  · simp [Val.qnan, nanPat_eq8 hf]
  · simp [hi]
  · rw [← hx, ← hy, decode_eq8_max hf]
    exact decode_le_maxFin hi hp hn

end Sys2Proof.Machine
end

section
/-! The block formats: what a reading of a block depends on, and what an encoder writes (R85 to R87). -/

namespace Sys2Proof.Fp

/-! R85, R86: reading a block, element by element -/

/-- The exponent of element `i`: E − 31 − the shift of its group. -/
def elemExp (f : BFmt) (b : List Byte) (i : Nat) : Int :=
  (getBits (b.getD 16 0).toNat 0 6 : Int) - 31 - ((if f = .eb4 then getBits (b.getD 17 0).toNat (2 * (i / 8)) 2 else 0 : Nat) : Int)

/-- The value of an integer at an exponent: +0 where the integer is 0. -/
def elemVal (q e : Int) : Val := if q = 0 then Val.zero else .fin (decide (q < 0)) q.natAbs e

theorem decodeBlock_of_zeroBlock {f : BFmt} {b : List Byte} (h : (b.getD 16 0).getLsbD 6 = true) :
    decodeBlock f b = (List.replicate f.n Val.zero, 0) := by
  have hz : (b.getD 16 0).toNat.testBit 6 = true := h
  simp only [decodeBlock, decodeBlockRaw, hz, if_true]
  simp

theorem decodeBlock_of_not_zeroBlock {f : BFmt} {b : List Byte} (h : (b.getD 16 0).getLsbD 6 = false) :
    decodeBlock f b = (List.zipWith elemVal (((List.range f.n).map (f.raw b)).map f.q) ((List.range f.n).map (elemExp f b)),
      if ((List.range f.n).map (f.raw b)).any f.isRsvd then fRESERVED else 0) := by
  have hz : (b.getD 16 0).toNat.testBit 6 = false := h
  simp only [decodeBlock, decodeBlockRaw, hz]
  cases f <;> rfl

theorem q_of_isRsvd {f : BFmt} {p : Nat} (h : f.isRsvd p = true) : f.q p = 0 := by
  cases f <;> simp only [BFmt.isRsvd, beq_iff_eq] at h <;> subst h <;> decide

theorem decodeBlock_elem {f : BFmt} {b : List Byte} {i : Nat} (hi : i < f.n) (h : (b.getD 16 0).getLsbD 6 = false) :
    (decodeBlock f b).1[i]? = some (elemVal (f.q (f.raw b i)) (elemExp f b i)) := by
  simp [decodeBlock_of_not_zeroBlock h, hi]

theorem decodeBlock_flags_of_isRsvd {f : BFmt} {b : List Byte} {i : Nat} (hi : i < f.n) (h : (b.getD 16 0).getLsbD 6 = false)
    (hr : f.isRsvd (f.raw b i) = true) : (decodeBlock f b).2 = fRESERVED := by
  have hany : ((List.range f.n).map (f.raw b)).any f.isRsvd = true :=
    List.any_eq_true.mpr ⟨_, List.mem_map_of_mem (List.mem_range.mpr hi), hr⟩
  rw [decodeBlock_of_not_zeroBlock h, if_pos hany]

theorem decodeBlock_flags_of_no_isRsvd {f : BFmt} {b : List Byte} (hr : ∀ i, i < f.n → f.isRsvd (f.raw b i) = false) :
    (decodeBlock f b).2 = 0 := by
  cases h : (b.getD 16 0).getLsbD 6 with
  | true => rw [decodeBlock_of_zeroBlock h]
  | false =>
    have hany : ((List.range f.n).map (f.raw b)).any f.isRsvd = false := by
      simpa [List.any_eq_false] using hr
    rw [decodeBlock_of_not_zeroBlock h, hany]
    rfl

/-! R87: the SAT bit -/

theorem raw_congr {f : BFmt} {b c : List Byte} (h : ∀ i, i < 16 → b.getD i 0 = c.getD i 0) {i : Nat} (hi : i < f.n) :
    f.raw b i = f.raw c i := by
  cases f with
  | eb4 =>
    have hi' : i < 32 := hi
    simp only [BFmt.raw, h (i / 2) (by omega)]
  | eb8 => simp only [BFmt.raw, h i hi]

/-- Reading a block looks at bytes 0 to 15, at bits 6 to 0 of the scale byte and at byte 17. -/
theorem decodeBlock_congr {f : BFmt} {b c : List Byte} (hlow : ∀ i, i < 16 → b.getD i 0 = c.getD i 0)
    (hzb : (b.getD 16 0).getLsbD 6 = (c.getD 16 0).getLsbD 6)
    (hE : getBits (b.getD 16 0).toNat 0 6 = getBits (c.getD 16 0).toNat 0 6) (hsh : b.getD 17 0 = c.getD 17 0) :
    decodeBlock f b = decodeBlock f c := by
  cases h : (c.getD 16 0).getLsbD 6 with
  | true => rw [decodeBlock_of_zeroBlock h, decodeBlock_of_zeroBlock (hzb.trans h)]
  | false =>
    have hexp : elemExp f b = elemExp f c := by
      funext i
      simp only [elemExp, hE, hsh]
    have hraw : (List.range f.n).map (f.raw b) = (List.range f.n).map (f.raw c) :=
      List.map_congr_left fun i hi => raw_congr hlow (List.mem_range.mp hi)
    rw [decodeBlock_of_not_zeroBlock h, decodeBlock_of_not_zeroBlock (hzb.trans h), hexp, hraw]

theorem decodeBlock_setSat (f : BFmt) {b : List Byte} (hb : 16 < b.length) :
    decodeBlock f (b.set 16 (b.getD 16 0 ||| 0x80)) = decodeBlock f b := by
  have hother : ∀ i, i ≠ 16 → (b.set 16 (b.getD 16 0 ||| 0x80)).getD i 0 = b.getD i 0 := fun i hi => by
    simp [List.getD_eq_getElem?_getD, List.getElem?_set_ne (Ne.symm hi)]
  have hscale : (b.set 16 (b.getD 16 0 ||| 0x80)).getD 16 0 = b.getD 16 0 ||| 0x80 := by
    rw [List.getD_eq_getElem?_getD, List.getElem?_set_self hb]
    rfl
  refine decodeBlock_congr (fun i hi => hother i (by omega)) ?_ ?_ (hother 17 (by decide)) <;> rw [hscale]
  · simp
  · simp [getBits, BitVec.toNat_or, Nat.or_mod_two_pow (n := 6)]

/-! R86, R95: what an encoder writes -/

/-- Sign and magnitude of an EB4 element. -/
def nibble (q : Int) : Nat := q.natAbs + (if q < 0 then 8 else 0)

/-- The bytes of a block's elements: two's complement, or pairs of sign and magnitude. -/
def packElems (f : BFmt) (qs : List Int) : List Byte :=
  match f with
  | .eb8 => qs.map (fun q => BitVec.ofNat 8 (wrapInt 8 q))
  | .eb4 => (List.range 16).map (fun j =>
      BitVec.ofNat 8 ((qs.map nibble).getD (2 * j) 0 + 16 * (qs.map nibble).getD (2 * j + 1) 0))

/-- An encoder writes the canonical zero block, or the elements of clamped integers. -/
theorem encodeBlock_bytes (f : BFmt) (aclass : Nat) (xs : List Val) :
    (encodeBlock f aclass xs).bytes = zeroBlock f
      ∨ ∃ qs t, qs.length = xs.length ∧ (∀ q ∈ qs, q.natAbs ≤ f.qmax) ∧ (encodeBlock f aclass xs).bytes = packElems f qs ++ t := by
  unfold encodeBlock
  extract_lets nan ys fl0 rm am s shs one rs fl uf satn sat sc qs nib
  split
  · exact .inl rfl
  split
  · exact .inl rfl
  have hone : ∀ x i, (one x i).1.natAbs ≤ f.qmax := by
    intro x i
    cases x with
    | nan g => simp [one]
    | inf n => cases n <;> simp [one]
    | fin n m e =>
      simp only [one]
      split
      · cases n <;> simp
      · next hq => cases n <;> simpa using hq
  have hqs : ∀ q ∈ qs, q.natAbs ≤ f.qmax := by
    intro q hq
    simp only [qs, rs, List.map_map, List.mem_map] at hq
    obtain ⟨p, -, rfl⟩ := hq
    exact hone p.1 p.2
  right
  have hlen : qs.length = xs.length := by simp [qs, rs, ys]
  cases f <;> exact ⟨qs, _, hlen, hqs, rfl⟩

theorem natAbs_getD_le {qs : List Int} {k : Nat} (h : ∀ q ∈ qs, q.natAbs ≤ k) (i : Nat) :
    (qs.getD i 0).natAbs ≤ k := by
  by_cases hi : i < qs.length
  · rw [List.getD_eq_getElem _ _ hi]
    exact h _ (List.getElem_mem hi)
  · rw [List.getD_eq_default _ _ (not_lt.mp hi)]
    exact Nat.zero_le k

theorem nibble_not_reserved {q : Int} (h : q.natAbs ≤ 7) : nibble q < 16 ∧ nibble q ≠ 8 := by
  unfold nibble
  split <;> omega

theorem wrapInt_not_reserved {q : Int} (h : q.natAbs ≤ 127) : wrapInt 8 q < 256 ∧ wrapInt 8 q ≠ 0x80 := by
  simp only [wrapInt]
  omega

theorem raw_packElems_eb8 {qs : List Int} (hq : ∀ q ∈ qs, q.natAbs ≤ 127) (t : List Byte) {i : Nat} (hi : i < qs.length) :
    BFmt.raw .eb8 (packElems .eb8 qs ++ t) i = wrapInt 8 (qs.getD i 0) := by
  have hlt := (wrapInt_not_reserved (natAbs_getD_le hq i)).1
  rw [BFmt.raw, List.getD_append _ _ _ _ (by simpa [packElems] using hi)]
  have hget : (packElems .eb8 qs).getD i 0 = BitVec.ofNat 8 (wrapInt 8 (qs.getD i 0)) :=
    List.getD_map qs 0 (fun q => BitVec.ofNat 8 (wrapInt 8 q)) (n := i)
  rw [hget, BitVec.toNat_ofNat, Nat.mod_eq_of_lt hlt]

theorem byte_packElems_eb4 {qs : List Int} (hq : ∀ q ∈ qs, q.natAbs ≤ 7) (t : List Byte) {j : Nat} (hj : j < 16) :
    ((packElems .eb4 qs ++ t).getD j 0).toNat = nibble (qs.getD (2 * j) 0) + 16 * nibble (qs.getD (2 * j + 1) 0) := by
  have hnib : ∀ k, (qs.map nibble).getD k 0 = nibble (qs.getD k 0) := fun k => List.getD_map qs 0 nibble (n := k)
  have hlo := (nibble_not_reserved (natAbs_getD_le hq (2 * j))).1
  have hhi := (nibble_not_reserved (natAbs_getD_le hq (2 * j + 1))).1
  have hlen : j < (packElems .eb4 qs).length := by simpa [packElems] using hj
  rw [List.getD_append _ _ _ _ hlen, List.getD_eq_getElem _ _ hlen]
  simp only [packElems, List.getElem_map, List.getElem_range, hnib, BitVec.toNat_ofNat]
  omega

theorem raw_packElems_eb4 {qs : List Int} (hq : ∀ q ∈ qs, q.natAbs ≤ 7) (t : List Byte) {i : Nat} (hi : i < 32) :
    BFmt.raw .eb4 (packElems .eb4 qs ++ t) i = nibble (qs.getD i 0) := by
  obtain ⟨j, hij⟩ := Nat.even_or_odd' i
  have hlo := (nibble_not_reserved (natAbs_getD_le hq (2 * j))).1
  have hhi := (nibble_not_reserved (natAbs_getD_le hq (2 * j + 1))).1
  have hdiv : i / 2 = j := by omega
  rw [BFmt.raw, hdiv, byte_packElems_eb4 hq t (by omega), getBits, Nat.shiftRight_eq_div_pow]
  rcases hij with rfl | rfl
  · have hmod : 2 * j % 2 = 0 := by omega
    rw [hmod]
    omega
  · have hmod : (2 * j + 1) % 2 = 1 := by omega
    rw [hmod]
    omega

theorem raw_zeroBlock (f : BFmt) {i : Nat} (hi : i < f.n) : f.raw (zeroBlock f) i = 0 := by
  cases f <;> revert i <;> decide

/-- R86: whatever an encoder is given, no element of the block it writes is reserved. -/
theorem encodeBlock_not_isRsvd (f : BFmt) (aclass : Nat) {xs : List Val} {i : Nat} (hx : xs.length = f.n) (hi : i < f.n) :
    f.isRsvd (f.raw (encodeBlock f aclass xs).bytes i) = false := by
  obtain hz | ⟨qs, t, hlen, hq, hb⟩ := encodeBlock_bytes f aclass xs
  · rw [hz, raw_zeroBlock f hi]
    cases f <;> rfl
  · rw [hb]
    have hle := natAbs_getD_le hq i
    cases f with
    | eb4 => simpa [raw_packElems_eb4 hq t hi, BFmt.isRsvd] using (nibble_not_reserved hle).2
    | eb8 => simpa [raw_packElems_eb8 hq t (hlen ▸ hx ▸ hi), BFmt.isRsvd] using (wrapInt_not_reserved hle).2

end Sys2Proof.Fp

namespace Sys2Proof.Machine
open Fp

/-- Settles O16: a block's reading element by element, what an encoder may write, and the bytes that a reading looks at. -/
theorem blocksDecode : Obligations.BlocksDecode := by
  unfold Obligations.BlocksDecode
  refine ⟨fun f b => decodeBlock_of_zeroBlock, fun f b i hi hz => ?_, fun f b => decodeBlock_flags_of_no_isRsvd,
    fun f aclass xs i hx hi => encodeBlock_not_isRsvd f aclass hx hi, fun f b hb => decodeBlock_setSat f hb⟩
  refine ⟨decodeBlock_elem hi hz, fun hr => ⟨?_, decodeBlock_flags_of_isRsvd hi hz hr⟩⟩
  rw [decodeBlock_elem hi hz, elemVal, if_pos (q_of_isRsvd hr)]

end Sys2Proof.Machine
end

section
/-! Spar-core quotients and remainders: what an instruction that writes one integer register does to its thread, and the signed and
unsigned divisions (R224). -/

namespace Sys2Proof

/-! The registers of a thread after a write -/

theorem SM.setD_sorted {α : Type} [DecidableEq α] (d : α) {m : SM α} (a : Nat) (x : α) (h : SM.Sorted m) : SM.Sorted (SM.setD d m a x) := by
  unfold SM.setD
  split
  · exact SM.erase_sorted a h
  · exact SM.insert_sorted a x h

theorem SM.getD_default_or_mem {α : Type} (d : α) (m : SM α) (a : Nat) : SM.getD d m a = d ∨ ∃ p ∈ m, p.2 = SM.getD d m a := by
  induction m with
  | nil => exact .inl rfl
  | cons q m ih =>
    obtain ⟨k, v⟩ := q
    simp only [SM.getD]
    split_ifs
    · exact .inr ⟨(k, v), List.mem_cons_self, rfl⟩
    · exact .inl rfl
    · exact ih.imp_right fun ⟨p, hp, e⟩ => ⟨p, List.mem_cons_of_mem _ hp, e⟩

namespace Machine

theorem State.sth_setSth {s : State} (hs : SM.Sorted s.spar) (k j : Nat) (x : SparThr) :
    (s.setSth k x).sth j = if j = k then x else s.sth j :=
  SM.getD_setD ({} : SparThr) k j x hs

theorem State.sth_updSth_same {s : State} (hs : SM.Sorted s.spar) (k : Nat) (f : SparThr → SparThr) :
    (s.updSth k f).sth k = f (s.sth k) := by
  rw [State.updSth, State.sth_setSth hs, if_pos rfl]

theorem State.sth_updSth_other {s : State} (hs : SM.Sorted s.spar) {k j : Nat} (h : j ≠ k) (f : SparThr → SparThr) :
    (s.updSth k f).sth j = s.sth j := by
  rw [State.updSth, State.sth_setSth hs, if_neg h]

theorem State.updSth_spar_sorted {s : State} (hs : SM.Sorted s.spar) (k : Nat) (f : SparThr → SparThr) :
    SM.Sorted (s.updSth k f).spar :=
  SM.setD_sorted ({} : SparThr) k (f (s.sth k)) hs

theorem State.mapsOk.spar_sorted {s : State} (h : s.mapsOk) : SM.Sorted s.spar := by
  obtain ⟨-, -, -, -, -, -, -, -, -, hspar, -⟩ := h
  exact hspar

/-- The integer registers of every thread, a thread at its reset included, have their keys in order. -/
theorem State.mapsOk.iregs_sorted {s : State} (h : s.mapsOk) (k : Nat) : SM.Sorted (s.sth k).i := by
  obtain ⟨-, -, -, -, -, -, -, -, -, -, -, hregs, -⟩ := h
  obtain hd | ⟨p, hp, he⟩ := SM.getD_default_or_mem ({} : SparThr) s.spar k
  · rw [State.sth, hd]
    exact List.Pairwise.nil
  · rw [State.sth, ← he]
    exact (hregs p hp).1

theorem State.ireg_lt (s : State) (k n : Nat) : s.ireg k n < 2 ^ 64 := by
  unfold State.ireg
  split
  · decide
  · exact BitVec.isLt _

theorem State.toNat_ofNat_ireg (s : State) (k n : Nat) : (BitVec.ofNat 64 (s.ireg k n)).toNat = s.ireg k n := by
  rw [BitVec.toNat_ofNat, Nat.mod_eq_of_lt (s.ireg_lt k n)]

/-! An instruction of one thread that writes one integer register -/

/-- The thread with integer register `d` written: i31 takes no write. -/
def SparThr.withIreg (x : SparThr) (d v : Nat) : SparThr :=
  { x with i := if d = 31 then x.i else SM.setD 0 x.i d (BitVec.ofNat 64 v) }

theorem State.setIreg_sorted {s : State} (hs : SM.Sorted s.spar) (k d v : Nat) : SM.Sorted (s.setIreg k d v).spar := by
  unfold State.setIreg
  split
  · exact hs
  · exact State.updSth_spar_sorted hs k _

theorem State.sth_setIreg_same {s : State} (hs : SM.Sorted s.spar) (k d v : Nat) :
    (s.setIreg k d v).sth k = (s.sth k).withIreg d v := by
  unfold State.setIreg SparThr.withIreg
  split
  · rfl
  · exact State.sth_updSth_same hs k _

theorem State.sth_setIreg_other {s : State} (hs : SM.Sorted s.spar) {k j : Nat} (h : j ≠ k) (d v : Nat) :
    (s.setIreg k d v).sth j = s.sth j := by
  unfold State.setIreg
  split
  · rfl
  · exact State.sth_updSth_other hs h _

theorem State.setIreg_eq (s : State) (k d v : Nat) : ∃ sp, s.setIreg k d v = { s with spar := sp } := by
  unfold State.setIreg
  split <;> exact ⟨_, rfl⟩

/-- An instruction that only writes `v` to integer register `d` leaves the state that `SparWrote` describes. -/
theorem State.sparWrote_setIreg_sparNext {s : State} (hm : s.mapsOk) (t : SThr) (d : Fin 32) (v : Nat) :
    s.SparWrote ((s.setIreg (sthKey t) d.val v).sparNext t) t d (BitVec.ofNat 64 v) := by
  have hs := hm.spar_sorted
  have hw := State.setIreg_sorted hs (sthKey t) d.val v
  have hsame : ((s.setIreg (sthKey t) d.val v).sparNext t).sth (sthKey t)
      = { (s.sth (sthKey t)).withIreg d.val v with pc := (s.sth (sthKey t)).pc + 4 } := by
    rw [State.sparNext, State.sth_updSth_same hw, State.sth_setIreg_same hs]
    rfl
  refine ⟨⟨?_, fun j hj => ?_⟩, fun n => ?_, ?_⟩
  · obtain ⟨sp, he⟩ := s.setIreg_eq (sthKey t) d.val v
    rw [he]
    rfl
  · rw [State.sparNext, State.sth_updSth_other hw hj, State.sth_setIreg_other hs hj]
  · rw [State.ireg, hsame, State.ireg, SparThr.withIreg]
    by_cases hn : n = 31
    · simp [hn]
    · by_cases hd : d.val = 31
      · simp [hn, hd]
      · simp only [hn, hd, if_false, SM.getD_setD 0 d.val n _ (hm.iregs_sorted _), ne_eq, not_false_eq_true, and_true]
        split <;> rfl
  · rw [hsame]
    rfl

/-- A ready thread whose instruction answers `u` goes on behind it, unless it has ended (R219, R223). -/
theorem State.issue_of_ok {s u : State} {t : SThr} {q : DRef} {cls : Nat} {f : State → DRef → SRes} (hr : s.SparReady t q [cls])
    (hc : sparClasses.contains cls = true) (hf : f s q = .ok u) : s.issue t cls f = .next (u.sparEnd t q) := by
  obtain ⟨hrun, hhalt, hwait, hcap, hcls, hres⟩ := hr
  have hcls : getBits t.word.toNat 27 5 = cls := List.mem_singleton.mp hcls
  simp [State.issue, State.sparRun1, hrun, hhalt, hwait, hcap, hcls, List.contains_iff_mem.mp hc, hres, hf, State.sparEnd, State.sparNext]

theorem State.issue_setIreg {s : State} {t : SThr} {q : DRef} {cls : Nat} {f : State → DRef → SRes} {d : Fin 32} {v : Nat} (hm : s.mapsOk)
    (hr : s.SparReady t q [cls]) (hc : sparClasses.contains cls = true) (hf : f s q = .ok (s.setIreg (sthKey t) d.val v)) :
    ∃ u, s.issue t cls f = .next u ∧ s.SparWrote u t d (BitVec.ofNat 64 v) := by
  refine ⟨_, State.issue_of_ok hr hc hf, ?_⟩
  obtain ⟨hrun, hhalt, -⟩ := hr
  have hgoes : ((s.setIreg (sthKey t) d.val v).sth (sthKey t)).run = some q ∧ ((s.setIreg (sthKey t) d.val v).sth (sthKey t)).halted = false := by
    rw [State.sth_setIreg_same (hm.spar_sorted)]
    exact ⟨hrun, hhalt⟩
  rw [State.sparEnd, if_pos hgoes]
  exact State.sparWrote_setIreg_sparNext hm t d v

/-! Quotients and remainders (R224) -/

theorem sext_toNat (A : BitVec 64) : sext 64 A.toNat = A.toInt := by
  rw [sext, Nat.mod_eq_of_lt A.isLt, BitVec.toInt_eq_toNat_cond]
  split <;> split <;> omega

theorem ofNat_wrapInt_toInt (x : BitVec 64) : BitVec.ofNat 64 (wrapInt 64 x.toInt) = x := by
  apply BitVec.eq_of_toNat_eq
  rw [wrapInt, ← BitVec.toNat_ofInt, BitVec.ofInt_toInt, BitVec.ofNat_toNat, BitVec.setWidth_eq]

theorem toInt_eq_zero_iff (B : BitVec 64) : B.toInt = 0 ↔ B = 0 :=
  BitVec.toInt_inj (y := 0)

theorem toInt_eq_neg_one_iff (B : BitVec 64) : B.toInt = -1 ↔ B = -1 :=
  BitVec.toInt_inj (y := -1)

theorem toInt_eq_intMin_iff (A : BitVec 64) : A.toInt = -2 ^ 63 ↔ A = BitVec.intMin 64 :=
  BitVec.toInt_inj (y := BitVec.intMin 64)

theorem toNat_eq_intMin_iff (A : BitVec 64) : A.toNat = 2 ^ 63 ↔ A = BitVec.intMin 64 :=
  BitVec.toNat_inj (y := BitVec.intMin 64)

/-- What an operation of class 0x04 makes of the words in its two source registers. -/
def mdWord (op : MdOp) (A B : BitVec 64) : BitVec 64 := BitVec.ofNat 64 (mdOp op A.toNat B.toNat)

/-- No operation of class 0x04 traps: its result goes to its destination register. -/
theorem exec_multiplyDivide {s : State} {t : SThr} {q : DRef} {op : MdOp} (d a b : Fin 32) (hm : s.mapsOk) (hr : s.SparReady t q [4])
    (hop : op ≠ .reserved) :
    ∃ u, exec (.multiplyDivide t op d a b) s = .next u
      ∧ s.SparWrote u t d (mdWord op (BitVec.ofNat 64 (s.ireg (sthKey t) a.val)) (BitVec.ofNat 64 (s.ireg (sthKey t) b.val))) := by
  simp only [mdWord, State.toNat_ofNat_ireg]
  have hissue : exec (.multiplyDivide t op d a b) s = execMultiplyDivide t op d a b s := rfl
  rw [hissue]
  exact State.issue_setIreg hm hr rfl (if_neg hop)

theorem mdWord_div_zero (A : BitVec 64) : mdWord .div A 0 = if 0 ≤ A.toInt then BitVec.intMax 64 else BitVec.intMin 64 := by
  have hB : sext 64 (0 : BitVec 64).toNat = 0 := rfl
  simp only [mdWord, mdOp, sext_toNat A, hB, if_true]
  split <;> rfl

theorem mdWord_rem_zero (A : BitVec 64) : mdWord .rem A 0 = A := by
  simp [mdWord, mdOp, sext]

theorem mdWord_div_intMin_neg_one : mdWord .div (BitVec.intMin 64) (-1) = BitVec.intMax 64 := rfl

theorem mdWord_rem_intMin_neg_one : mdWord .rem (BitVec.intMin 64) (-1) = -1 := rfl

section Representable
variable {A B : BitVec 64} (hB : B ≠ 0) (hAB : ¬ (A = BitVec.intMin 64 ∧ B = -1))
include hB hAB

theorem toInt_mdWord_div : (mdWord .div A B).toInt = A.toInt.tdiv B.toInt := by
  have hq : (A.sdiv B).toInt = A.toInt.tdiv B.toInt := BitVec.toInt_sdiv_of_ne_or_ne A B (not_and_or.mp hAB)
  simp only [mdWord, mdOp, sext_toNat, toInt_eq_zero_iff, toInt_eq_neg_one_iff, toNat_eq_intMin_iff, hB, and_comm, hAB, if_false]
  rw [← hq, ofNat_wrapInt_toInt]

theorem toInt_mdWord_rem : (mdWord .rem A B).toInt = A.toInt.tmod B.toInt := by
  simp only [mdWord, mdOp, sext_toNat, toInt_eq_zero_iff, toInt_eq_neg_one_iff, toNat_eq_intMin_iff, hB, and_comm, hAB, if_false]
  rw [← BitVec.toInt_srem, ofNat_wrapInt_toInt]

end Representable

theorem mdWord_div_mul_add_rem (A B : BitVec 64) : (mdWord .div A B).toInt * B.toInt + (mdWord .rem A B).toInt = A.toInt := by
  by_cases hB : B = 0
  · rw [hB, mdWord_rem_zero]
    simp
  · by_cases hAB : A = BitVec.intMin 64 ∧ B = -1
    · obtain ⟨rfl, rfl⟩ := hAB
      rfl
    · rw [toInt_mdWord_div hB hAB, toInt_mdWord_rem hB hAB, Int.tdiv_mul_add_tmod]

theorem natAbs_mdWord_rem_lt {A B : BitVec 64} (hB : B ≠ 0) (hAB : ¬ (A = BitVec.intMin 64 ∧ B = -1)) :
    (mdWord .rem A B).toInt.natAbs < B.toInt.natAbs := by
  rw [toInt_mdWord_rem hB hAB, Int.natAbs_tmod]
  exact Nat.mod_lt _ (Int.natAbs_pos.mpr (mt (toInt_eq_zero_iff B).mp hB))

theorem toNat_eq_zero_iff (B : BitVec 64) : B.toNat = 0 ↔ B = 0 :=
  BitVec.toNat_inj (y := 0)

theorem mdWord_divu_zero (A : BitVec 64) : mdWord .divu A 0 = -1 := rfl

theorem mdWord_remu_zero (A : BitVec 64) : mdWord .remu A 0 = A := by
  simp [mdWord, mdOp]

section Divisor
variable (A : BitVec 64) {B : BitVec 64} (hB : B ≠ 0)
include hB

theorem toNat_mdWord_divu : (mdWord .divu A B).toNat = A.toNat / B.toNat := by
  simp only [mdWord, mdOp, toNat_eq_zero_iff, hB, if_false, BitVec.toNat_ofNat]
  exact Nat.mod_eq_of_lt ((Nat.div_le_self _ _).trans_lt A.isLt)

theorem toNat_mdWord_remu : (mdWord .remu A B).toNat = A.toNat % B.toNat := by
  simp only [mdWord, mdOp, toNat_eq_zero_iff, hB, if_false, BitVec.toNat_ofNat]
  exact Nat.mod_eq_of_lt ((Nat.mod_le _ _).trans_lt A.isLt)

end Divisor

theorem mdWord_divu_mul_add_remu (A B : BitVec 64) : (mdWord .divu A B).toNat * B.toNat + (mdWord .remu A B).toNat = A.toNat := by
  by_cases hB : B = 0
  · rw [hB, mdWord_remu_zero]
    simp
  · rw [toNat_mdWord_divu A hB, toNat_mdWord_remu A hB, Nat.div_add_mod']

/-- Settles O28: the signed and the unsigned division, corner by corner. -/
theorem quotientsAndRemainders : Obligations.QuotientsAndRemainders := by
  unfold Obligations.QuotientsAndRemainders
  intro s t q d a b hm hr A B
  have hrun : ∀ op, op ≠ .reserved → ∃ u, exec (.multiplyDivide t op d a b) s = .next u ∧ s.SparWrote u t d (mdWord op A B) :=
    fun op => exec_multiplyDivide d a b hm hr
  clear_value A B
  constructor
  · obtain ⟨u, hu, hdiv⟩ := hrun .div (by decide)
    obtain ⟨w, hw, hrem⟩ := hrun .rem (by decide)
    refine ⟨u, w, _, _, hu, hdiv, hw, hrem, mdWord_div_mul_add_rem A B, ?_, ?_, ?_⟩
    · rintro rfl
      rw [mdWord_rem_zero, mdWord_div_zero]
      exact ⟨rfl, by split <;> rfl⟩
    · rw [toInt_eq_intMin_iff, toInt_eq_neg_one_iff]
      rintro rfl rfl
      rw [mdWord_div_intMin_neg_one, mdWord_rem_intMin_neg_one]
      exact ⟨rfl, rfl⟩
    · rw [toInt_eq_intMin_iff, toInt_eq_neg_one_iff]
      exact natAbs_mdWord_rem_lt
  · obtain ⟨u, hu, hdivu⟩ := hrun .divu (by decide)
    obtain ⟨w, hw, hremu⟩ := hrun .remu (by decide)
    refine ⟨u, w, _, _, hu, hdivu, hw, hremu, mdWord_divu_mul_add_remu A B, ?_, fun hB => ?_⟩
    · rintro rfl
      rw [mdWord_remu_zero, mdWord_divu_zero]
      exact ⟨rfl, rfl⟩
    · rw [toNat_mdWord_remu A hB]
      exact Nat.mod_lt _ (Nat.pos_of_ne_zero (mt (toNat_eq_zero_iff B).mp hB))

end Machine
end Sys2Proof
end

section
/-! Filled patterns: which blocks fill adds, as a recursion over the eliminated indices, and the elimination tree read off a list in
row order (R268). -/

namespace Sys2Proof.Machine

/-! The rows of the filled pattern, one eliminated index after the other -/

/-- What the elimination of index `k` does to the rows: a row that `k` meets takes the higher indices that `k` meets. -/
def fillStep (nb : Nat) (a : List (List Nat)) (k : Nat) : List (List Nat) :=
  a.zipIdx.map (fun r => if (a.getD k []).contains r.2 then
    (List.range nb).filter (fun i => decide (r.2 < i) && (r.1.contains i || (a.getD k []).contains i)) else r.1)

/-- The higher indices that each index meets in the matrix pattern. -/
def patAbove (nb : Nat) (rowptr colidx : List Nat) : List (List Nat) :=
  (List.range nb).map (fun k => (List.range nb).filter (fun i => decide (k < i) && (inPat rowptr colidx i k || inPat rowptr colidx k i)))

/-- The rows after the elimination of the indices below `n`. -/
def fillRows (nb : Nat) (rowptr colidx : List Nat) (n : Nat) : List (List Nat) :=
  (List.range n).foldl (fillStep nb) (patAbove nb rowptr colidx)

theorem fillAbove_eq (nb : Nat) (rowptr colidx : List Nat) : fillAbove nb rowptr colidx = fillRows nb rowptr colidx nb := rfl

@[simp] theorem fillRows_zero (nb : Nat) (rowptr colidx : List Nat) : fillRows nb rowptr colidx 0 = patAbove nb rowptr colidx := rfl

theorem fillRows_succ (nb : Nat) (rowptr colidx : List Nat) (n : Nat) :
    fillRows nb rowptr colidx (n + 1) = fillStep nb (fillRows nb rowptr colidx n) n := by
  simp [fillRows, List.range_succ]

@[simp] theorem length_fillRows (nb : Nat) (rowptr colidx : List Nat) (n : Nat) : (fillRows nb rowptr colidx n).length = nb := by
  induction n with
  | zero => simp [patAbove]
  | succ n ih => simpa [fillRows_succ, fillStep] using ih

theorem mem_fillStep {nb : Nat} {a : List (List Nat)} {i : Nat} (hi : i < a.length) (k j : Nat) :
    j ∈ (fillStep nb a k).getD i [] ↔
      i ∈ a.getD k [] ∧ j < nb ∧ i < j ∧ (j ∈ a.getD i [] ∨ j ∈ a.getD k []) ∨ i ∉ a.getD k [] ∧ j ∈ a.getD i [] := by
  have hrow : (fillStep nb a k).getD i [] = if i ∈ a.getD k [] then
      (List.range nb).filter (fun j => decide (i < j) && ((a.getD i []).contains j || (a.getD k []).contains j)) else a.getD i [] := by
    simp [fillStep, hi]
  rw [hrow]
  by_cases hk : i ∈ a.getD k []
  · simp only [hk, if_true, List.mem_filter, List.mem_range, Bool.and_eq_true, Bool.or_eq_true, decide_eq_true_eq, List.contains_iff_mem,
      true_and, not_true_eq_false, false_and, or_false]
  · simp only [hk, if_false, false_and, false_or, not_false_eq_true, true_and]

section Rows
variable {nb : Nat} {rowptr colidx : List Nat}

/-- After the elimination of the indices below `n`, index `i` meets the higher index `j`. -/
def Meets (nb : Nat) (rowptr colidx : List Nat) (n i j : Nat) : Prop := j ∈ (fillRows nb rowptr colidx n).getD i []

theorem meets_zero {i j : Nat} : Meets nb rowptr colidx 0 i j ↔
    i < j ∧ j < nb ∧ (inPat rowptr colidx j i = true ∨ inPat rowptr colidx i j = true) := by
  by_cases hi : i < nb
  · simp [Meets, patAbove, hi, and_left_comm]
  · have hnot : ¬ (i < j ∧ j < nb) := fun ⟨hij, hj⟩ => hi (hij.trans hj)
    simp [Meets, patAbove, hi, ← and_assoc, hnot]

theorem Meets.bounds {n i j : Nat} (h : Meets nb rowptr colidx n i j) : i < j ∧ j < nb := by
  have hi : i < (fillRows nb rowptr colidx n).length := by
    by_contra hi
    simp [Meets, List.getElem?_eq_none (not_lt.mp hi)] at h
  induction n generalizing j with
  | zero =>
    obtain ⟨hij, hj, -⟩ := meets_zero.mp h
    exact ⟨hij, hj⟩
  | succ n ih =>
    rw [length_fillRows] at hi ih
    rw [Meets, fillRows_succ, mem_fillStep (by rwa [length_fillRows])] at h
    obtain ⟨-, hj, hij, -⟩ | ⟨-, h⟩ := h
    · exact ⟨hij, hj⟩
    · exact ih h hi

theorem Meets.lt {n i j : Nat} (h : Meets nb rowptr colidx n i j) : i < j := h.bounds.1

theorem Meets.right_lt {n i j : Nat} (h : Meets nb rowptr colidx n i j) : j < nb := h.bounds.2

theorem Meets.left_lt {n i j : Nat} (h : Meets nb rowptr colidx n i j) : i < nb := h.lt.trans h.right_lt

/-- Elimination of `n` joins each two indices that `n` meets, and nothing else. -/
theorem meets_succ {n i j : Nat} : Meets nb rowptr colidx (n + 1) i j ↔ Meets nb rowptr colidx n i j
    ∨ i < j ∧ Meets nb rowptr colidx n n i ∧ Meets nb rowptr colidx n n j := by
  by_cases hi : i < nb
  · rw [Meets, fillRows_succ, mem_fillStep (by rwa [length_fillRows])]
    change Meets nb rowptr colidx n n i ∧ j < nb ∧ i < j ∧ (Meets nb rowptr colidx n i j ∨ Meets nb rowptr colidx n n j)
      ∨ ¬ Meets nb rowptr colidx n n i ∧ Meets nb rowptr colidx n i j ↔ _
    have hrow : Meets nb rowptr colidx n i j → i < j ∧ j < nb := Meets.bounds
    have hup : Meets nb rowptr colidx n n j → n < j ∧ j < nb := Meets.bounds
    tauto
  · have hnot : ∀ {m k}, ¬ Meets nb rowptr colidx m i k := fun h => hi h.left_lt
    have hup : ¬ Meets nb rowptr colidx n n i := fun h => hi h.right_lt
    simp [hnot, hup]

theorem Meets.mono {m n i j : Nat} (h : Meets nb rowptr colidx m i j) (hmn : m ≤ n) : Meets nb rowptr colidx n i j := by
  induction n, hmn using Nat.le_induction with
  | base => exact h
  | succ n _ ih => exact meets_succ.mpr (.inl ih)

/-- The elimination of an index leaves its own row and the rows below as they are. -/
theorem Meets.before {m n k j : Nat} (h : Meets nb rowptr colidx n k j) (hm : k ≤ m) (hmn : m ≤ n) : Meets nb rowptr colidx m k j := by
  induction n, hmn using Nat.le_induction with
  | base => exact h
  | succ n hmn ih =>
    obtain h | ⟨-, hk, -⟩ := meets_succ.mp h
    · exact ih h
    · exact absurd hk.lt (by omega)

/-- R268's second case. -/
theorem Meets.join {k i j : Nat} (hi : Meets nb rowptr colidx nb k i) (hj : Meets nb rowptr colidx nb k j) (hij : i < j) :
    Meets nb rowptr colidx nb i j := by
  have hk : k < nb := hi.left_lt
  have hnew : Meets nb rowptr colidx (k + 1) i j := meets_succ.mpr (.inr ⟨hij, hi.before le_rfl hk.le, hj.before le_rfl hk.le⟩)
  exact hnew.mono hk

/-- No pair is joined but by R268: each closed relation that holds the matrix pattern holds it too. -/
theorem Meets.least {G : Nat → Nat → Prop} (hpat : ∀ i j, i < nb → inPat rowptr colidx i j = true → G i j ∧ G j i)
    (hclosed : ∀ i j k, k < i → k < j → G i k → G k j → G i j) {n i j : Nat} (h : Meets nb rowptr colidx n i j) : G i j ∧ G j i := by
  induction n generalizing i j with
  | zero =>
    obtain ⟨hij, hj, hp | hp⟩ := meets_zero.mp h
    · exact (hpat j i hj hp).symm
    · exact hpat i j (hij.trans hj) hp
  | succ n ih =>
    obtain h | ⟨-, hi, hj⟩ := meets_succ.mp h
    · exact ih h
    · obtain ⟨hni, hin⟩ := ih hi
      obtain ⟨hnj, hjn⟩ := ih hj
      exact ⟨hclosed i j n hi.lt hj.lt hin hnj, hclosed j i n hj.lt hi.lt hjn hni⟩

/-! The blocks of the filled pattern -/

theorem mem_fillOf {i j : Nat} : (i, j) ∈ fillOf nb rowptr colidx ↔
    i = j ∧ i < nb ∨ Meets nb rowptr colidx nb i j ∨ Meets nb rowptr colidx nb j i := by
  have hrow : (i, j) ∈ fillOf nb rowptr colidx ↔ i < nb ∧ j < nb ∧ (i = j ∨ Meets nb rowptr colidx nb (min i j) (max i j)) := by
    simp [fillOf, fillAbove_eq, Meets]
  have hup : Meets nb rowptr colidx nb i j → i < j ∧ j < nb := Meets.bounds
  have hdn : Meets nb rowptr colidx nb j i → j < i ∧ i < nb := Meets.bounds
  rw [hrow]
  obtain hij | rfl | hij := lt_trichotomy i j
  · rw [min_eq_left hij.le, max_eq_right hij.le]
    grind
  · grind
  · rw [min_eq_right hij.le, max_eq_left hij.le]
    grind

theorem mem_fillOf_comm {i j : Nat} : (i, j) ∈ fillOf nb rowptr colidx ↔ (j, i) ∈ fillOf nb rowptr colidx := by
  rw [mem_fillOf, mem_fillOf]
  grind

theorem mem_fillOf_of_lt {i j : Nat} (hij : i < j) : (i, j) ∈ fillOf nb rowptr colidx ↔ Meets nb rowptr colidx nb i j := by
  have hdn : ¬ Meets nb rowptr colidx nb j i := fun h => hij.not_gt h.lt
  simp [mem_fillOf, hij.ne, hdn]

theorem lt_of_mem_fillOf {i j : Nat} (h : (i, j) ∈ fillOf nb rowptr colidx) : i < nb ∧ j < nb := by
  obtain ⟨rfl, hi⟩ | h | h := mem_fillOf.mp h
  · exact ⟨hi, hi⟩
  · exact ⟨h.left_lt, h.right_lt⟩
  · exact ⟨h.right_lt, h.left_lt⟩

theorem inPat_lt_of_patternOk (hp : patternOk nb rowptr colidx = true) {i j : Nat} (hi : i < nb) (h : inPat rowptr colidx i j = true) : j < nb := by
  simp only [patternOk, Bool.and_eq_true, List.all_eq_true, List.mem_range, decide_eq_true_eq] at hp
  obtain ⟨-, hrows⟩ := hp
  obtain ⟨⟨-, hlt⟩, -⟩ := hrows i hi
  exact hlt j (List.contains_iff_mem.mp h)

theorem inPat_self_of_patternOk (hp : patternOk nb rowptr colidx = true) {i : Nat} (hi : i < nb) : inPat rowptr colidx i i = true := by
  simp only [patternOk, Bool.and_eq_true, List.all_eq_true, List.mem_range] at hp
  obtain ⟨-, hrows⟩ := hp
  exact (hrows i hi).2

theorem mem_fillOf_of_inPat (hp : patternOk nb rowptr colidx = true) {i j : Nat} (hi : i < nb) (h : inPat rowptr colidx i j = true) :
    (i, j) ∈ fillOf nb rowptr colidx := by
  have hj : j < nb := inPat_lt_of_patternOk hp hi h
  obtain hij | rfl | hij := lt_trichotomy i j
  · exact (mem_fillOf_of_lt hij).mpr ((meets_zero.mpr ⟨hij, hj, .inr h⟩).mono nb.zero_le)
  · exact mem_fillOf.mpr (.inl ⟨rfl, hi⟩)
  · exact mem_fillOf_comm.mpr ((mem_fillOf_of_lt hij).mpr ((meets_zero.mpr ⟨hij, hi, .inl h⟩).mono nb.zero_le))

theorem fillOf_closed {i j k : Nat} (hki : k < i) (hkj : k < j) (hi : (i, k) ∈ fillOf nb rowptr colidx)
    (hj : (k, j) ∈ fillOf nb rowptr colidx) : (i, j) ∈ fillOf nb rowptr colidx := by
  have hmi : Meets nb rowptr colidx nb k i := (mem_fillOf_of_lt hki).mp (mem_fillOf_comm.mp hi)
  have hmj : Meets nb rowptr colidx nb k j := (mem_fillOf_of_lt hkj).mp hj
  obtain hij | rfl | hij := lt_trichotomy i j
  · exact mem_fillOf.mpr (.inr (.inl (hmi.join hmj hij)))
  · exact mem_fillOf.mpr (.inl ⟨rfl, hmi.right_lt⟩)
  · exact mem_fillOf.mpr (.inr (.inr (hmj.join hmi hij)))

theorem fillOf_least (hp : patternOk nb rowptr colidx = true) {G : Nat → Nat → Prop}
    (hpat : ∀ i j, i < nb → inPat rowptr colidx i j = true → G i j ∧ G j i)
    (hclosed : ∀ i j k, k < i → k < j → G i k → G k j → G i j) {i j : Nat} (h : (i, j) ∈ fillOf nb rowptr colidx) : G i j := by
  obtain ⟨rfl, hi⟩ | h | h := mem_fillOf.mp h
  · exact (hpat i i hi (inPat_self_of_patternOk hp hi)).1
  · exact (h.least hpat hclosed).1
  · exact (h.least hpat hclosed).2

/-! The order of the blocks, and the elimination tree -/

theorem pairwise_fillOf : (fillOf nb rowptr colidx).Pairwise (fun p q => toLex p < toLex q) := by
  refine List.pairwise_flatMap.mpr ⟨fun i _ => ?_, ?_⟩
  · refine List.pairwise_map.mpr ((List.pairwise_lt_range.filter _).imp fun hlt => ?_)
    exact Prod.Lex.toLex_lt_toLex.mpr (.inr ⟨rfl, hlt⟩)
  · refine List.pairwise_lt_range.imp fun hlt p hp q hq => ?_
    obtain ⟨j, -, rfl⟩ := List.mem_map.mp hp
    obtain ⟨j', -, rfl⟩ := List.mem_map.mp hq
    exact Prod.Lex.toLex_lt_toLex.mpr (.inl hlt)

theorem nodup_fillOf : (fillOf nb rowptr colidx).Nodup :=
  pairwise_fillOf.imp fun hlt heq => hlt.ne (congrArg toLex heq)

end Rows

theorem parentOf_eq_none_iff {fill : List (Nat × Nat)} {k : Nat} : parentOf fill k = none ↔ ∀ j, k < j → (k, j) ∉ fill := by
  simp only [parentOf, Option.map_eq_none_iff, List.find?_eq_none, decide_eq_true_eq, Prod.forall]
  grind

/-- In a list in row order, the first block of row `k` above the diagonal is the one of the smallest column. -/
theorem parentOf_least {fill : List (Nat × Nat)} (hord : fill.Pairwise (fun p q => toLex p < toLex q)) {k j : Nat}
    (h : parentOf fill k = some j) : k < j ∧ (k, j) ∈ fill ∧ ∀ j', k < j' → (k, j') ∈ fill → j ≤ j' := by
  obtain ⟨⟨k', j⟩, hfind, rfl⟩ := Option.map_eq_some_iff.mp h
  obtain ⟨hp, before, behind, rfl, hbefore⟩ := List.find?_eq_some_iff_append.mp hfind
  obtain ⟨rfl, hkj⟩ := of_decide_eq_true hp
  refine ⟨hkj, by simp, fun j' hj' hmem => ?_⟩
  obtain hmem | hmem := List.mem_append.mp hmem
  · simpa [hj'] using hbefore _ hmem
  obtain heq | hmem := List.mem_cons.mp hmem
  · exact (congrArg Prod.snd heq).ge
  · obtain ⟨-, hord, -⟩ := List.pairwise_append.mp hord
    have hlt := List.rel_of_pairwise_cons hord hmem
    obtain hlt | ⟨-, hlt⟩ := Prod.Lex.toLex_lt_toLex.mp hlt
    · exact absurd hlt (lt_irrefl _)
    · exact hlt.le

theorem parentOf_eq_some_iff {fill : List (Nat × Nat)} (hord : fill.Pairwise (fun p q => toLex p < toLex q)) {k j : Nat} :
    parentOf fill k = some j ↔ k < j ∧ (k, j) ∈ fill ∧ ∀ j', k < j' → (k, j') ∈ fill → j ≤ j' := by
  refine ⟨parentOf_least hord, fun ⟨hkj, hmem, hleast⟩ => ?_⟩
  cases hpar : parentOf fill k with
  | none => exact absurd hmem (parentOf_eq_none_iff.mp hpar j hkj)
  | some p =>
    obtain ⟨hkp, hpmem, hpleast⟩ := parentOf_least hord hpar
    rw [le_antisymm (hpleast j hkj hmem) (hleast p hkp hpmem)]

/-! SOL_CTX1 -/

theorem getBits_solCtxWord_bf {c : SolCtx} (hf : c.fill.length < 2 ^ 31) (hc : c.colidx.length < 2 ^ 32) :
    getBits (solCtxWord (some c) 1).toNat 32 31 = c.fill.length := by
  have hor : c.colidx.length ||| c.fill.length <<< 32 = c.fill.length * 2 ^ 32 + c.colidx.length := by
    rw [Nat.or_comm, ← Nat.shiftLeft_add_eq_or_of_lt hc, Nat.shiftLeft_eq]
  rw [solCtxWord, hor, BitVec.toNat_ofNat, getBits, Nat.shiftRight_eq_div_pow]
  omega

/-- Settles O36: the rows' recursion gives closure and leastness, the blocks' row order the count and the tree. -/
theorem filledPattern : Obligations.FilledPattern := by
  unfold Obligations.FilledPattern
  intro nb rowptr colidx hp F
  refine ⟨fun i j h => ⟨mem_fillOf_comm.mp h, lt_of_mem_fillOf h⟩, fun i j => mem_fillOf_of_inPat hp, fun i j k => fillOf_closed,
    fun G hpat hclosed i j => fillOf_least hp hpat hclosed, nodup_fillOf, ?_, fun k j => ?_, fun k => ?_⟩
  · intro c hc hf hcol
    rw [← hc] at hf ⊢
    exact getBits_solCtxWord_bf hf hcol
  · simp only [F, mem_fillOf_comm (j := k)]
    exact parentOf_eq_some_iff pairwise_fillOf
  · simp only [F, mem_fillOf_comm (j := k)]
    exact parentOf_eq_none_iff

end Sys2Proof.Machine
end
